-- ==== Sys2Proof/Word.lean ====
section
/-!
DEFINITION. The word types of the machine and the exact numbers that R8's pseudocode computes with.
-/

namespace Sys2Proof

/-- A scalar register's 64 bits (R244). -/
abbrev Word := BitVec 64

/-- A byte of an object, of scratchpad or of a slot (R4). -/
abbrev Byte := BitVec 8

/-- An instruction word (R15). -/
abbrev IWord := BitVec 32

/-- The signed reading of a register value (R8). -/
abbrev Word.signed (x : Word) : Int := x.toInt

end Sys2Proof
end

