-- ==== Sys2Proof/Machine/Formats.lean ====
section
/-!
DEFINITION. Number formats and their codes (R20, R144 to R147), as the decoder and every engine use them.
-/

namespace Sys2Proof

/-- The fifteen formats of the extended type code (R20). -/
inductive Fmt where
  | f32 | bf16 | f16 | e4m3 | e5m2 | e3m2 | e2m3 | e2m1 | i32 | i16 | i8 | u8 | e8m0 | u16 | u32
  deriving DecidableEq, Repr

/-- The rounding modes (R20, R148). -/
inductive Rnd where
  | rne | rz | rup | rdn | sr
  deriving DecidableEq, Repr

namespace Machine

/-- The format of an extended type code; code 15 is reserved (R20). -/
def fmtOfCode (c : Nat) : Option Fmt :=
  match c with
  | 0 => some .f32 | 1 => some .bf16 | 2 => some .f16 | 3 => some .e4m3 | 4 => some .e5m2
  | 5 => some .e3m2 | 6 => some .e2m3 | 7 => some .e2m1 | 8 => some .i32 | 9 => some .i16
  | 10 => some .i8 | 11 => some .u8 | 12 => some .e8m0 | 13 => some .u16 | 14 => some .u32
  | _ => none

/-- The extended type code of a format (R20). -/
def fmtCode : Fmt → Nat
  | .f32 => 0 | .bf16 => 1 | .f16 => 2 | .e4m3 => 3 | .e5m2 => 4 | .e3m2 => 5 | .e2m3 => 6
  | .e2m1 => 7 | .i32 => 8 | .i16 => 9 | .i8 => 10 | .u8 => 11 | .e8m0 => 12 | .u16 => 13 | .u32 => 14

/-- The format of a type field t of Form P (R20). -/
def fmtOfT (t : Nat) : Fmt :=
  match t with
  | 0 => .f32 | 1 => .bf16 | 2 => .f16 | 3 => .i32 | 4 => .i16 | 5 => .i8 | 6 => .u16 | _ => .u8

/-- The rounding mode of a code; codes 5 to 7 are reserved (R20). -/
def rndOfCode (c : Nat) : Option Rnd :=
  match c with
  | 0 => some .rne | 1 => some .rz | 2 => some .rup | 3 => some .rdn | 4 => some .sr | _ => none

/-- Element width in bits (03, before R50). -/
def fmtWidth : Fmt → Nat
  | .f32 | .i32 | .u32 => 32
  | .bf16 | .f16 | .i16 | .u16 => 16
  | .e4m3 | .e5m2 | .i8 | .u8 | .e8m0 => 8
  | .e3m2 | .e2m3 => 6
  | .e2m1 => 4

/-- Exponent bits, mantissa bits and bias of a float format (R145). -/
def fmtParams : Fmt → Option (Nat × Nat × Nat)
  | .f32 => some (8, 23, 127) | .bf16 => some (8, 7, 127) | .f16 => some (5, 10, 15)
  | .e4m3 => some (4, 3, 7) | .e5m2 => some (5, 2, 15) | .e3m2 => some (3, 2, 3)
  | .e2m3 => some (2, 3, 1) | .e2m1 => some (2, 1, 1)
  | _ => none

/-- Whether an integer format is signed (R147). -/
def fmtSigned : Fmt → Bool
  | .i32 | .i16 | .i8 => true
  | _ => false

/-- Whether a format is one of the integer formats (R147). -/
def fmtIsInt : Fmt → Bool
  | .i32 | .i16 | .i8 | .u8 | .u16 | .u32 => true
  | _ => false

/-- Element formats of MX data: codes 3 to 7 (R49, R157). -/
def fmtMxOk : Fmt → Bool
  | .e4m3 | .e5m2 | .e3m2 | .e2m3 | .e2m1 => true
  | _ => false

end Machine
end Sys2Proof
end

