-- ==== Sys2Proof/Machine/Flags.lean ====
section
/-!
DEFINITION. Exact numbers, the encodings of the formats (R144 to R147), rounding and overflow with their flags (R148, R149), conversion
(R153 to R155), exact float arithmetic with its specials (R176), the SR generator (R150, R151), MX blocks (R157, R158) and the built-in
functions (R180).
-/

namespace Sys2Proof.Machine

/-- The flag bits of R159: INVALID, OVERFLOW, UNDERFLOW, INEXACT, SATURATED. -/
abbrev Fl := BitVec 5

/-- INVALID. -/
def flINVALID : Fl := 1
/-- OVERFLOW. -/
def flOVERFLOW : Fl := 2
/-- UNDERFLOW. -/
def flUNDERFLOW : Fl := 4
/-- INEXACT. -/
def flINEXACT : Fl := 8
/-- SATURATED. -/
def flSATURATED : Fl := 16

/-- An exact binary number m · 2^e. -/
structure Dy where
  m : Int
  e : Int
  deriving DecidableEq, Repr

/-- Sum. -/
def Dy.add (x y : Dy) : Dy :=
  let e := min x.e y.e
  { m := x.m * 2 ^ (x.e - e).toNat + y.m * 2 ^ (y.e - e).toNat, e := e }

/-- Product. -/
def Dy.mul (x y : Dy) : Dy := { m := x.m * y.m, e := x.e + y.e }

/-- Negation. -/
def Dy.neg (x : Dy) : Dy := { x with m := -x.m }

/-- Times 2^k. -/
def Dy.scale (x : Dy) (k : Int) : Dy := { x with e := x.e + k }

/-- floor(log2 |x|) of a nonzero number. -/
def Dy.log2 (x : Dy) : Int := (Nat.log2 x.m.natAbs : Int) + x.e

/-- x < y. -/
def Dy.lt (x y : Dy) : Bool := (x.add y.neg).m < 0

/-- A number in multiples of 2^-48. -/
def q48 (n : Int) : Dy := { m := n, e := -48 }

/-- What a pattern of a float format or of E8M0 denotes (R144 to R146); a finite value is not zero. -/
inductive FVal where
  | nan | inf (s : Bool) | zero (s : Bool) | fin (d : Dy)
  deriving DecidableEq, Repr

/-- The value that a pattern of an integer format denotes (R147). -/
def intVal (f : Fmt) (b : Nat) : Int :=
  let w := fmtWidth f
  let b := b % 2 ^ w
  if fmtSigned f && 2 ^ (w - 1) ≤ b then (b : Int) - 2 ^ w else b

/-- The value of a pattern of a float format, of E8M0, or of an integer format (R144 to R147). -/
def fval (f : Fmt) (b : Nat) : FVal :=
  match fmtParams f with
  | some (e, m, bias) =>
    let s := b / 2 ^ (e + m) % 2 == 1
    let ex := b / 2 ^ m % 2 ^ e
    let ma := b % 2 ^ m
    let top := ex == 2 ^ e - 1
    let isNan := match f with
      | .f32 | .bf16 | .f16 | .e5m2 => top && ma != 0
      | .e4m3 => top && ma == 7
      | _ => false
    let isInf := match f with
      | .f32 | .bf16 | .f16 | .e5m2 => top && ma == 0
      | _ => false
    let sg : Int := if s then -1 else 1
    if isNan then .nan
    else if isInf then .inf s
    else if ex = 0 then if ma = 0 then .zero s else .fin { m := sg * ma, e := 1 - (bias : Int) - m }
    else .fin { m := sg * (2 ^ m + ma : Nat), e := (ex : Int) - bias - m }
  | none =>
    if f = .e8m0 then if b % 256 = 255 then .nan else .fin { m := 1, e := (b % 256 : Nat) - 127 }
    else if intVal f b = 0 then .zero false else .fin { m := intVal f b, e := 0 }

/-- The canonical NaN of a format; zero where it has none (R145, R146). -/
def canonNan : Fmt → Nat
  | .f32 => 0x7FC00000 | .bf16 => 0x7FC0 | .f16 => 0x7E00 | .e4m3 => 0x7F | .e5m2 => 0x7E | .e8m0 => 0xFF | _ => 0

/-- The encoding of the largest finite magnitude (R145, R146). -/
def maxEnc : Fmt → Nat
  | .f32 => 0x7F7FFFFF | .bf16 => 0x7F7F | .f16 => 0x7BFF | .e4m3 => 0x7E | .e5m2 => 0x7B | .e3m2 => 0x1F | .e2m3 => 0x1F
  | .e2m1 => 0x7 | .e8m0 => 0xFE | _ => 0

/-- The sign bit of a float pattern. -/
def signBit (f : Fmt) (s : Bool) : Nat := if s then 2 ^ (fmtWidth f - 1) else 0

/-- Infinity of a format that has one (R145). -/
def infEnc (f : Fmt) (s : Bool) : Nat := maxEnc f + 1 + signBit f s

/-- Exponent of the weight of the last kept bit (R148). -/
def lastBit (f : Fmt) (x : Dy) : Int :=
  match fmtParams f with
  | some (_, m, bias) => max x.log2 (1 - (bias : Int)) - m
  | none => if f = .e8m0 then x.log2 else 0

/-- The smallest normal exponent (R145, R146). -/
def minExp (f : Fmt) : Int :=
  match fmtParams f with
  | some (_, _, bias) => 1 - (bias : Int)
  | none => -127

/-- Integer part and fraction of |x| / 2^q, the fraction as n / 2^k. A fraction below 2^-64 keeps its being nonzero only: no mode tells
such fractions apart, as random fields have at most 32 bits (R148, R151). -/
def splitAt (x : Dy) (q : Int) : Nat × Nat × Nat :=
  let a := x.m.natAbs
  if q ≤ x.e then (a * 2 ^ (x.e - q).toNat, 0, 0)
  else
    let k := (q - x.e).toNat
    if Nat.log2 a + 64 < k then (0, 1, 64)
    else (a / 2 ^ k, a % 2 ^ k, k)

/-- Whether a rounding goes up (R148). `w` is the width of the random field. -/
def roundUp (mode : Rnd) (s : Bool) (lo n k w rnd : Nat) : Bool :=
  match mode with
  | .rne => 2 ^ k < 2 * n || (2 * n == 2 ^ k && lo % 2 == 1)
  | .rz => false
  | .rup => 0 < n && !s
  | .rdn => 0 < n && s
  | .sr => 2 ^ w ≤ n * 2 ^ w / 2 ^ k + rnd

/-- round_fmt of a nonzero number up to the test of the range (R148): the multiple of 2^q, q, and the flags. -/
def roundFmt (f : Fmt) (mode : Rnd) (w rnd : Nat) (x : Dy) : Nat × Int × Fl :=
  let q := lastBit f x
  let (lo, n, k) := splitAt x q
  let r := lo + (roundUp mode (x.m < 0) lo n k w rnd).toNat
  let inex := n != 0
  let tiny := inex && !fmtIsInt f && x.log2 < minExp f
  let fl := (if inex then flINEXACT else 0) ||| (if tiny then flUNDERFLOW else 0)
  if f = .e8m0 ∧ (Nat.log2 r : Int) + q < -127 then (1, -127, fl ||| flINEXACT ||| flUNDERFLOW) else (r, q, fl)

/-- The magnitude pattern of r · 2^q on the unbounded grid of a float format or of E8M0. -/
def gridEnc (f : Fmt) (r : Nat) (q : Int) : Nat :=
  match fmtParams f with
  | some (_, m, bias) => (q - (1 - (bias : Int) - m)).toNat * 2 ^ m + r
  | none => ((Nat.log2 r : Int) + q + 127).toNat

/-- An overflow's result (R149). -/
def overflowEnc (f : Fmt) (mode : Rnd) (s sat : Bool) : Nat × Fl :=
  let fl := flOVERFLOW ||| flINEXACT
  let toMax := mode == .rz || (mode == .rdn && !s) || (mode == .rup && s)
  let mx := maxEnc f + signBit f s
  match f with
  | .e3m2 | .e2m3 | .e2m1 => (mx, fl ||| flSATURATED)
  | .e8m0 => if sat then (0xFE, fl ||| flSATURATED) else (if toMax then 0xFE else 0xFF, fl)
  | .e4m3 => if sat then (mx, fl ||| flSATURATED) else (if toMax then mx else 0x7F + signBit f s, fl)
  | _ => if sat then (mx, fl ||| flSATURATED) else (if toMax then mx else infEnc f s, fl)

/-- A nonzero number rounded to a float format or to E8M0, with its overflow (R148, R149). -/
def roundFloat (f : Fmt) (mode : Rnd) (w rnd : Nat) (sat : Bool) (x : Dy) : Nat × Fl :=
  let (r, q, fl) := roundFmt f mode w rnd x
  let b := gridEnc f r q
  if maxEnc f < b then
    let (v, g) := overflowEnc f mode (x.m < 0) sat
    (v, fl ||| g)
  else (if f = .e8m0 then b else b + signBit f (x.m < 0), fl)

/-- Ends of an integer format's range (R147). -/
def intMin (f : Fmt) : Int := if fmtSigned f then -(2 ^ (fmtWidth f - 1)) else 0
/-- The upper end (R147). -/
def intMax (f : Fmt) : Int := if fmtSigned f then 2 ^ (fmtWidth f - 1) - 1 else 2 ^ fmtWidth f - 1

/-- The pattern of an integer modulo 2^n. -/
def intEnc (f : Fmt) (v : Int) : Nat := (v % 2 ^ fmtWidth f).toNat

/-- An integer clamped to a format's range (R154, R155). -/
def clampInt (f : Fmt) (v : Int) : Nat × Fl :=
  if v < intMin f then (intEnc f (intMin f), flSATURATED)
  else if intMax f < v then (intEnc f (intMax f), flSATURATED)
  else (intEnc f v, 0)

/-- A nonzero number rounded to an integer format (R154). -/
def roundInt (f : Fmt) (mode : Rnd) (w rnd : Nat) (x : Dy) : Nat × Fl :=
  let (r, _, fl) := roundFmt f mode w rnd x
  let (v, g) := clampInt f (if x.m < 0 then -(r : Int) else r)
  (v, fl ||| g)

/-- The conversion of a value to a format (R153). -/
def convVal (dst : Fmt) (mode : Rnd) (w rnd : Nat) (sat : Bool) (v : FVal) : Nat × Fl :=
  if fmtIsInt dst then
    match v with
    | .nan => (0, flINVALID)
    | .inf s => (intEnc dst (if s then intMin dst else intMax dst), flSATURATED)
    | .zero _ => (0, 0)
    | .fin d => roundInt dst mode w rnd d
  else if dst = .e8m0 then
    match v with
    | .nan => (0xFF, 0)
    | .inf true => (0xFF, flINVALID)
    | .inf false => if sat then (0xFE, flSATURATED) else (0xFF, flINVALID)
    | .zero _ => (0xFF, flINVALID)
    | .fin d => if d.m < 0 then (0xFF, flINVALID) else roundFloat dst mode w rnd sat d
  else
    match v with
    | .nan => match dst with
      | .e3m2 | .e2m3 | .e2m1 => (0, flINVALID)
      | _ => (canonNan dst, 0)
    | .inf s => match dst with
      | .e3m2 | .e2m3 | .e2m1 => (maxEnc dst + signBit dst s, flSATURATED)
      | .e4m3 => if sat then (maxEnc dst + signBit dst s, flSATURATED) else (0x7F + signBit dst s, flINVALID)
      | _ => if sat then (maxEnc dst + signBit dst s, flSATURATED) else (infEnc dst s, 0)
    | .zero s => (signBit dst s, 0)
    | .fin d => roundFloat dst mode w rnd sat d

/-- A conversion from any format to any format (R153, R155). -/
def convert (src dst : Fmt) (mode : Rnd) (w rnd : Nat) (sat : Bool) (b : Nat) : Nat × Fl :=
  if src = dst then (b % 2 ^ fmtWidth src, 0)
  else if fmtIsInt src && fmtIsInt dst then
    if sat then clampInt dst (intVal src b) else (intEnc dst (intVal src b), 0)
  else convVal dst mode w rnd sat (fval src b)

/-- An exact result before its rounding (R176): a number whose zero has a sign, an infinity, a NaN, or an invalid operation. -/
inductive Ex where
  | nan | invalid | inf (s : Bool) | num (d : Dy) (negZero : Bool)
  deriving DecidableEq, Repr

/-- A value as an exact operand. -/
def FVal.ex : FVal → Ex
  | .nan => .nan
  | .inf s => .inf s
  | .zero s => .num { m := 0, e := 0 } s
  | .fin d => .num d false

/-- The sign of an exact operand that is not a NaN. -/
def Ex.neg? : Ex → Bool
  | .inf s => s
  | .num d z => if d.m = 0 then z else d.m < 0
  | _ => false

/-- Negation. -/
def Ex.neg : Ex → Ex
  | .inf s => .inf !s
  | .num d z => .num d.neg !z
  | x => x

/-- Product (R176). -/
def Ex.mul (x y : Ex) : Ex :=
  match x, y with
  | .nan, _ | _, .nan => .nan
  | .invalid, _ | _, .invalid => .invalid
  | .num d z, .num g u => .num (d.mul g) ((Ex.num d z).neg? != (Ex.num g u).neg?)
  | .inf s, .num g u => if g.m = 0 then .invalid else .inf (s != (Ex.num g u).neg?)
  | .num d z, .inf s => if d.m = 0 then .invalid else .inf (s != (Ex.num d z).neg?)
  | .inf s, .inf r => .inf (s != r)

/-- Sum (R176): a zero sum is −0 only when every addend is −0. -/
def Ex.add (x y : Ex) : Ex :=
  match x, y with
  | .nan, _ | _, .nan => .nan
  | .invalid, _ | _, .invalid => .invalid
  | .inf s, .inf r => if s = r then .inf s else .invalid
  | .inf s, _ => .inf s
  | _, .inf s => .inf s
  | .num d z, .num g u => .num (d.add g) (d.m == 0 && z && g.m == 0 && u)

/-- An exact result rounded once to a float format (R176), without saturation. -/
def Ex.round (f : Fmt) (mode : Rnd) (w rnd : Nat) : Ex → Nat × Fl
  | .nan => (canonNan f, 0)
  | .invalid => (canonNan f, flINVALID)
  | .inf s => (infEnc f s, 0)
  | .num d z => if d.m = 0 then (signBit f z, 0) else roundFloat f mode w rnd false d

/-- An operand of a float format. -/
def exOf (f : Fmt) (b : Nat) : Ex := (fval f b).ex

/-- a + b in a float format, rounded once under RNE (R176). -/
def fAdd (f : Fmt) (a b : Nat) : Nat × Fl := ((exOf f a).add (exOf f b)).round f .rne 0 0

/-- The order of R177 and R178: −0 and +0 are equal here. -/
def fLess (a b : FVal) : Bool :=
  match a, b with
  | .nan, _ | _, .nan => false
  | .inf s, .inf r => s && !r
  | .inf s, _ => s
  | _, .inf r => !r
  | .fin d, .fin g => d.lt g
  | .fin d, .zero _ => d.m < 0
  | .zero _, .fin g => 0 < g.m
  | .zero _, .zero _ => false

/-- Equality of values (R178). -/
def fEqual (a b : FVal) : Bool :=
  match a, b with
  | .nan, _ | _, .nan => false
  | .zero _, .zero _ => true
  | _, _ => !fLess a b && !fLess b a

/-- The larger or the smaller operand, −0 below +0; a NaN gives the canonical NaN (R177). -/
def fMaxMin (f : Fmt) (mx : Bool) (a b : Nat) : Nat :=
  let x := fval f a
  let y := fval f b
  let less := fLess x y || (match x, y with | .zero true, .zero false => true | _, _ => false)
  match x, y with
  | .nan, _ | _, .nan => canonNan f
  | _, _ => if less == mx then b else a

/-- The random word of a lane (R150). -/
def randomWord (seed stream n : BitVec 64) (i : Nat) : BitVec 32 :=
  let z := seed ^^^ stream ^^^ (n * 0x9E3779B97F4A7C15) ^^^ (BitVec.ofNat 64 i * 0xD1B54A32D192ED03)
  let z := (z ^^^ (z >>> 30)) * 0xBF58476D1CE4E5B9
  let z := (z ^^^ (z >>> 27)) * 0x94D049BB133111EB
  let z := z ^^^ (z >>> 31)
  z.extractLsb' 32 32

/-- The random field of element k of a lane of P elements (R151). -/
def randomField (word : BitVec 32) (P k : Nat) : Nat :=
  let w := 32 / P
  word.toNat / 2 ^ (32 - (k + 1) * w) % 2 ^ w

/-- emax of an MX element format (R157). -/
def mxEmax : Fmt → Int
  | .e4m3 => 8 | .e5m2 => 15 | .e3m2 => 4 | _ => 2

/-- A float value divided by 2^x. -/
def FVal.descale (x : Int) : FVal → FVal
  | .fin d => .fin (d.scale (-x))
  | v => v

/-- Quantisation of a block of values (R157): the scale, the elements with their flags, and the block's own flags. `rnd` gives the random
field of each element. -/
def mxQuantise (xs : List FVal) (elem : Fmt) (mode : Rnd) (w : Nat) (rnd : Nat → Nat) : Nat × List (Nat × Fl) × Fl :=
  let special := xs.any fun v => match v with | .nan => true | .inf _ => true | _ => false
  let mags := xs.filterMap fun v => match v with | .fin d => some d.log2 | _ => none
  if special then (0xFF, xs.map fun _ => (0, 0), flINVALID)
  else match mags with
    | [] => (0, xs.map (fun v => match v with | .zero s => (signBit elem s, 0) | _ => (0, 0)), 0)
    | l :: ls =>
      let X := max (-127) (min 127 (ls.foldl max l - mxEmax elem))
      ((X + 127).toNat, xs.zipIdx.map fun p => convVal elem mode w (rnd p.2) true (p.1.descale X), 0)

/-- The value of an element of an MX block (R158). -/
def mxValue (elem : Fmt) (scale b : Nat) : FVal :=
  if scale % 256 = 255 then .nan
  else match fval elem b with
    | .fin d => .fin (d.scale ((scale % 256 : Nat) - 127))
    | v => v

/-- Integer square root by Newton's steps from above. -/
def isqrtFrom (n : Nat) : Nat → Nat → Nat
  | 0, x => x
  | fuel + 1, x => let y := (x + n / x) / 2; if y < x then isqrtFrom n fuel y else x

/-- floor(sqrt n). -/
def isqrt (n : Nat) : Nat := if n = 0 then 0 else isqrtFrom n 128 (2 ^ (Nat.log2 n / 2 + 1))

/-- n-fold integer square root: floor(x^(1/2^n)). -/
def isqrtIter : Nat → Nat → Nat
  | 0, x => x
  | n + 1, x => isqrtIter n (isqrt x)

/-- The reciprocal entry 8,192 / (8,193 + 2j) in multiples of 2^-48 (R180). -/
def rcpEntry (j : Nat) : Nat := (8192 * 2 ^ 49 / (8193 + 2 * j) + 1) / 2

/-- The entry √(4,096 / (4,097 + 2j)) in multiples of 2^-48 (R180). -/
def rsqEntry (j : Nat) : Nat := (isqrt (2 ^ 98 * 4096 / (4097 + 2 * j)) + 1) / 2

/-- The entry 2^((2j + 1) / 8,192) in multiples of 2^-48 (R180): the 8,192nd root as thirteen square roots. -/
def exp2Entry (j : Nat) : Nat := (isqrtIter 13 (2 ^ (2 * j + 1 + 49 * 8192)) + 1) / 2

/-- Bits of log2 of y / 2^128 for y in [2^128, 2^129), most significant first, by squaring. -/
def log2Bits : Nat → Nat → Nat → Nat
  | 0, _, acc => acc
  | n + 1, y, acc =>
    let z := y * y / 2 ^ 128
    if 2 ^ 129 ≤ z then log2Bits n (z / 2) (2 * acc + 1) else log2Bits n z (2 * acc)

/-- The entry log2(1/r0) for the rounded r0, in multiples of 2^-48 (R180). -/
def log2Entry (j : Nat) : Nat := if j = 0 then 0 else (log2Bits 64 (2 ^ 176 / rcpEntry j) 0 + 2 ^ 15) / 2 ^ 16

/-- ln 2, (ln 2)²/2, 1/ln 2 and −1/(2 ln 2) in multiples of 2^-48 (R180). -/
def cL1 : Dy := q48 195103586505167
/-- (ln 2)²/2. -/
def cL2 : Dy := q48 67617750451595
/-- 1/ln 2. -/
def cK1 : Dy := q48 406082553034800
/-- −1/(2 ln 2). -/
def cK2 : Dy := q48 (-203041276517400)

/-- An integer as an exact number. -/
def dyInt (n : Int) : Dy := { m := n, e := 0 }

/-- floor of |x| · 2^k. -/
def Dy.floorAbs (x : Dy) (k : Int) : Nat := (splitAt x (-k)).1

/-- The mantissa of |x| in [1, 2). -/
def Dy.mant (x : Dy) : Dy := { m := x.m.natAbs, e := x.e - x.log2 }

/-- v of VRCP (R180). -/
def rcpVal (x : Dy) : Dy :=
  let m := x.mant
  let r0 := q48 (rcpEntry (m.floorAbs 12 - 4096))
  let v := ((r0.mul ((dyInt 2).add (m.mul r0).neg)).scale (-x.log2))
  if x.m < 0 then v.neg else v

/-- v of VRSQ (R180), for x > 0. -/
def rsqVal (x : Dy) : Dy :=
  let E := x.log2 - x.log2 % 2
  let m : Dy := { m := x.m, e := x.e - E }
  let r0 := q48 (rsqEntry (m.floorAbs 11 - 2048))
  (r0.mul ((dyInt 3).add (m.mul (r0.mul r0)).neg)).scale (-(E / 2) - 1)

/-- Whether a number is an integer. -/
def Dy.isInt (x : Dy) : Bool := 0 ≤ x.e || ((-x.e).toNat ≤ Nat.log2 x.m.natAbs && x.m % 2 ^ (-x.e).toNat == 0)

/-- floor of a number. -/
def Dy.floor (x : Dy) : Int := if 0 ≤ x.e then x.m * 2 ^ x.e.toNat else Int.ediv x.m (2 ^ (-x.e).toNat)

/-- v of VEXP2 (R180). -/
def exp2Val (x : Dy) : Dy :=
  if x.isInt then { m := 1, e := x.floor }
  else
    let n := x.floor
    let f := x.add (dyInt (-n))
    let j := f.floorAbs 12
    let c : Dy := { m := 2 * j + 1, e := -13 }
    let g := f.add c.neg
    let p := (dyInt 1).add ((g.mul cL1).add ((g.mul g).mul cL2))
    ((q48 (exp2Entry j)).mul p).scale n

/-- v of VLOG2 (R180), for x > 0. -/
def log2Val (x : Dy) : Dy :=
  let m := x.mant
  let E := dyInt x.log2
  let j := m.floorAbs 12 - 4096
  if (m.add (dyInt (-1))).m = 0 then E
  else
    let r0 := if j = 0 then dyInt 1 else q48 (rcpEntry j)
    let u := (m.mul r0).add (dyInt (-1))
    E.add ((q48 (log2Entry j)).add ((u.mul cK1).add ((u.mul u).mul cK2)))

/-- The built-in functions of R180. -/
inductive Builtin where
  | rcp | rsq | exp2 | log2
  deriving DecidableEq, Repr

/-- A built-in function of one element (R180). DEDUCED, log entry 24. -/
def builtin (k : Builtin) (f : Fmt) (b : Nat) : Nat × Fl :=
  let rnd := fun (d : Dy) => if d.m = 0 then ((0, 0) : Nat × Fl) else roundFloat f .rne 0 0 false d
  match k, fval f b with
  | _, .nan => (canonNan f, 0)
  | .rcp, .zero s => (infEnc f s, 0)
  | .rcp, .inf s => (signBit f s, 0)
  | .rcp, .fin d => rnd (rcpVal d)
  | .rsq, .zero s => (infEnc f s, 0)
  | .rsq, .inf false => (0, 0)
  | .rsq, .inf true => (canonNan f, flINVALID)
  | .rsq, .fin d => if d.m < 0 then (canonNan f, flINVALID) else rnd (rsqVal d)
  | .exp2, .zero _ => rnd (dyInt 1)
  | .exp2, .inf false => (infEnc f false, 0)
  | .exp2, .inf true => (0, 0)
  | .exp2, .fin d => rnd (exp2Val d)
  | .log2, .zero _ => (infEnc f true, 0)
  | .log2, .inf false => (infEnc f false, 0)
  | .log2, .inf true => (canonNan f, flINVALID)
  | .log2, .fin d => if d.m < 0 then (canonNan f, flINVALID) else rnd (log2Val d)

end Sys2Proof.Machine
end

