-- ==== Sys2Proof/Config.lean ====
section
/-!
DEFINITION. What an implementation fixes, and the free values: constants without a body, of which nothing can be proved, for
every value that the spec leaves open. Each is named in notes/assumptions.
-/

namespace Sys2Proof.Config

/-- Whether byte number k that a write ending in FETCH-ERROR covers takes the value written (R74). Free (DESIGN CHOICE, log entry 7). -/
opaque tornByte : Nat → Bool

/-- Whether the host ring of an endpoint is full when it holds n messages (R79). Free (DESIGN CHOICE, log entry 9). -/
opaque hostRingFull : Nat → Nat → Bool

/-- The place, among the free trigger numbers, of the number that PLAN returns (R69). Free (DESIGN CHOICE, log entry 10). -/
opaque triggerPick : Nat → Nat

/-- Whether Ed448 verifies a signature of 114 bytes over a digest under the Lerith key (R331, R332). Free (DESIGN CHOICE, log entry 11). -/
opaque signatureOk : BitVec 512 → List Byte → Bool

/-- What a 16-byte block that AES-256-XTS wrote under one key and a tweak reads as under another key (R78). Free (DESIGN CHOICE, log
entry 11). -/
opaque rekey : BitVec 512 → BitVec 512 → BitVec 128 → BitVec 128 → BitVec 128

/-- The controller of a tier that serves a line (R287): its number modulo the controllers. Free (DESIGN CHOICE, log entry 90). -/
opaque controller : Nat → Nat

/-- The fabric egress port towards an endpoint (R71). Free (DESIGN CHOICE, log entry 90). -/
opaque egressPort : Nat → Nat

/-- Whether a peer's L2 bypasses request number n, and how many lines it evicts for it (R98): its own occupancy. Free (DESIGN CHOICE, log
entry 91). -/
opaque peerL2 : Nat → Bool × Nat

/-- The grants that request number n, which another package serves, gets at the weirs there and on its way (R71, R287, R292): for each its class,
3 to 6 taken modulo 4, whether a token pays, and the clk that it waited. Free (DESIGN CHOICE, log entry 91). -/
opaque peerGrants : Nat → List (Nat × Bool × Nat)

/-- The SHAKE256 digest of an image (R332, R334). Free (DESIGN CHOICE, log entry 11). -/
opaque shake256 : List Byte → BitVec 512

/-- The Ed448 private key that the SRAM PUF yields (R334). Free (DESIGN CHOICE, log entry 11). -/
opaque deviceKey : BitVec 456

/-- The Ed448-signed SPDM answer: key, measurements, request (R334). Free (DESIGN CHOICE, log entry 11). -/
opaque spdmAnswer : BitVec 456 → List (BitVec 512) → List Byte → List Byte

/-- The frames that root firmware loads into the free-frame pool of a die and tier (R331). Free (DESIGN CHOICE, log entry 12). -/
opaque bootPool : Nat → Nat → List (BitVec 32)

/-- The bytes of a poisoned port element whose reading failed (R126, R128), at number n. Free (DESIGN CHOICE, log entry 25). -/
opaque lostElem : Nat → BitVec 2048

/-- The 64 KiB page number of an extent map's root (R48), at number n. Free (DESIGN CHOICE, log entry 18). -/
opaque extentRoot : Nat → BitVec 32

/-- The die to whose pool Mason returns a frame (R91). Free (DESIGN CHOICE, log entry 19). -/
opaque returnDie : Nat → Nat

/-- Whether a peer finds the frames that an object needs there (R58, R65), at number n. Free (DESIGN CHOICE, log entry 123). -/
opaque peerRoom : Nat → Bool

/-- Switch levels between this package and another endpoint (R58). Free (DESIGN CHOICE, log entry 26). -/
opaque switchLevels : Nat → Nat

/-- The key slot under which Mason keeps home maps, one of Mason's own context (R52, R329). Free (DESIGN CHOICE, log entry 21). -/
opaque masonSlot : BitVec 13

/-- Capacity of the weirs of a class in units per 1,024 clk; class 7 comes from the boot manifest (R287). -/
def weirCapacity (cls intake : Nat) : Nat :=
  match cls with
  | 0 => 1024 | 1 => 1024 | 2 => 2048 | 3 => 65536 | 4 => 28444 | 5 => 4888 | 6 => 1991 | _ => intake

/-- Outstanding memory requests of a core (R12). -/
def maxRequests : Nat := 16384

/-- Extent-map walks at a time in a die (R12). -/
def maxWalks : Nat := 256

/-- Ticks after which a local tier, or a peer, that has not replied is given up (R73). -/
def replyTicks (peer : Bool) : Nat := if peer then 1000000 else 50000

/-- Clk within which the dispatcher places a READY task (R274). -/
def placeClk : Nat := 2048

/-- Clk that a word waits before it parks its task (R278). -/
def parkClk : Nat := 4096

/-- Depth of the vector queue, in entries (R32). -/
def vecDepth : Nat := 256

/-- Depth of the matrix and the fetch submit queue, in entries (R32). -/
def subDepth : Nat := 64

/-- Tokens that a FIFO holds at most (R284). -/
def tokMax : Nat := 16

/-- Entries of a ready pool (R269). -/
def poolSize : Nat := 4096

end Sys2Proof.Config
end

