-- ==== Sys2Proof/Syntax.lean ====
section
/-!
DEFINITION. The syntax: one constructor for each row of the opcode table. A constructor of an instruction word carries
the word's stop bit S (R15) and its fields, each with the width of its place in the word (R17, R19, R34); registers and
codes are numbers, and WellFormed.lean says which codes an entry accepts. A constructor of a device step, which no word
encodes, carries what the step is told from outside the unit that performs it.
-/

namespace Sys2Proof

/-- The 259 rows of the opcode table. -/
inductive Instr where
  /-- GROUP_CHECK (R28). -/
  | groupCheck
  /-- GROUP_ADMIT (R29). -/
  | groupAdmit
  /-- PFX (R21). -/
  | pfx (p : BitVec 28)
  /-- ADD (R250). -/
  | add (S : Bool) (d : BitVec 5) (a : BitVec 5) (b : BitVec 5)
  /-- SUB_SUBTRACT (R250). -/
  | sub (S : Bool) (d : BitVec 5) (a : BitVec 5) (b : BitVec 5)
  /-- MUL (R250). -/
  | mul (S : Bool) (d : BitVec 5) (a : BitVec 5) (b : BitVec 5)
  /-- MULH (R250). -/
  | mulh (S : Bool) (d : BitVec 5) (a : BitVec 5) (b : BitVec 5) (u : Bool)
  /-- DIV (R250). -/
  | div (S : Bool) (d : BitVec 5) (a : BitVec 5) (b : BitVec 5) (u : Bool)
  /-- REM (R250). -/
  | rem (S : Bool) (d : BitVec 5) (a : BitVec 5) (b : BitVec 5) (u : Bool)
  /-- AND (R250). -/
  | and (S : Bool) (d : BitVec 5) (a : BitVec 5) (b : BitVec 5)
  /-- OR (R250). -/
  | or (S : Bool) (d : BitVec 5) (a : BitVec 5) (b : BitVec 5)
  /-- XOR (R250). -/
  | xor (S : Bool) (d : BitVec 5) (a : BitVec 5) (b : BitVec 5)
  /-- SHL (R250). -/
  | shl (S : Bool) (d : BitVec 5) (a : BitVec 5) (b : BitVec 5)
  /-- SHR (R250). -/
  | shr (S : Bool) (d : BitVec 5) (a : BitVec 5) (b : BitVec 5)
  /-- SRA (R250). -/
  | sra (S : Bool) (d : BitVec 5) (a : BitVec 5) (b : BitVec 5)
  /-- MIN (R250). -/
  | min (S : Bool) (d : BitVec 5) (a : BitVec 5) (b : BitVec 5) (u : Bool)
  /-- MAX (R250). -/
  | max (S : Bool) (d : BitVec 5) (a : BitVec 5) (b : BitVec 5) (u : Bool)
  /-- CLZ (R250). -/
  | clz (S : Bool) (d : BitVec 5) (a : BitVec 5)
  /-- POPC (R250). -/
  | popc (S : Bool) (d : BitVec 5) (a : BitVec 5)
  /-- SEL (R250). -/
  | sel (S : Bool) (d : BitVec 5) (a : BitVec 5) (b : BitVec 5) (c : BitVec 3)
  /-- MADD (R250). -/
  | madd (S : Bool) (d : BitVec 5) (a : BitVec 5) (b : BitVec 5)
  /-- ADDI (R251). -/
  | addi (S : Bool) (d : BitVec 5) (a : BitVec 5) (i : BitVec 11)
  /-- MULI (R251). -/
  | muli (S : Bool) (d : BitVec 5) (a : BitVec 5) (i : BitVec 11)
  /-- ANDI (R251). -/
  | andi (S : Bool) (d : BitVec 5) (a : BitVec 5) (i : BitVec 11)
  /-- ORI (R251). -/
  | ori (S : Bool) (d : BitVec 5) (a : BitVec 5) (i : BitVec 11)
  /-- XORI (R251). -/
  | xori (S : Bool) (d : BitVec 5) (a : BitVec 5) (i : BitVec 11)
  /-- SHLI (R251). -/
  | shli (S : Bool) (d : BitVec 5) (a : BitVec 5) (i : BitVec 6)
  /-- SHRI (R251). -/
  | shri (S : Bool) (d : BitVec 5) (a : BitVec 5) (i : BitVec 6)
  /-- SRAI (R251). -/
  | srai (S : Bool) (d : BitVec 5) (a : BitVec 5) (i : BitVec 6)
  /-- LI (R251). -/
  | li (S : Bool) (d : BitVec 5) (i : BitVec 16)
  /-- CMP (R252). -/
  | cmp (S : Bool) (c : BitVec 3) (a : BitVec 5) (b : BitVec 5) (k : BitVec 3)
  /-- CMPI (R252). -/
  | cmpi (S : Bool) (c : BitVec 3) (a : BitVec 5) (k : BitVec 3) (i : BitVec 8)
  /-- CLOG (R252). -/
  | clog (S : Bool) (d : BitVec 3) (a : BitVec 3) (b : BitVec 3) (p : BitVec 2)
  /-- PTB (R253). -/
  | ptb (S : Bool) (b : BitVec 3) (i : BitVec 16)
  /-- PTBS (R253). -/
  | ptbs (S : Bool) (d : BitVec 3) (a : BitVec 5)
  /-- BRT (R254). -/
  | brt (S : Bool) (b : BitVec 3) (c : BitVec 3) (l : Bool)
  /-- BRF (R254). -/
  | brf (S : Bool) (b : BitVec 3) (c : BitVec 3) (l : Bool)
  /-- JMP (R254). -/
  | jmp (S : Bool) (b : BitVec 3)
  /-- LOOP (R256). -/
  | loop (S : Bool) (l : BitVec 2) (r : BitVec 5) (n : BitVec 14)
  /-- LOOPI (R256). -/
  | loopi (S : Bool) (l : BitVec 2) (c : BitVec 10) (n : BitVec 9)
  /-- LEXIT (R258). -/
  | lexit (S : Bool) (c : BitVec 3)
  /-- NOP (R249). -/
  | nop (S : Bool)
  /-- LDS (R260). -/
  | lds (S : Bool) (d : BitVec 5) (a : BitVec 5) (i : BitVec 11)
  /-- STS (R260). -/
  | sts (S : Bool) (d : BitVec 5) (a : BitVec 5) (i : BitVec 11)
  /-- MBRD (R261). -/
  | mbrd (S : Bool) (d : BitVec 5) (m : BitVec 3)
  /-- MBWR (R261). -/
  | mbwr (S : Bool) (d : BitVec 5) (m : BitVec 3)
  /-- CSRR (R263). -/
  | csrr (S : Bool) (d : BitVec 5) (n : BitVec 12)
  /-- CSRW (R263). -/
  | csrw (S : Bool) (d : BitVec 5) (n : BitVec 12)
  /-- TIME (R262). -/
  | time (S : Bool) (d : BitVec 5)
  /-- CHK_SCALAR (R248). -/
  | chkScalar (S : Bool) (a : BitVec 5)
  /-- CHK_CONDITION (R248). -/
  | chkCondition (S : Bool) (a : BitVec 3)
  /-- XLD (R240). -/
  | xld (S : Bool) (d : BitVec 5) (a : BitVec 5) (b : BitVec 5) (x : Bool) (p : Bool) (n : BitVec 2)
  /-- XST (R240). -/
  | xst (S : Bool) (d : BitVec 5) (a : BitVec 5) (b : BitVec 5) (n : BitVec 2)
  /-- SPAWN (R275). -/
  | spawn (S : Bool) (d : BitVec 5) (a : BitVec 5) (t : Bool)
  /-- END (R276). -/
  | taskEnd (S : Bool)
  /-- YIELD (R277). -/
  | yield (S : Bool)
  /-- PUB (R232). -/
  | pub (S : Bool) (a : BitVec 5) (p : BitVec 2)
  /-- SUB_SUBSCRIBE (R234). -/
  | subscribe (S : Bool) (a : BitVec 5) (b : BitVec 5)
  /-- SUBT (R234). -/
  | subt (S : Bool) (c : BitVec 3) (a : BitVec 5) (b : BitVec 5)
  /-- GJOIN (R280). -/
  | gjoin (S : Bool) (g : BitVec 2) (a : BitVec 5) (b : BitVec 5)
  /-- GLEAVE (R281). -/
  | gleave (S : Bool) (g : BitVec 2)
  /-- BARR (R282). -/
  | barr (S : Bool) (d : BitVec 5) (w : Bool) (g : BitVec 2)
  /-- BWAIT (R282). -/
  | bwait (S : Bool) (a : BitVec 5) (g : BitVec 2)
  /-- WAITW (R143). -/
  | waitw (S : Bool) (d : BitVec 5) (a : BitVec 5) (b : BitVec 5) (k : BitVec 2)
  /-- TKS (R285). -/
  | tks (S : Bool) (k : BitVec 3)
  /-- TKW (R285). -/
  | tkw (S : Bool) (k : BitVec 3)
  /-- MCLAIM (R138). -/
  | mclaim (S : Bool) (d : BitVec 5) (a : BitVec 5) (t : Bool)
  /-- ALD (R241). -/
  | ald (S : Bool) (d : BitVec 5) (a : BitVec 5) (b : BitVec 5) (u : Bool) (q : Bool) (n : BitVec 2)
  /-- AST (R241). -/
  | ast (S : Bool) (d : BitVec 5) (a : BitVec 5) (b : BitVec 5) (r : Bool) (n : BitVec 2)
  /-- AADD (R241). -/
  | aadd (S : Bool) (d : BitVec 5) (a : BitVec 5) (b : BitVec 5) (u : Bool) (r : Bool) (q : Bool) (n : BitVec 2)
  /-- AMAX (R241). -/
  | amax (S : Bool) (d : BitVec 5) (a : BitVec 5) (b : BitVec 5) (u : Bool) (r : Bool) (q : Bool) (n : BitVec 2)
  /-- AMIN (R241). -/
  | amin (S : Bool) (d : BitVec 5) (a : BitVec 5) (b : BitVec 5) (u : Bool) (r : Bool) (q : Bool) (n : BitVec 2)
  /-- AAND (R241). -/
  | aand (S : Bool) (d : BitVec 5) (a : BitVec 5) (b : BitVec 5) (u : Bool) (r : Bool) (q : Bool) (n : BitVec 2)
  /-- AOR (R241). -/
  | aor (S : Bool) (d : BitVec 5) (a : BitVec 5) (b : BitVec 5) (u : Bool) (r : Bool) (q : Bool) (n : BitVec 2)
  /-- AXCHG (R241). -/
  | axchg (S : Bool) (d : BitVec 5) (a : BitVec 5) (b : BitVec 5) (u : Bool) (r : Bool) (q : Bool) (n : BitVec 2)
  /-- ACAS (R241). -/
  | acas (S : Bool) (d : BitVec 4) (a : BitVec 5) (b : BitVec 5) (u : Bool) (r : Bool) (q : Bool) (n : BitVec 2)
  /-- AFADD (R242). -/
  | afadd (S : Bool) (d : BitVec 5) (a : BitVec 5) (b : BitVec 5) (r : Bool) (q : Bool)
  /-- HQRY (R59). -/
  | hqry (S : Bool) (d : BitVec 5) (a : BitVec 5) (b : BitVec 5) (f : BitVec 6)
  /-- HDUP (R60). -/
  | hdup (S : Bool) (d : BitVec 5) (a : BitVec 5) (b : BitVec 5) (m : Bool)
  /-- HDROP (R61). -/
  | hdrop (S : Bool) (a : BitVec 5)
  /-- OMCALL (R62). -/
  | omcall (S : Bool) (d : BitVec 5) (a : BitVec 5) (b : BitVec 5) (n : BitVec 6)
  /-- OMCALL_REPLY (R62). -/
  | omcallReply
  /-- CREATE (R62). -/
  | create
  /-- DELETE (R62). -/
  | delete
  /-- SEAL (R62). -/
  | seal
  /-- REPLICATE (R62). -/
  | replicate
  /-- MOVE (R65). -/
  | move
  /-- MOVE_COPY (R66). -/
  | moveCopy (oid : BitVec 48)
  /-- MOVE_COMMIT (R66). -/
  | moveCommit (oid : BitVec 48)
  /-- MOVE_ABANDON (R66). -/
  | moveAbandon (oid : BitVec 48)
  /-- PLAN (R69). -/
  | plan
  /-- WINDOW (R77). -/
  | window
  /-- UNWINDOW (R77). -/
  | unwindow
  /-- TRAP (R299). -/
  | trap (S : Bool) (i : BitVec 16)
  /-- ERET (R298). -/
  | eret (S : Bool)
  /-- NOTIFY (R79). -/
  | notify (S : Bool) (d : BitVec 5) (a : BitVec 5) (b : BitVec 5) (t : BitVec 2)
  /-- CTXNEW (R316). -/
  | ctxnew (S : Bool) (d : BitVec 5) (a : BitVec 5)
  /-- CTXGRANT (R317). -/
  | ctxgrant (S : Bool) (d : BitVec 5) (a : BitVec 5) (b : BitVec 5) (m : BitVec 6)
  /-- CTXSET (R318). -/
  | ctxset (S : Bool) (d : BitVec 5) (a : BitVec 5) (b : BitVec 5) (f : BitVec 6)
  /-- CTXRUN (R319). -/
  | ctxrun (S : Bool) (d : BitVec 5) (a : BitVec 5)
  /-- CTXRUN_RESUME (R319). -/
  | ctxrunResume (S : Bool) (d : BitVec 5) (a : BitVec 5) (b : BitVec 5)
  /-- CTXRUN_KILL (R319). -/
  | ctxrunKill (S : Bool) (d : BitVec 5) (a : BitVec 5) (b : BitVec 5)
  /-- CTXSTOP (R320). -/
  | ctxstop (S : Bool) (d : BitVec 5) (a : BitVec 5)
  /-- CTXREVOKE (R322). -/
  | ctxrevoke (S : Bool) (d : BitVec 5) (a : BitVec 5) (k : Bool)
  /-- CTXDEL (R321). -/
  | ctxdel (S : Bool) (d : BitVec 5) (a : BitVec 5)
  /-- LOGARM (R325). -/
  | logarm (S : Bool) (d : BitVec 5) (a : BitVec 5) (b : BitVec 5)
  /-- LOGARM_OFF (R325). -/
  | logarmOff (S : Bool) (d : BitVec 5) (a : BitVec 5)
  /-- PERFR (R326). -/
  | perfr (S : Bool) (d : BitVec 5) (a : BitVec 5) (b : BitVec 5) (t : Bool)
  /-- VADD (R176). -/
  | vadd (S : Bool) (d : BitVec 5) (a : BitVec 5) (b : BitVec 5) (m : BitVec 3) (t : BitVec 3)
  /-- VSUB (R176). -/
  | vsub (S : Bool) (d : BitVec 5) (a : BitVec 5) (b : BitVec 5) (m : BitVec 3) (t : BitVec 3)
  /-- VMUL (R176). -/
  | vmul (S : Bool) (d : BitVec 5) (a : BitVec 5) (b : BitVec 5) (m : BitVec 3) (t : BitVec 3)
  /-- VFMA (R176). -/
  | vfma (S : Bool) (d : BitVec 5) (a : BitVec 5) (b : BitVec 5) (m : BitVec 3) (t : BitVec 3)
  /-- VFMS (R176). -/
  | vfms (S : Bool) (d : BitVec 5) (a : BitVec 5) (b : BitVec 5) (m : BitVec 3) (t : BitVec 3)
  /-- VFNMA (R176). -/
  | vfnma (S : Bool) (d : BitVec 5) (a : BitVec 5) (b : BitVec 5) (m : BitVec 3) (t : BitVec 3)
  /-- VMAX (R177). -/
  | vmax (S : Bool) (d : BitVec 5) (a : BitVec 5) (b : BitVec 5) (m : BitVec 3) (t : BitVec 3)
  /-- VMIN (R177). -/
  | vmin (S : Bool) (d : BitVec 5) (a : BitVec 5) (b : BitVec 5) (m : BitVec 3) (t : BitVec 3)
  /-- VABS (R177). -/
  | vabs (S : Bool) (d : BitVec 5) (a : BitVec 5) (m : BitVec 3) (t : BitVec 3)
  /-- VNEG (R177). -/
  | vneg (S : Bool) (d : BitVec 5) (a : BitVec 5) (m : BitVec 3) (t : BitVec 3)
  /-- VCMP (R178). -/
  | vcmp (S : Bool) (d : BitVec 3) (a : BitVec 5) (b : BitVec 5) (c : BitVec 3) (t : BitVec 3)
  /-- VSEL (R179). -/
  | vsel (S : Bool) (d : BitVec 5) (a : BitVec 5) (b : BitVec 5) (m : BitVec 3) (t : BitVec 3)
  /-- VCLASS (R177). -/
  | vclass (S : Bool) (d : BitVec 5) (a : BitVec 5) (m : BitVec 3) (t : BitVec 3)
  /-- VRCP (R180). -/
  | vrcp (S : Bool) (d : BitVec 5) (a : BitVec 5) (m : BitVec 3) (t : BitVec 3)
  /-- VRSQ (R180). -/
  | vrsq (S : Bool) (d : BitVec 5) (a : BitVec 5) (m : BitVec 3) (t : BitVec 3)
  /-- VEXP2 (R180). -/
  | vexp2 (S : Bool) (d : BitVec 5) (a : BitVec 5) (m : BitVec 3) (t : BitVec 3)
  /-- VLOG2 (R180). -/
  | vlog2 (S : Bool) (d : BitVec 5) (a : BitVec 5) (m : BitVec 3) (t : BitVec 3)
  /-- VTBL (R182). -/
  | vtbl (S : Bool) (d : BitVec 5) (a : BitVec 5) (n : BitVec 3) (m : BitVec 3) (t : BitVec 3)
  /-- VSCALE (R179). -/
  | vscale (S : Bool) (d : BitVec 5) (a : BitVec 5) (b : BitVec 5) (m : BitVec 3) (t : BitVec 3)
  /-- VIADD (R183). -/
  | viadd (S : Bool) (d : BitVec 5) (a : BitVec 5) (b : BitVec 5) (m : BitVec 3) (t : BitVec 3)
  /-- VISUB (R183). -/
  | visub (S : Bool) (d : BitVec 5) (a : BitVec 5) (b : BitVec 5) (m : BitVec 3) (t : BitVec 3)
  /-- VIMUL (R183). -/
  | vimul (S : Bool) (d : BitVec 5) (a : BitVec 5) (b : BitVec 5) (m : BitVec 3) (t : BitVec 3)
  /-- VIMULH (R183). -/
  | vimulh (S : Bool) (d : BitVec 5) (a : BitVec 5) (b : BitVec 5) (m : BitVec 3) (t : BitVec 3)
  /-- VAND (R183). -/
  | vand (S : Bool) (d : BitVec 5) (a : BitVec 5) (b : BitVec 5) (m : BitVec 3) (t : BitVec 3)
  /-- VOR (R183). -/
  | vor (S : Bool) (d : BitVec 5) (a : BitVec 5) (b : BitVec 5) (m : BitVec 3) (t : BitVec 3)
  /-- VXOR (R183). -/
  | vxor (S : Bool) (d : BitVec 5) (a : BitVec 5) (b : BitVec 5) (m : BitVec 3) (t : BitVec 3)
  /-- VSHL (R183). -/
  | vshl (S : Bool) (d : BitVec 5) (a : BitVec 5) (b : BitVec 5) (m : BitVec 3) (t : BitVec 3)
  /-- VSHR (R183). -/
  | vshr (S : Bool) (d : BitVec 5) (a : BitVec 5) (b : BitVec 5) (m : BitVec 3) (t : BitVec 3)
  /-- VSRA (R183). -/
  | vsra (S : Bool) (d : BitVec 5) (a : BitVec 5) (b : BitVec 5) (m : BitVec 3) (t : BitVec 3)
  /-- VIMIN (R183). -/
  | vimin (S : Bool) (d : BitVec 5) (a : BitVec 5) (b : BitVec 5) (m : BitVec 3) (t : BitVec 3)
  /-- VIMAX (R183). -/
  | vimax (S : Bool) (d : BitVec 5) (a : BitVec 5) (b : BitVec 5) (m : BitVec 3) (t : BitVec 3)
  /-- VICMP (R178). -/
  | vicmp (S : Bool) (d : BitVec 3) (a : BitVec 5) (b : BitVec 5) (c : BitVec 3) (t : BitVec 3)
  /-- VIABS (R183). -/
  | viabs (S : Bool) (d : BitVec 5) (a : BitVec 5) (m : BitVec 3) (t : BitVec 3)
  /-- VIOTA (R183). -/
  | viota (S : Bool) (d : BitVec 5) (m : BitVec 3) (t : BitVec 3)
  /-- VRSUM (R184). -/
  | vrsum (S : Bool) (d : BitVec 5) (a : BitVec 5) (m : BitVec 3) (t : BitVec 3)
  /-- VRMAX (R184). -/
  | vrmax (S : Bool) (d : BitVec 5) (a : BitVec 5) (m : BitVec 3) (t : BitVec 3)
  /-- VRMIN (R184). -/
  | vrmin (S : Bool) (d : BitVec 5) (a : BitVec 5) (m : BitVec 3) (t : BitVec 3)
  /-- VSCAN (R185). -/
  | vscan (S : Bool) (d : BitVec 5) (a : BitVec 5) (m : BitVec 3) (t : BitVec 3)
  /-- VCVT (R186). -/
  | vcvt (S : Bool) (d : BitVec 5) (a : BitVec 5) (s : BitVec 4) (t : BitVec 4) (r : BitVec 3)
  /-- VCVTS (R186). -/
  | vcvts (S : Bool) (d : BitVec 5) (a : BitVec 5) (s : BitVec 4) (t : BitVec 4) (r : BitVec 3)
  /-- VQMX (R187). -/
  | vqmx (S : Bool) (d : BitVec 4) (a : BitVec 5) (e : BitVec 4) (x : Bool) (r : BitVec 3) (y : Bool) (p : BitVec 2)
  /-- VDQMX (R188). -/
  | vdqmx (S : Bool) (d : BitVec 5) (a : BitVec 4) (e : BitVec 4) (x : Bool) (p : BitVec 2)
  /-- VRNG (R189). -/
  | vrng (S : Bool) (d : BitVec 5) (m : BitVec 3)
  /-- VSEED (R189). -/
  | vseed (S : Bool) (a : BitVec 5) (b : BitVec 5)
  /-- VANY (R190). -/
  | vany (S : Bool) (c : BitVec 3) (a : BitVec 3) (m : BitVec 3) (t : BitVec 3)
  /-- VALL (R190). -/
  | vall (S : Bool) (c : BitVec 3) (a : BitVec 3) (m : BitVec 3) (t : BitVec 3)
  /-- VMPOP (R190). -/
  | vmpop (S : Bool) (d : BitVec 5) (a : BitVec 3) (m : BitVec 3) (t : BitVec 3)
  /-- VMLOG (R191). -/
  | vmlog (S : Bool) (d : BitVec 3) (a : BitVec 3) (b : BitVec 3) (m : BitVec 3) (o : BitVec 3)
  /-- VBCST (R192). -/
  | vbcst (S : Bool) (d : BitVec 5) (a : BitVec 5) (m : BitVec 3) (t : BitVec 3)
  /-- VEXT (R192). -/
  | vext (S : Bool) (d : BitVec 5) (a : BitVec 5) (b : BitVec 5) (t : BitVec 3)
  /-- VPERM (R192). -/
  | vperm (S : Bool) (d : BitVec 5) (a : BitVec 5) (b : BitVec 5) (m : BitVec 3) (t : BitVec 3)
  /-- VNOP (R165). -/
  | vnop (S : Bool) (n : BitVec 16)
  /-- VLD (R193). -/
  | vld (S : Bool) (d : BitVec 5) (a : BitVec 5) (i : BitVec 11)
  /-- VST (R193). -/
  | vst (S : Bool) (d : BitVec 5) (a : BitVec 5) (i : BitVec 11)
  /-- VLDS (R193). -/
  | vlds (S : Bool) (d : BitVec 5) (a : BitVec 5) (b : BitVec 5) (r : BitVec 2)
  /-- VSTS (R193). -/
  | vsts (S : Bool) (d : BitVec 5) (a : BitVec 5) (b : BitVec 5) (r : BitVec 2)
  /-- VGTH (R194). -/
  | vgth (S : Bool) (d : BitVec 5) (a : BitVec 5) (b : BitVec 5) (m : BitVec 3) (w : BitVec 2)
  /-- VSCT (R194). -/
  | vsct (S : Bool) (d : BitVec 5) (a : BitVec 5) (b : BitVec 5) (m : BitVec 3) (w : BitVec 2)
  /-- VTRW (R196). -/
  | vtrw (S : Bool) (t : BitVec 2) (v : BitVec 5) (r : BitVec 5) (s : BitVec 4) (d : BitVec 4)
  /-- VTCR (R196). -/
  | vtcr (S : Bool) (d : BitVec 5) (t : BitVec 2) (c : BitVec 5) (s : BitVec 4) (e : BitVec 4)
  /-- VTZ (R196). -/
  | vtz (S : Bool) (t : BitVec 2)
  /-- VACR (R197). -/
  | vacr (S : Bool) (d : BitVec 5) (a : BitVec 4) (r : BitVec 5) (q : BitVec 2)
  /-- VTLD (R181). -/
  | vtld (S : Bool) (n : BitVec 3) (a : BitVec 5) (b : BitVec 5)
  /-- VMOV (R192). -/
  | vmov (S : Bool) (d : BitVec 5) (a : BitVec 5) (m : BitVec 3)
  /-- VMLD (R195). -/
  | vmld (S : Bool) (d : BitVec 3) (a : BitVec 5)
  /-- VMST (R195). -/
  | vmst (S : Bool) (d : BitVec 3) (a : BitVec 5)
  /-- VCHK (R198). -/
  | vchk (S : Bool) (a : BitVec 5) (k : Bool)
  /-- VTKS (R199). -/
  | vtks (S : Bool) (k : BitVec 3)
  /-- VTKW (R199). -/
  | vtkw (S : Bool) (k : BitVec 3)
  /-- VFLG (R200). -/
  | vflg (S : Bool) (d : BitVec 5) (c : Bool)
  /-- MMA (R212). -/
  | mma (S : Bool) (a : BitVec 4) (x : BitVec 7) (y : BitVec 7) (f : BitVec 3)
  /-- MMAT (R212). -/
  | mmat (S : Bool) (a : BitVec 4) (x : BitVec 7) (y : BitVec 7) (f : BitVec 3)
  /-- MZERO (R218). -/
  | mzero (S : Bool) (a : BitVec 4)
  /-- MLDA (R219). -/
  | mlda (S : Bool) (a : BitVec 4) (r : BitVec 5)
  /-- MDRN (R221). -/
  | mdrn (S : Bool) (a : BitVec 4) (r : BitVec 5) (t : BitVec 4) (o : BitVec 3) (y : Bool) (x : Bool) (p : Bool)
  /-- MDRS (R223). -/
  | mdrs (S : Bool) (a : BitVec 4) (o : BitVec 7) (t : BitVec 4) (r : BitVec 3) (y : Bool) (x : Bool) (l : Bool)
  /-- MREL (R224). -/
  | mrel (S : Bool) (o : BitVec 7) (k : Bool)
  /-- MWAIT (R225). -/
  | mwait (S : Bool) (a : BitVec 4) (v : BitVec 16)
  /-- MSCAL (R220). -/
  | mscal (S : Bool) (a : BitVec 4) (r : BitVec 5) (c : Bool)
  /-- MTKS (R226). -/
  | mtks (S : Bool) (k : BitVec 3)
  /-- MTKW (R226). -/
  | mtkw (S : Bool) (k : BitVec 3)
  /-- FVIEW (R109). -/
  | fview (S : Bool) (w : BitVec 4) (a : BitVec 5) (f : BitVec 3)
  /-- FDIM (R109). -/
  | fdim (S : Bool) (w : BitVec 4) (a : BitVec 5) (b : BitVec 5) (j : BitVec 2)
  /-- FIDX (R109). -/
  | fidx (S : Bool) (w : BitVec 4) (a : BitVec 5) (b : BitVec 5) (p : Bool)
  /-- FSHAPE (R110). -/
  | fshape (S : Bool) (w : BitVec 4) (a : BitVec 5)
  /-- FILL (R111). -/
  | fill (S : Bool) (o : BitVec 7) (w : BitVec 4) (r : BitVec 2)
  /-- FILLC (R112). -/
  | fillc (S : Bool) (o : BitVec 7) (w : BitVec 4)
  /-- FLD (R114). -/
  | fld (S : Bool) (w : BitVec 4) (a : BitVec 5) (b : BitVec 5)
  /-- FST (R114). -/
  | fst (S : Bool) (w : BitVec 4) (a : BitVec 5) (b : BitVec 5)
  /-- FSTS (R113). -/
  | fsts (S : Bool) (o : BitVec 7) (w : BitVec 4)
  /-- FBIND (R117). -/
  | fbind (S : Bool) (q : BitVec 2) (w : BitVec 4) (x : Bool) (o : Bool)
  /-- FUNB (R118). -/
  | funb (S : Bool) (q : BitVec 2)
  /-- FCOPY (R116). -/
  | fcopy (S : Bool) (d : BitVec 4) (s : BitVec 4)
  /-- FGTH (R115). -/
  | fgth (S : Bool) (w : BitVec 4) (a : BitVec 5) (b : BitVec 5) (r : BitVec 6)
  /-- FPRE (R119). -/
  | fpre (S : Bool) (w : BitVec 4) (t : BitVec 2)
  /-- FREL (R120). -/
  | frel (S : Bool) (a : BitVec 5)
  /-- FDONE (R121). -/
  | fdone (S : Bool) (a : BitVec 5) (b : BitVec 5) (x : Bool)
  /-- FTKS (R122). -/
  | ftks (S : Bool) (k : BitVec 3)
  /-- FTKW (R122). -/
  | ftkw (S : Bool) (k : BitVec 3)
  /-- FADV (R109). -/
  | fadv (S : Bool) (w : BitVec 4) (a : BitVec 5) (j : BitVec 2)
  /-- VECTOR_STEP (R165). -/
  | vectorStep
  /-- DELIVERED_RESULT (R171). -/
  | deliveredResult
  /-- BANK_GRANT (R133). -/
  | bankGrant (core : Nat) (bank : Nat) (waiting : List (Nat × Bool × Nat))
  /-- FETCH_COMMAND_BEGIN (R105). -/
  | fetchCommandBegin
  /-- RELEASED_COMMAND_BEGIN (R120). -/
  | releasedCommandBegin
  /-- FETCH_REQUEST (R101). -/
  | fetchRequest (act : Nat)
  /-- EXTENT_MAP_WALK (R102). -/
  | extentMapWalk (die : Nat)
  /-- MASON_REPLY_RESOLVED (R300). -/
  | masonReplyResolved
  /-- MASON_REPLY_FAILED (R300). -/
  | masonReplyFailed
  /-- FETCH_REQUEST_COMPLETE (R107). -/
  | fetchRequestComplete (act : Nat)
  /-- FETCH_ERROR (R128). -/
  | fetchError (act : Nat) (sub : BitVec 8)
  /-- TIER_TIMEOUT (R73). -/
  | tierTimeout (act : Nat)
  /-- PEER_TIMEOUT (R73). -/
  | peerTimeout (act : Nat)
  /-- FDONE_VALUE_WRITE (R121). -/
  | fdoneValueWrite
  /-- FETCH_TOKEN_PUSH (R122). -/
  | fetchTokenPush
  /-- STREAM_READ_AHEAD (R117). -/
  | streamReadAhead (q : BitVec 2)
  /-- STREAM_WRITE (R117). -/
  | streamWrite (q : BitVec 2)
  /-- IMAGE_COPY (R272). -/
  | imageCopy
  /-- LAYOUT_COMMIT (R336). -/
  | layoutCommit
  /-- L2_FILL (R89). -/
  | l2Fill (ctx : Nat) (pa : BitVec 48) (noalloc : Bool)
  /-- L2_INSTALL (R88). -/
  | l2Install (ctx : Nat) (pa : BitVec 48)
  /-- L2_LINE_WRITE (R90). -/
  | l2LineWrite (ctx : Nat) (pa : BitVec 48) (data : BitVec 512) (mask : BitVec 512) (noalloc : Bool)
  /-- L2_PIN (R96). -/
  | l2Pin (ctx : Nat) (pa : BitVec 48)
  /-- L2_INVALIDATION (R91). -/
  | l2Invalidation (frame : BitVec 32) (wb : Bool)
  /-- PEER_REQUEST (R71). -/
  | peerRequest (ctx : Nat) (die : Nat) (oid : BitVec 48) (sh : Nat) (off : Nat) (n : Nat) (kind : BitVec 4) (data : List Byte)
  /-- SPAWN_PORT_WRITE (R75). -/
  | spawnPortWrite (ep : BitVec 12) (off : Nat) (data : List Byte)
  /-- HOST_WINDOW_ACCESS (R77). -/
  | hostWindowAccess (ep : BitVec 12) (off : Nat) (n : Nat) (kind : BitVec 2) (data : List Byte)
  /-- TASK_PLACE (R271). -/
  | taskPlace (part : Nat)
  /-- TASK_PARK (R278). -/
  | taskPark
  /-- SLICE_EXPIRY (R305). -/
  | sliceExpiry
  /-- FORCED_SAVE (R307). -/
  | forcedSave
  /-- SAVE_COMPLETE (R309). -/
  | saveComplete (id : BitVec 64)
  /-- TRAP_ENTRY (R296). -/
  | trapEntry
  /-- EVENT_APPEND (R324). -/
  | eventAppend
  /-- WEIR_CLK (R289). -/
  | weirClk (cls : Nat) (unit : Nat) (waiting : List (Nat × Nat × Nat × Nat))
  /-- DROOP_RESPONSE (R338). -/
  | droopResponse (die : Nat)
  /-- CLOCK_RECOVERY (R338). -/
  | clockRecovery (die : Nat)
  /-- OVERTEMPERATURE (R339). -/
  | overtemperature (die : Nat)
  /-- COLD_RESET (R331). -/
  | coldReset
  /-- WATCHDOG_RESET (R331). -/
  | watchdogReset
  /-- ROOT_FIRMWARE_IMAGE (R331). -/
  | rootFirmwareImage (img : List Byte)
  /-- MASON_IMAGE (R331). -/
  | masonImage (img : List Byte)
  /-- BOOT_MANIFEST (R332). -/
  | bootManifest (img : List Byte)
  /-- SPDM_REQUEST (R334). -/
  | spdmRequest (req : List Byte)
  /-- KEY_SLOT_LOAD (R78). -/
  | keySlotLoad (who : BitVec 2) (slot : BitVec 13) (key : BitVec 512)
  /-- L2_SET_DUMP (R330). -/
  | l2SetDump (who : BitVec 2) (slice : BitVec 2) (set : BitVec 16)
  /-- LAYOUT_CHANGE (R336). -/
  | layoutChange (spn : List Byte) (roots : List (BitVec 2048))
  /-- MIGRATION (R328). -/
  | migration (ctx : Nat) (ep : BitVec 12)
  /-- JUNCTION_LIMIT (R339). -/
  | junctionLimit (die : Nat)
  /-- POWER_CAP (R339). -/
  | powerCap
  /-- MASON_ENDS_TASK (R323). -/
  | masonEndsTask
  deriving DecidableEq, Repr

end Sys2Proof
end

