-- ==== Sys2Proof/WellFormed.lean ====
section
/-!
DEFINITION. Which codes and values an instruction's entry accepts beyond the width of its fields: the reserved values it
names (RESERVED-FIELD) and the types and rounding codes it accepts (TYPE-REJECTED), R18, R20 and each chapter's encoding
table, and which words accept a prefix (R23, R209).
-/

namespace Sys2Proof

/-- The subcodes of ILLEGAL-ENCODING, in the order of their numbers (R28). -/
inductive Illegal where
  | engineUndefined | opUnallocated | reservedField | typeRejected | prefixOrphan | groupConflict | groupTruncated
  deriving DecidableEq, Repr

/-- The number of a subcode (R28). -/
def Illegal.code : Illegal → Nat
  | .engineUndefined => 1 | .opUnallocated => 2 | .reservedField => 3 | .typeRejected => 4
  | .prefixOrphan => 5 | .groupConflict => 6 | .groupTruncated => 7

/-- Control register numbers that a table allocates, as a register or as reserved (R263, R295, R313). -/
def csrAllocated (n : Nat) : Bool :=
  n == 0x010 || (0x020 ≤ n && n ≤ 0x028) || n == 0x030 || n == 0x031 || (0x040 ≤ n && n ≤ 0x04F)
  || (0x0C0 ≤ n && n ≤ 0x0C2) || (0x0D0 ≤ n && n ≤ 0x0D2) || n == 0x0E0 || n == 0x0E1
  || n == 0x0F0 || n == 0x0F1 || (0x100 ≤ n && n ≤ 0x10C) || n == 0x110 || n == 0x111
  || n == 0x180 || n == 0x181 || (0x200 ≤ n && n ≤ 0x27F)

/-- Selectors that `CTXSET` allocates (R318). -/
def ctxSelAllocated (f : Nat) : Bool := f ≤ 0x06 || (0x08 ≤ f && f ≤ 0x19)

/-- Elements that `VQMX` and `VDQMX` handle: 64 for F32, 128 for BF16 (R187). -/
def mxNs (x : Bool) : Nat := if x then 128 else 64

/-- The position of `VQMX` and `VDQMX` is not a reserved value (R187). -/
def mxPosOk (e : BitVec 4) (x : Bool) (p : BitVec 2) : Bool :=
  match Machine.fmtOfCode e.toNat with
  | some f => !Machine.fmtMxOk f || (p.toNat + 1) * mxNs x * Machine.fmtWidth f ≤ 2048
  | none => true

/-- No field holds a value that its entry names as reserved or leaves unallocated. -/
def Instr.reservedOk : Instr → Bool
  | .cmp _ _ _ _ k => k.toNat ≤ 5
  | .cmpi _ _ _ k _ => k.toNat ≤ 5
  | .loop _ _ _ n => n != 0
  | .loopi _ _ _ n => n != 0
  | .csrr _ _ n => csrAllocated n.toNat
  | .csrw _ _ n => csrAllocated n.toNat
  | .pub _ _ p => p.toNat ≤ 2
  | .waitw _ _ _ _ k => k.toNat ≤ 2
  | .hqry _ _ _ b f => f.toNat ≤ 8 && (b == 0 || (1 ≤ f.toNat && f.toNat ≤ 3))
  | .ctxset _ _ _ _ f => ctxSelAllocated f.toNat
  | .vicmp _ _ _ _ c _ => c.toNat ≤ 5
  | .vqmx _ _ _ e x _ _ p => mxPosOk e x p
  | .vdqmx _ _ _ e x p => mxPosOk e x p
  | .fill _ _ _ r => r.toNat ≤ 2
  | .fpre _ _ t => t.toNat ≤ 2
  | .vchk _ a k => !k || a.toNat < 8
  | _ => true

/-- Extended type codes of `VTRW`, `VTCR` and `MDRN`: 0 to 11, 13 and 14. -/
def typeNoScale (c : BitVec 4) : Bool := c.toNat ≤ 14 && c != 12

/-- Element types of MX data: codes 3 to 7. -/
def typeMx (c : BitVec 4) : Bool := 3 ≤ c.toNat && c.toNat ≤ 7

/-- Every type, rounding and format code is one that the entry accepts (R20, R175, R208). -/
def Instr.typeOk : Instr → Bool
  | .vadd _ _ _ _ _ t => t.toNat ≤ 2
  | .vsub _ _ _ _ _ t => t.toNat ≤ 2
  | .vmul _ _ _ _ _ t => t.toNat ≤ 2
  | .vfma _ _ _ _ _ t => t.toNat ≤ 2
  | .vfms _ _ _ _ _ t => t.toNat ≤ 2
  | .vfnma _ _ _ _ _ t => t.toNat ≤ 2
  | .vmax _ _ _ _ _ t => t.toNat ≤ 2
  | .vmin _ _ _ _ _ t => t.toNat ≤ 2
  | .vabs _ _ _ _ t => t.toNat ≤ 2
  | .vneg _ _ _ _ t => t.toNat ≤ 2
  | .vcmp _ _ _ _ _ t => t.toNat ≤ 2
  | .vclass _ _ _ _ t => t.toNat ≤ 2
  | .vrcp _ _ _ _ t => t.toNat ≤ 2
  | .vrsq _ _ _ _ t => t.toNat ≤ 2
  | .vexp2 _ _ _ _ t => t.toNat ≤ 2
  | .vlog2 _ _ _ _ t => t.toNat ≤ 2
  | .vtbl _ _ _ _ _ t => t.toNat ≤ 2
  | .vscale _ _ _ _ _ t => t.toNat ≤ 2
  | .viadd _ _ _ _ _ t => 3 ≤ t.toNat
  | .visub _ _ _ _ _ t => 3 ≤ t.toNat
  | .vimul _ _ _ _ _ t => 3 ≤ t.toNat
  | .vimulh _ _ _ _ _ t => 3 ≤ t.toNat
  | .vand _ _ _ _ _ t => 3 ≤ t.toNat
  | .vor _ _ _ _ _ t => 3 ≤ t.toNat
  | .vxor _ _ _ _ _ t => 3 ≤ t.toNat
  | .vshl _ _ _ _ _ t => 3 ≤ t.toNat
  | .vshr _ _ _ _ _ t => 3 ≤ t.toNat
  | .vsra _ _ _ _ _ t => 3 ≤ t.toNat
  | .vimin _ _ _ _ _ t => 3 ≤ t.toNat
  | .vimax _ _ _ _ _ t => 3 ≤ t.toNat
  | .vicmp _ _ _ _ _ t => 3 ≤ t.toNat
  | .viabs _ _ _ _ t => 3 ≤ t.toNat && t.toNat ≤ 5
  | .viota _ _ _ t => 3 ≤ t.toNat
  | .vcvt _ _ _ s t r => s.toNat ≤ 14 && t.toNat ≤ 14 && r.toNat ≤ 4
  | .vcvts _ _ _ s t r => s.toNat ≤ 14 && t.toNat ≤ 14 && r.toNat ≤ 4
  | .vqmx _ _ _ e _ r _ _ => typeMx e && r.toNat ≤ 4
  | .vdqmx _ _ _ e _ _ => typeMx e
  | .vtrw _ _ _ _ s d => typeNoScale s && typeNoScale d
  | .vtcr _ _ _ _ s e => typeNoScale s && typeNoScale e
  | .mdrn _ _ _ t o _ x _ => typeNoScale t && o.toNat ≤ 4 && (!x || typeMx t)
  | .mdrs _ _ _ t r _ x _ =>
    ((1 ≤ t.toNat && t.toNat ≤ 7) || t == 10 || t == 11) && r.toNat ≤ 4 && (!x || typeMx t)
  | _ => true

/-- The checks of one word, the lowest subcode first (R28). -/
def Instr.check (i : Instr) : Option Illegal :=
  if !i.reservedOk then some .reservedField else if !i.typeOk then some .typeRejected else none

/-- A well-formed instruction: its word passes the checks that concern it alone. -/
def Instr.wf (i : Instr) : Bool := i.check.isNone

/-- The words that accept a prefix (R23). -/
def Instr.acceptsPfx : Instr → Bool
  | .addi .. | .muli .. | .lds .. | .sts .. | .vld .. | .vst .. | .andi .. | .ori .. | .xori ..
  | .li .. | .cmpi .. | .ptb .. | .loopi .. | .mma .. | .mmat .. => true
  | _ => false

/-- The override codes that a format of `MMA` and `MMAT` accepts; 0 selects the format's own type (R209). -/
def overrideOk (fmt : BitVec 3) (c : Nat) : Bool :=
  c == 0 || match fmt.toNat with
  | 0 | 1 => c == 1 || c == 2
  | 2 | 3 => c == 3 || c == 4
  | 4 | 5 | 6 => 3 ≤ c && c ≤ 7
  | _ => c == 10 || c == 11

/-- The checks of the fields that a prefix carries for an `MMA` or `MMAT` (R23, R209). -/
def mmaPfxCheck (fmt : BitVec 3) (p : BitVec 28) : Option Illegal :=
  if p.extractLsb' 0 2 != 0 || (!p.getLsbD 11 && p.extractLsb' 12 16 != 0) then some .reservedField
  else if !overrideOk fmt (p.extractLsb' 7 4).toNat || !overrideOk fmt (p.extractLsb' 3 4).toNat then
    some .typeRejected
  else none

/-- The checks of a prefixed word's prefix payload. -/
def Instr.pfxCheck (i : Instr) (p : BitVec 28) : Option Illegal :=
  match i with
  | .mma _ _ _ _ f => mmaPfxCheck f p
  | .mmat _ _ _ _ f => mmaPfxCheck f p
  | _ => none

end Sys2Proof
end

