-- ==== Sys2Proof/Decode.lean ====
section
/-!
DEFINITION. The decoder, total on any word, rejecting by name (R16 to R20, R34), and after it the encoder, written from the
same encoding tables. A word's fields are read as numbers: `fld n lo len` is bits [lo + len - 1 : lo] of word n (R4).
-/

namespace Sys2Proof

/-- Bits [lo + len - 1 : lo] of a word. -/
def fld (n lo len : Nat) : BitVec len := BitVec.ofNat len (n / 2 ^ lo)

/-- Bit lo of a word. -/
def bit (n lo : Nat) : Bool := n / 2 ^ lo % 2 == 1

/-- The reserved bits [lo + len - 1 : lo] are zero (R18). -/
def rsv (n lo len : Nat) : Bool := n / 2 ^ lo % 2 ^ len == 0

/-- An instruction whose reserved bits are zero, after the checks of its reserved values and types (R28). -/
def accept (i : Instr) : Except Illegal Instr :=
  match i.check with
  | none => .ok i
  | some e => .error e

/-- CTL words, E = 0 (R249, R239). -/
def decodeCtl (n op : Nat) : Except Illegal Instr :=
  match op with
  | 0 => if rsv n 0 6 then accept (.add (bit n 31) (fld n 16 5) (fld n 11 5) (fld n 6 5)) else .error .reservedField
  | 1 => if rsv n 0 6 then accept (.sub (bit n 31) (fld n 16 5) (fld n 11 5) (fld n 6 5)) else .error .reservedField
  | 2 => if rsv n 0 6 then accept (.mul (bit n 31) (fld n 16 5) (fld n 11 5) (fld n 6 5)) else .error .reservedField
  | 3 => if rsv n 1 5 then accept (.mulh (bit n 31) (fld n 16 5) (fld n 11 5) (fld n 6 5) (bit n 0)) else .error .reservedField
  | 4 => if rsv n 1 5 then accept (.div (bit n 31) (fld n 16 5) (fld n 11 5) (fld n 6 5) (bit n 0)) else .error .reservedField
  | 5 => if rsv n 1 5 then accept (.rem (bit n 31) (fld n 16 5) (fld n 11 5) (fld n 6 5) (bit n 0)) else .error .reservedField
  | 6 => if rsv n 0 6 then accept (.and (bit n 31) (fld n 16 5) (fld n 11 5) (fld n 6 5)) else .error .reservedField
  | 7 => if rsv n 0 6 then accept (.or (bit n 31) (fld n 16 5) (fld n 11 5) (fld n 6 5)) else .error .reservedField
  | 8 => if rsv n 0 6 then accept (.xor (bit n 31) (fld n 16 5) (fld n 11 5) (fld n 6 5)) else .error .reservedField
  | 9 => if rsv n 0 6 then accept (.shl (bit n 31) (fld n 16 5) (fld n 11 5) (fld n 6 5)) else .error .reservedField
  | 10 => if rsv n 0 6 then accept (.shr (bit n 31) (fld n 16 5) (fld n 11 5) (fld n 6 5)) else .error .reservedField
  | 11 => if rsv n 0 6 then accept (.sra (bit n 31) (fld n 16 5) (fld n 11 5) (fld n 6 5)) else .error .reservedField
  | 12 => if rsv n 1 5 then accept (.min (bit n 31) (fld n 16 5) (fld n 11 5) (fld n 6 5) (bit n 0)) else .error .reservedField
  | 13 => if rsv n 1 5 then accept (.max (bit n 31) (fld n 16 5) (fld n 11 5) (fld n 6 5) (bit n 0)) else .error .reservedField
  | 14 => if rsv n 0 11 then accept (.clz (bit n 31) (fld n 16 5) (fld n 11 5)) else .error .reservedField
  | 15 => if rsv n 0 11 then accept (.popc (bit n 31) (fld n 16 5) (fld n 11 5)) else .error .reservedField
  | 16 => if rsv n 3 3 then accept (.sel (bit n 31) (fld n 16 5) (fld n 11 5) (fld n 6 5) (fld n 0 3)) else .error .reservedField
  | 17 => if rsv n 0 6 then accept (.madd (bit n 31) (fld n 16 5) (fld n 11 5) (fld n 6 5)) else .error .reservedField
  | 24 => accept (.addi (bit n 31) (fld n 16 5) (fld n 11 5) (fld n 0 11))
  | 25 => accept (.muli (bit n 31) (fld n 16 5) (fld n 11 5) (fld n 0 11))
  | 26 => accept (.andi (bit n 31) (fld n 16 5) (fld n 11 5) (fld n 0 11))
  | 27 => accept (.ori (bit n 31) (fld n 16 5) (fld n 11 5) (fld n 0 11))
  | 28 => accept (.xori (bit n 31) (fld n 16 5) (fld n 11 5) (fld n 0 11))
  | 29 => if rsv n 6 5 then accept (.shli (bit n 31) (fld n 16 5) (fld n 11 5) (fld n 0 6)) else .error .reservedField
  | 30 => if rsv n 6 5 then accept (.shri (bit n 31) (fld n 16 5) (fld n 11 5) (fld n 0 6)) else .error .reservedField
  | 31 => if rsv n 6 5 then accept (.srai (bit n 31) (fld n 16 5) (fld n 11 5) (fld n 0 6)) else .error .reservedField
  | 32 => accept (.li (bit n 31) (fld n 16 5) (fld n 0 16))
  | 40 => if rsv n 3 3 && rsv n 19 2 then accept (.cmp (bit n 31) (fld n 16 3) (fld n 11 5) (fld n 6 5) (fld n 0 3)) else .error .reservedField
  | 41 => if rsv n 19 2 then accept (.cmpi (bit n 31) (fld n 16 3) (fld n 11 5) (fld n 8 3) (fld n 0 8)) else .error .reservedField
  | 42 => if rsv n 2 4 && rsv n 9 2 && rsv n 14 2 && rsv n 19 2 then accept (.clog (bit n 31) (fld n 16 3) (fld n 11 3) (fld n 6 3) (fld n 0 2)) else .error .reservedField
  | 48 => if rsv n 19 2 then accept (.ptb (bit n 31) (fld n 16 3) (fld n 0 16)) else .error .reservedField
  | 49 => if rsv n 0 11 && rsv n 19 2 then accept (.ptbs (bit n 31) (fld n 16 3) (fld n 11 5)) else .error .reservedField
  | 50 => if rsv n 0 14 then accept (.brt (bit n 31) (fld n 18 3) (fld n 15 3) (bit n 14)) else .error .reservedField
  | 51 => if rsv n 0 14 then accept (.brf (bit n 31) (fld n 18 3) (fld n 15 3) (bit n 14)) else .error .reservedField
  | 52 => if rsv n 0 18 then accept (.jmp (bit n 31) (fld n 18 3)) else .error .reservedField
  | 53 => accept (.loop (bit n 31) (fld n 19 2) (fld n 14 5) (fld n 0 14))
  | 54 => accept (.loopi (bit n 31) (fld n 19 2) (fld n 9 10) (fld n 0 9))
  | 55 => if rsv n 0 15 && rsv n 18 3 then accept (.lexit (bit n 31) (fld n 15 3)) else .error .reservedField
  | 56 => if rsv n 0 21 then accept (.nop (bit n 31)) else .error .reservedField
  | 64 => accept (.lds (bit n 31) (fld n 16 5) (fld n 11 5) (fld n 0 11))
  | 65 => accept (.sts (bit n 31) (fld n 16 5) (fld n 11 5) (fld n 0 11))
  | 66 => if rsv n 3 13 then accept (.mbrd (bit n 31) (fld n 16 5) (fld n 0 3)) else .error .reservedField
  | 67 => if rsv n 3 13 then accept (.mbwr (bit n 31) (fld n 16 5) (fld n 0 3)) else .error .reservedField
  | 68 => if rsv n 12 4 then accept (.csrr (bit n 31) (fld n 16 5) (fld n 0 12)) else .error .reservedField
  | 69 => if rsv n 12 4 then accept (.csrw (bit n 31) (fld n 16 5) (fld n 0 12)) else .error .reservedField
  | 70 => if rsv n 0 16 then accept (.time (bit n 31) (fld n 16 5)) else .error .reservedField
  | 71 => if bit n 0 then (if rsv n 1 10 && rsv n 14 7 then accept (.chkCondition (bit n 31) (fld n 11 3)) else .error .reservedField) else (if rsv n 1 10 && rsv n 16 5 then accept (.chkScalar (bit n 31) (fld n 11 5)) else .error .reservedField)
  | 72 => if rsv n 4 2 then accept (.xld (bit n 31) (fld n 16 5) (fld n 11 5) (fld n 6 5) (bit n 3) (bit n 2) (fld n 0 2)) else .error .reservedField
  | 73 => if rsv n 2 4 then accept (.xst (bit n 31) (fld n 16 5) (fld n 11 5) (fld n 6 5) (fld n 0 2)) else .error .reservedField
  | _ => .error .opUnallocated

/-- VEC words, E = 1 (R175). -/
def decodeVec (n op : Nat) : Except Illegal Instr :=
  match op with
  | 0 => accept (.vadd (bit n 31) (fld n 16 5) (fld n 11 5) (fld n 6 5) (fld n 3 3) (fld n 0 3))
  | 1 => accept (.vsub (bit n 31) (fld n 16 5) (fld n 11 5) (fld n 6 5) (fld n 3 3) (fld n 0 3))
  | 2 => accept (.vmul (bit n 31) (fld n 16 5) (fld n 11 5) (fld n 6 5) (fld n 3 3) (fld n 0 3))
  | 3 => accept (.vfma (bit n 31) (fld n 16 5) (fld n 11 5) (fld n 6 5) (fld n 3 3) (fld n 0 3))
  | 4 => accept (.vfms (bit n 31) (fld n 16 5) (fld n 11 5) (fld n 6 5) (fld n 3 3) (fld n 0 3))
  | 5 => accept (.vfnma (bit n 31) (fld n 16 5) (fld n 11 5) (fld n 6 5) (fld n 3 3) (fld n 0 3))
  | 6 => accept (.vmax (bit n 31) (fld n 16 5) (fld n 11 5) (fld n 6 5) (fld n 3 3) (fld n 0 3))
  | 7 => accept (.vmin (bit n 31) (fld n 16 5) (fld n 11 5) (fld n 6 5) (fld n 3 3) (fld n 0 3))
  | 8 => if rsv n 6 5 then accept (.vabs (bit n 31) (fld n 16 5) (fld n 11 5) (fld n 3 3) (fld n 0 3)) else .error .reservedField
  | 9 => if rsv n 6 5 then accept (.vneg (bit n 31) (fld n 16 5) (fld n 11 5) (fld n 3 3) (fld n 0 3)) else .error .reservedField
  | 10 => if rsv n 19 2 then accept (.vcmp (bit n 31) (fld n 16 3) (fld n 11 5) (fld n 6 5) (fld n 3 3) (fld n 0 3)) else .error .reservedField
  | 11 => accept (.vsel (bit n 31) (fld n 16 5) (fld n 11 5) (fld n 6 5) (fld n 3 3) (fld n 0 3))
  | 12 => if rsv n 6 5 then accept (.vclass (bit n 31) (fld n 16 5) (fld n 11 5) (fld n 3 3) (fld n 0 3)) else .error .reservedField
  | 13 => if rsv n 6 5 then accept (.vrcp (bit n 31) (fld n 16 5) (fld n 11 5) (fld n 3 3) (fld n 0 3)) else .error .reservedField
  | 14 => if rsv n 6 5 then accept (.vrsq (bit n 31) (fld n 16 5) (fld n 11 5) (fld n 3 3) (fld n 0 3)) else .error .reservedField
  | 15 => if rsv n 6 5 then accept (.vexp2 (bit n 31) (fld n 16 5) (fld n 11 5) (fld n 3 3) (fld n 0 3)) else .error .reservedField
  | 16 => if rsv n 6 5 then accept (.vlog2 (bit n 31) (fld n 16 5) (fld n 11 5) (fld n 3 3) (fld n 0 3)) else .error .reservedField
  | 17 => if rsv n 9 2 then accept (.vtbl (bit n 31) (fld n 16 5) (fld n 11 5) (fld n 6 3) (fld n 3 3) (fld n 0 3)) else .error .reservedField
  | 18 => accept (.vscale (bit n 31) (fld n 16 5) (fld n 11 5) (fld n 6 5) (fld n 3 3) (fld n 0 3))
  | 32 => accept (.viadd (bit n 31) (fld n 16 5) (fld n 11 5) (fld n 6 5) (fld n 3 3) (fld n 0 3))
  | 33 => accept (.visub (bit n 31) (fld n 16 5) (fld n 11 5) (fld n 6 5) (fld n 3 3) (fld n 0 3))
  | 34 => accept (.vimul (bit n 31) (fld n 16 5) (fld n 11 5) (fld n 6 5) (fld n 3 3) (fld n 0 3))
  | 35 => accept (.vimulh (bit n 31) (fld n 16 5) (fld n 11 5) (fld n 6 5) (fld n 3 3) (fld n 0 3))
  | 36 => accept (.vand (bit n 31) (fld n 16 5) (fld n 11 5) (fld n 6 5) (fld n 3 3) (fld n 0 3))
  | 37 => accept (.vor (bit n 31) (fld n 16 5) (fld n 11 5) (fld n 6 5) (fld n 3 3) (fld n 0 3))
  | 38 => accept (.vxor (bit n 31) (fld n 16 5) (fld n 11 5) (fld n 6 5) (fld n 3 3) (fld n 0 3))
  | 39 => accept (.vshl (bit n 31) (fld n 16 5) (fld n 11 5) (fld n 6 5) (fld n 3 3) (fld n 0 3))
  | 40 => accept (.vshr (bit n 31) (fld n 16 5) (fld n 11 5) (fld n 6 5) (fld n 3 3) (fld n 0 3))
  | 41 => accept (.vsra (bit n 31) (fld n 16 5) (fld n 11 5) (fld n 6 5) (fld n 3 3) (fld n 0 3))
  | 42 => accept (.vimin (bit n 31) (fld n 16 5) (fld n 11 5) (fld n 6 5) (fld n 3 3) (fld n 0 3))
  | 43 => accept (.vimax (bit n 31) (fld n 16 5) (fld n 11 5) (fld n 6 5) (fld n 3 3) (fld n 0 3))
  | 44 => if rsv n 19 2 then accept (.vicmp (bit n 31) (fld n 16 3) (fld n 11 5) (fld n 6 5) (fld n 3 3) (fld n 0 3)) else .error .reservedField
  | 45 => if rsv n 6 5 then accept (.viabs (bit n 31) (fld n 16 5) (fld n 11 5) (fld n 3 3) (fld n 0 3)) else .error .reservedField
  | 46 => if rsv n 6 10 then accept (.viota (bit n 31) (fld n 16 5) (fld n 3 3) (fld n 0 3)) else .error .reservedField
  | 64 => if rsv n 6 5 then accept (.vrsum (bit n 31) (fld n 16 5) (fld n 11 5) (fld n 3 3) (fld n 0 3)) else .error .reservedField
  | 65 => if rsv n 6 5 then accept (.vrmax (bit n 31) (fld n 16 5) (fld n 11 5) (fld n 3 3) (fld n 0 3)) else .error .reservedField
  | 66 => if rsv n 6 5 then accept (.vrmin (bit n 31) (fld n 16 5) (fld n 11 5) (fld n 3 3) (fld n 0 3)) else .error .reservedField
  | 67 => if rsv n 6 5 then accept (.vscan (bit n 31) (fld n 16 5) (fld n 11 5) (fld n 3 3) (fld n 0 3)) else .error .reservedField
  | 80 => accept (.vcvt (bit n 31) (fld n 16 5) (fld n 11 5) (fld n 7 4) (fld n 3 4) (fld n 0 3))
  | 81 => accept (.vcvts (bit n 31) (fld n 16 5) (fld n 11 5) (fld n 7 4) (fld n 3 4) (fld n 0 3))
  | 82 => if rsv n 16 1 then accept (.vqmx (bit n 31) (fld n 17 4) (fld n 11 5) (fld n 7 4) (bit n 6) (fld n 3 3) (bit n 2) (fld n 0 2)) else .error .reservedField
  | 83 => if rsv n 0 4 && rsv n 11 1 then accept (.vdqmx (bit n 31) (fld n 16 5) (fld n 12 4) (fld n 7 4) (bit n 6) (fld n 4 2)) else .error .reservedField
  | 84 => if rsv n 6 10 then (if n % 8 == 3 then accept (.vrng (bit n 31) (fld n 16 5) (fld n 3 3)) else .error .typeRejected) else .error .reservedField
  | 85 => if rsv n 0 6 && rsv n 16 5 then accept (.vseed (bit n 31) (fld n 11 5) (fld n 6 5)) else .error .reservedField
  | 96 => if rsv n 6 5 && rsv n 14 2 && rsv n 19 2 then accept (.vany (bit n 31) (fld n 16 3) (fld n 11 3) (fld n 3 3) (fld n 0 3)) else .error .reservedField
  | 97 => if rsv n 6 5 && rsv n 14 2 && rsv n 19 2 then accept (.vall (bit n 31) (fld n 16 3) (fld n 11 3) (fld n 3 3) (fld n 0 3)) else .error .reservedField
  | 98 => if rsv n 6 5 && rsv n 14 2 then accept (.vmpop (bit n 31) (fld n 16 5) (fld n 11 3) (fld n 3 3) (fld n 0 3)) else .error .reservedField
  | 99 => if rsv n 9 2 && rsv n 14 2 && rsv n 19 2 then accept (.vmlog (bit n 31) (fld n 16 3) (fld n 11 3) (fld n 6 3) (fld n 3 3) (fld n 0 3)) else .error .reservedField
  | 100 => if rsv n 6 5 then accept (.vbcst (bit n 31) (fld n 16 5) (fld n 11 5) (fld n 3 3) (fld n 0 3)) else .error .reservedField
  | 101 => if rsv n 3 3 then accept (.vext (bit n 31) (fld n 16 5) (fld n 11 5) (fld n 6 5) (fld n 0 3)) else .error .reservedField
  | 102 => accept (.vperm (bit n 31) (fld n 16 5) (fld n 11 5) (fld n 6 5) (fld n 3 3) (fld n 0 3))
  | 103 => if rsv n 16 5 then accept (.vnop (bit n 31) (fld n 0 16)) else .error .reservedField
  | _ => .error .opUnallocated

/-- VMV words, E = 2 (R175). -/
def decodeVmv (n op : Nat) : Except Illegal Instr :=
  match op with
  | 0 => accept (.vld (bit n 31) (fld n 16 5) (fld n 11 5) (fld n 0 11))
  | 1 => accept (.vst (bit n 31) (fld n 16 5) (fld n 11 5) (fld n 0 11))
  | 2 => if rsv n 2 4 then accept (.vlds (bit n 31) (fld n 16 5) (fld n 11 5) (fld n 6 5) (fld n 0 2)) else .error .reservedField
  | 3 => if rsv n 2 4 then accept (.vsts (bit n 31) (fld n 16 5) (fld n 11 5) (fld n 6 5) (fld n 0 2)) else .error .reservedField
  | 4 => if rsv n 5 1 then accept (.vgth (bit n 31) (fld n 16 5) (fld n 11 5) (fld n 6 5) (fld n 2 3) (fld n 0 2)) else .error .reservedField
  | 5 => if rsv n 5 1 then accept (.vsct (bit n 31) (fld n 16 5) (fld n 11 5) (fld n 6 5) (fld n 2 3) (fld n 0 2)) else .error .reservedField
  | 8 => if rsv n 0 1 then accept (.vtrw (bit n 31) (fld n 19 2) (fld n 14 5) (fld n 9 5) (fld n 5 4) (fld n 1 4)) else .error .reservedField
  | 9 => if rsv n 0 1 then accept (.vtcr (bit n 31) (fld n 16 5) (fld n 14 2) (fld n 9 5) (fld n 5 4) (fld n 1 4)) else .error .reservedField
  | 10 => if rsv n 0 19 then accept (.vtz (bit n 31) (fld n 19 2)) else .error .reservedField
  | 11 => if rsv n 0 5 then accept (.vacr (bit n 31) (fld n 16 5) (fld n 12 4) (fld n 7 5) (fld n 5 2)) else .error .reservedField
  | 12 => if rsv n 0 6 && rsv n 19 2 then accept (.vtld (bit n 31) (fld n 16 3) (fld n 11 5) (fld n 6 5)) else .error .reservedField
  | 13 => if rsv n 3 8 then accept (.vmov (bit n 31) (fld n 16 5) (fld n 11 5) (fld n 0 3)) else .error .reservedField
  | 14 => if rsv n 0 11 && rsv n 19 2 then accept (.vmld (bit n 31) (fld n 16 3) (fld n 11 5)) else .error .reservedField
  | 15 => if rsv n 0 11 && rsv n 19 2 then accept (.vmst (bit n 31) (fld n 16 3) (fld n 11 5)) else .error .reservedField
  | 16 => if rsv n 1 10 && rsv n 16 5 then accept (.vchk (bit n 31) (fld n 11 5) (bit n 0)) else .error .reservedField
  | 17 => if rsv n 3 18 then accept (.vtks (bit n 31) (fld n 0 3)) else .error .reservedField
  | 18 => if rsv n 3 18 then accept (.vtkw (bit n 31) (fld n 0 3)) else .error .reservedField
  | 19 => if rsv n 1 15 then accept (.vflg (bit n 31) (fld n 16 5) (bit n 0)) else .error .reservedField
  | _ => .error .opUnallocated

/-- MAT words, E = 3 (R208). -/
def decodeMat (n op : Nat) : Except Illegal Instr :=
  match op with
  | 0 => accept (.mma (bit n 31) (fld n 17 4) (fld n 10 7) (fld n 3 7) (fld n 0 3))
  | 1 => accept (.mmat (bit n 31) (fld n 17 4) (fld n 10 7) (fld n 3 7) (fld n 0 3))
  | 2 => if rsv n 0 17 then accept (.mzero (bit n 31) (fld n 17 4)) else .error .reservedField
  | 3 => if rsv n 0 12 then accept (.mlda (bit n 31) (fld n 17 4) (fld n 12 5)) else .error .reservedField
  | 4 => if rsv n 0 2 then accept (.mdrn (bit n 31) (fld n 17 4) (fld n 12 5) (fld n 8 4) (fld n 5 3) (bit n 4) (bit n 3) (bit n 2)) else .error .reservedField
  | 5 => accept (.mdrs (bit n 31) (fld n 17 4) (fld n 10 7) (fld n 6 4) (fld n 3 3) (bit n 2) (bit n 1) (bit n 0))
  | 6 => if rsv n 0 9 && rsv n 17 4 then accept (.mrel (bit n 31) (fld n 10 7) (bit n 9)) else .error .reservedField
  | 7 => if rsv n 16 1 then accept (.mwait (bit n 31) (fld n 17 4) (fld n 0 16)) else .error .reservedField
  | 8 => if rsv n 0 11 then accept (.mscal (bit n 31) (fld n 17 4) (fld n 12 5) (bit n 11)) else .error .reservedField
  | 9 => if rsv n 3 18 then accept (.mtks (bit n 31) (fld n 0 3)) else .error .reservedField
  | 10 => if rsv n 3 18 then accept (.mtkw (bit n 31) (fld n 0 3)) else .error .reservedField
  | _ => .error .opUnallocated

/-- FET words, E = 4 (R108). -/
def decodeFet (n op : Nat) : Except Illegal Instr :=
  match op with
  | 0 => if rsv n 3 8 && rsv n 20 1 then accept (.fview (bit n 31) (fld n 16 4) (fld n 11 5) (fld n 0 3)) else .error .reservedField
  | 1 => if rsv n 2 4 && rsv n 20 1 then accept (.fdim (bit n 31) (fld n 16 4) (fld n 11 5) (fld n 6 5) (fld n 0 2)) else .error .reservedField
  | 2 => if rsv n 1 5 && rsv n 20 1 then accept (.fidx (bit n 31) (fld n 16 4) (fld n 11 5) (fld n 6 5) (bit n 0)) else .error .reservedField
  | 3 => if rsv n 0 11 && rsv n 20 1 then accept (.fshape (bit n 31) (fld n 16 4) (fld n 11 5)) else .error .reservedField
  | 4 => if rsv n 0 8 then accept (.fill (bit n 31) (fld n 14 7) (fld n 10 4) (fld n 8 2)) else .error .reservedField
  | 5 => if rsv n 0 10 then accept (.fillc (bit n 31) (fld n 14 7) (fld n 10 4)) else .error .reservedField
  | 6 => if rsv n 0 6 && rsv n 20 1 then accept (.fld (bit n 31) (fld n 16 4) (fld n 11 5) (fld n 6 5)) else .error .reservedField
  | 7 => if rsv n 0 6 && rsv n 20 1 then accept (.fst (bit n 31) (fld n 16 4) (fld n 11 5) (fld n 6 5)) else .error .reservedField
  | 8 => if rsv n 0 10 then accept (.fsts (bit n 31) (fld n 14 7) (fld n 10 4)) else .error .reservedField
  | 9 => if rsv n 2 9 && rsv n 15 1 && rsv n 18 3 then accept (.fbind (bit n 31) (fld n 16 2) (fld n 11 4) (bit n 1) (bit n 0)) else .error .reservedField
  | 10 => if rsv n 0 16 && rsv n 18 3 then accept (.funb (bit n 31) (fld n 16 2)) else .error .reservedField
  | 11 => if rsv n 0 11 && rsv n 15 1 && rsv n 20 1 then accept (.fcopy (bit n 31) (fld n 16 4) (fld n 11 4)) else .error .reservedField
  | 12 => if rsv n 20 1 then accept (.fgth (bit n 31) (fld n 16 4) (fld n 11 5) (fld n 6 5) (fld n 0 6)) else .error .reservedField
  | 13 => if rsv n 2 14 && rsv n 20 1 then accept (.fpre (bit n 31) (fld n 16 4) (fld n 0 2)) else .error .reservedField
  | 14 => if rsv n 0 11 && rsv n 16 5 then accept (.frel (bit n 31) (fld n 11 5)) else .error .reservedField
  | 15 => if rsv n 1 5 && rsv n 16 5 then accept (.fdone (bit n 31) (fld n 11 5) (fld n 6 5) (bit n 0)) else .error .reservedField
  | 16 => if rsv n 3 18 then accept (.ftks (bit n 31) (fld n 0 3)) else .error .reservedField
  | 17 => if rsv n 3 18 then accept (.ftkw (bit n 31) (fld n 0 3)) else .error .reservedField
  | 18 => if rsv n 2 9 && rsv n 20 1 then accept (.fadv (bit n 31) (fld n 16 4) (fld n 11 5) (fld n 0 2)) else .error .reservedField
  | _ => .error .opUnallocated

/-- SYN words, E = 5. -/
def decodeSyn (n op : Nat) : Except Illegal Instr :=
  match op with
  | 0 => if rsv n 1 10 then accept (.spawn (bit n 31) (fld n 16 5) (fld n 11 5) (bit n 0)) else .error .reservedField
  | 1 => if rsv n 0 21 then accept (.taskEnd (bit n 31)) else .error .reservedField
  | 2 => if rsv n 0 21 then accept (.yield (bit n 31)) else .error .reservedField
  | 3 => if rsv n 2 9 && rsv n 16 5 then accept (.pub (bit n 31) (fld n 11 5) (fld n 0 2)) else .error .reservedField
  | 4 => if rsv n 0 6 && rsv n 16 5 then accept (.subscribe (bit n 31) (fld n 11 5) (fld n 6 5)) else .error .reservedField
  | 5 => if rsv n 0 6 && rsv n 19 2 then accept (.subt (bit n 31) (fld n 16 3) (fld n 11 5) (fld n 6 5)) else .error .reservedField
  | 6 => if rsv n 0 6 && rsv n 18 3 then accept (.gjoin (bit n 31) (fld n 16 2) (fld n 11 5) (fld n 6 5)) else .error .reservedField
  | 7 => if rsv n 2 19 then accept (.gleave (bit n 31) (fld n 0 2)) else .error .reservedField
  | 8 => if rsv n 3 13 then accept (.barr (bit n 31) (fld n 16 5) (bit n 2) (fld n 0 2)) else .error .reservedField
  | 9 => if rsv n 2 9 && rsv n 16 5 then accept (.bwait (bit n 31) (fld n 11 5) (fld n 0 2)) else .error .reservedField
  | 10 => if rsv n 2 4 then accept (.waitw (bit n 31) (fld n 16 5) (fld n 11 5) (fld n 6 5) (fld n 0 2)) else .error .reservedField
  | 11 => if rsv n 3 18 then accept (.tks (bit n 31) (fld n 0 3)) else .error .reservedField
  | 12 => if rsv n 3 18 then accept (.tkw (bit n 31) (fld n 0 3)) else .error .reservedField
  | 13 => if rsv n 1 10 then accept (.mclaim (bit n 31) (fld n 16 5) (fld n 11 5) (bit n 0)) else .error .reservedField
  | 16 => if rsv n 3 1 && rsv n 5 1 then accept (.ald (bit n 31) (fld n 16 5) (fld n 11 5) (fld n 6 5) (bit n 4) (bit n 2) (fld n 0 2)) else .error .reservedField
  | 17 => if rsv n 2 1 && rsv n 4 2 then accept (.ast (bit n 31) (fld n 16 5) (fld n 11 5) (fld n 6 5) (bit n 3) (fld n 0 2)) else .error .reservedField
  | 18 => if rsv n 5 1 then accept (.aadd (bit n 31) (fld n 16 5) (fld n 11 5) (fld n 6 5) (bit n 4) (bit n 3) (bit n 2) (fld n 0 2)) else .error .reservedField
  | 19 => if rsv n 5 1 then accept (.amax (bit n 31) (fld n 16 5) (fld n 11 5) (fld n 6 5) (bit n 4) (bit n 3) (bit n 2) (fld n 0 2)) else .error .reservedField
  | 20 => if rsv n 5 1 then accept (.amin (bit n 31) (fld n 16 5) (fld n 11 5) (fld n 6 5) (bit n 4) (bit n 3) (bit n 2) (fld n 0 2)) else .error .reservedField
  | 21 => if rsv n 5 1 then accept (.aand (bit n 31) (fld n 16 5) (fld n 11 5) (fld n 6 5) (bit n 4) (bit n 3) (bit n 2) (fld n 0 2)) else .error .reservedField
  | 22 => if rsv n 5 1 then accept (.aor (bit n 31) (fld n 16 5) (fld n 11 5) (fld n 6 5) (bit n 4) (bit n 3) (bit n 2) (fld n 0 2)) else .error .reservedField
  | 23 => if rsv n 5 1 then accept (.axchg (bit n 31) (fld n 16 5) (fld n 11 5) (fld n 6 5) (bit n 4) (bit n 3) (bit n 2) (fld n 0 2)) else .error .reservedField
  | 24 => if rsv n 5 1 && rsv n 16 1 then accept (.acas (bit n 31) (fld n 17 4) (fld n 11 5) (fld n 6 5) (bit n 4) (bit n 3) (bit n 2) (fld n 0 2)) else .error .reservedField
  | 25 => if n % 4 == 2 then (if rsv n 4 2 then accept (.afadd (bit n 31) (fld n 16 5) (fld n 11 5) (fld n 6 5) (bit n 3) (bit n 2)) else .error .reservedField) else .error .reservedField
  | 32 => accept (.hqry (bit n 31) (fld n 16 5) (fld n 11 5) (fld n 6 5) (fld n 0 6))
  | 33 => if rsv n 1 5 then accept (.hdup (bit n 31) (fld n 16 5) (fld n 11 5) (fld n 6 5) (bit n 0)) else .error .reservedField
  | 34 => if rsv n 0 11 && rsv n 16 5 then accept (.hdrop (bit n 31) (fld n 11 5)) else .error .reservedField
  | 35 => accept (.omcall (bit n 31) (fld n 16 5) (fld n 11 5) (fld n 6 5) (fld n 0 6))
  | 40 => if rsv n 16 5 then accept (.trap (bit n 31) (fld n 0 16)) else .error .reservedField
  | 41 => if rsv n 0 21 then accept (.eret (bit n 31)) else .error .reservedField
  | 42 => if rsv n 2 4 then accept (.notify (bit n 31) (fld n 16 5) (fld n 11 5) (fld n 6 5) (fld n 0 2)) else .error .reservedField
  | 48 => if rsv n 0 11 then accept (.ctxnew (bit n 31) (fld n 16 5) (fld n 11 5)) else .error .reservedField
  | 49 => accept (.ctxgrant (bit n 31) (fld n 16 5) (fld n 11 5) (fld n 6 5) (fld n 0 6))
  | 50 => accept (.ctxset (bit n 31) (fld n 16 5) (fld n 11 5) (fld n 6 5) (fld n 0 6))
  | 51 => if bit n 0 && bit n 1 then .error .reservedField else if bit n 0 then (if rsv n 2 4 then accept (.ctxrunResume (bit n 31) (fld n 16 5) (fld n 11 5) (fld n 6 5)) else .error .reservedField)
    else if bit n 1 then (if rsv n 2 4 then accept (.ctxrunKill (bit n 31) (fld n 16 5) (fld n 11 5) (fld n 6 5)) else .error .reservedField) else (if rsv n 2 9 then accept (.ctxrun (bit n 31) (fld n 16 5) (fld n 11 5)) else .error .reservedField)
  | 52 => if rsv n 0 11 then accept (.ctxstop (bit n 31) (fld n 16 5) (fld n 11 5)) else .error .reservedField
  | 53 => if rsv n 1 10 then accept (.ctxrevoke (bit n 31) (fld n 16 5) (fld n 11 5) (bit n 0)) else .error .reservedField
  | 54 => if rsv n 0 11 then accept (.ctxdel (bit n 31) (fld n 16 5) (fld n 11 5)) else .error .reservedField
  | 55 => if bit n 0 then (if rsv n 1 10 then accept (.logarmOff (bit n 31) (fld n 16 5) (fld n 11 5)) else .error .reservedField) else (if rsv n 1 5 then accept (.logarm (bit n 31) (fld n 16 5) (fld n 11 5) (fld n 6 5)) else .error .reservedField)
  | 56 => if rsv n 1 5 then accept (.perfr (bit n 31) (fld n 16 5) (fld n 11 5) (fld n 6 5) (bit n 0)) else .error .reservedField
  | _ => .error .opUnallocated

/-- One word to its instruction, or the lowest subcode of R28 that the word alone shows. -/
def decode (w : IWord) : Except Illegal Instr :=
  let n := w.toNat
  let op := n / 2 ^ 21 % 2 ^ 7
  match n / 2 ^ 28 % 2 ^ 3 with
  | 0 => decodeCtl n op
  | 1 => decodeVec n op
  | 2 => decodeVmv n op
  | 3 => decodeMat n op
  | 4 => decodeFet n op
  | 5 => decodeSyn n op
  | 6 => if bit n 31 then .error .prefixOrphan else .ok (.pfx (fld n 0 28))
  | _ => .error .engineUndefined

/-- A bit as a number. -/
def bnat (b : Bool) : Nat := if b then 1 else 0

/-- The payload that fields form, each a value and the place of its lowest bit. -/
def placed : List (Nat × Nat) → Nat
  | [] => 0
  | (x, lo) :: r => x * 2 ^ lo + placed r

/-- A word from its stop bit, its engine code, its op value and the fields below op (R15, R17). -/
def packWord (S : Bool) (e op : Nat) (fields : List (Nat × Nat)) : IWord :=
  BitVec.ofNat 32 (bnat S * 2 ^ 31 + (e * 2 ^ 28 + (op * 2 ^ 21 + placed fields)))

/-- The word of an instruction; a device step has none. -/
def encode : Instr → Option IWord
  | .groupCheck => none
  | .groupAdmit => none
  | .pfx p => some (BitVec.ofNat 32 (6 * 2 ^ 28 + p.toNat))
  | .add S d a b => some (packWord S 0 0 [(d.toNat, 16), (a.toNat, 11), (b.toNat, 6)])
  | .sub S d a b => some (packWord S 0 1 [(d.toNat, 16), (a.toNat, 11), (b.toNat, 6)])
  | .mul S d a b => some (packWord S 0 2 [(d.toNat, 16), (a.toNat, 11), (b.toNat, 6)])
  | .mulh S d a b u => some (packWord S 0 3 [(d.toNat, 16), (a.toNat, 11), (b.toNat, 6), (bnat u, 0)])
  | .div S d a b u => some (packWord S 0 4 [(d.toNat, 16), (a.toNat, 11), (b.toNat, 6), (bnat u, 0)])
  | .rem S d a b u => some (packWord S 0 5 [(d.toNat, 16), (a.toNat, 11), (b.toNat, 6), (bnat u, 0)])
  | .and S d a b => some (packWord S 0 6 [(d.toNat, 16), (a.toNat, 11), (b.toNat, 6)])
  | .or S d a b => some (packWord S 0 7 [(d.toNat, 16), (a.toNat, 11), (b.toNat, 6)])
  | .xor S d a b => some (packWord S 0 8 [(d.toNat, 16), (a.toNat, 11), (b.toNat, 6)])
  | .shl S d a b => some (packWord S 0 9 [(d.toNat, 16), (a.toNat, 11), (b.toNat, 6)])
  | .shr S d a b => some (packWord S 0 10 [(d.toNat, 16), (a.toNat, 11), (b.toNat, 6)])
  | .sra S d a b => some (packWord S 0 11 [(d.toNat, 16), (a.toNat, 11), (b.toNat, 6)])
  | .min S d a b u => some (packWord S 0 12 [(d.toNat, 16), (a.toNat, 11), (b.toNat, 6), (bnat u, 0)])
  | .max S d a b u => some (packWord S 0 13 [(d.toNat, 16), (a.toNat, 11), (b.toNat, 6), (bnat u, 0)])
  | .clz S d a => some (packWord S 0 14 [(d.toNat, 16), (a.toNat, 11)])
  | .popc S d a => some (packWord S 0 15 [(d.toNat, 16), (a.toNat, 11)])
  | .sel S d a b c => some (packWord S 0 16 [(d.toNat, 16), (a.toNat, 11), (b.toNat, 6), (c.toNat, 0)])
  | .madd S d a b => some (packWord S 0 17 [(d.toNat, 16), (a.toNat, 11), (b.toNat, 6)])
  | .addi S d a i => some (packWord S 0 24 [(d.toNat, 16), (a.toNat, 11), (i.toNat, 0)])
  | .muli S d a i => some (packWord S 0 25 [(d.toNat, 16), (a.toNat, 11), (i.toNat, 0)])
  | .andi S d a i => some (packWord S 0 26 [(d.toNat, 16), (a.toNat, 11), (i.toNat, 0)])
  | .ori S d a i => some (packWord S 0 27 [(d.toNat, 16), (a.toNat, 11), (i.toNat, 0)])
  | .xori S d a i => some (packWord S 0 28 [(d.toNat, 16), (a.toNat, 11), (i.toNat, 0)])
  | .shli S d a i => some (packWord S 0 29 [(d.toNat, 16), (a.toNat, 11), (i.toNat, 0)])
  | .shri S d a i => some (packWord S 0 30 [(d.toNat, 16), (a.toNat, 11), (i.toNat, 0)])
  | .srai S d a i => some (packWord S 0 31 [(d.toNat, 16), (a.toNat, 11), (i.toNat, 0)])
  | .li S d i => some (packWord S 0 32 [(d.toNat, 16), (i.toNat, 0)])
  | .cmp S c a b k => some (packWord S 0 40 [(c.toNat, 16), (a.toNat, 11), (b.toNat, 6), (k.toNat, 0)])
  | .cmpi S c a k i => some (packWord S 0 41 [(c.toNat, 16), (a.toNat, 11), (k.toNat, 8), (i.toNat, 0)])
  | .clog S d a b p => some (packWord S 0 42 [(d.toNat, 16), (a.toNat, 11), (b.toNat, 6), (p.toNat, 0)])
  | .ptb S b i => some (packWord S 0 48 [(b.toNat, 16), (i.toNat, 0)])
  | .ptbs S d a => some (packWord S 0 49 [(d.toNat, 16), (a.toNat, 11)])
  | .brt S b c l => some (packWord S 0 50 [(b.toNat, 18), (c.toNat, 15), (bnat l, 14)])
  | .brf S b c l => some (packWord S 0 51 [(b.toNat, 18), (c.toNat, 15), (bnat l, 14)])
  | .jmp S b => some (packWord S 0 52 [(b.toNat, 18)])
  | .loop S l r n => some (packWord S 0 53 [(l.toNat, 19), (r.toNat, 14), (n.toNat, 0)])
  | .loopi S l c n => some (packWord S 0 54 [(l.toNat, 19), (c.toNat, 9), (n.toNat, 0)])
  | .lexit S c => some (packWord S 0 55 [(c.toNat, 15)])
  | .nop S => some (packWord S 0 56 [])
  | .lds S d a i => some (packWord S 0 64 [(d.toNat, 16), (a.toNat, 11), (i.toNat, 0)])
  | .sts S d a i => some (packWord S 0 65 [(d.toNat, 16), (a.toNat, 11), (i.toNat, 0)])
  | .mbrd S d m => some (packWord S 0 66 [(d.toNat, 16), (m.toNat, 0)])
  | .mbwr S d m => some (packWord S 0 67 [(d.toNat, 16), (m.toNat, 0)])
  | .csrr S d n => some (packWord S 0 68 [(d.toNat, 16), (n.toNat, 0)])
  | .csrw S d n => some (packWord S 0 69 [(d.toNat, 16), (n.toNat, 0)])
  | .time S d => some (packWord S 0 70 [(d.toNat, 16)])
  | .chkScalar S a => some (packWord S 0 71 [(a.toNat, 11)])
  | .chkCondition S a => some (packWord S 0 71 [(a.toNat, 11), (1, 0)])
  | .xld S d a b x p n => some (packWord S 0 72 [(d.toNat, 16), (a.toNat, 11), (b.toNat, 6), (bnat x, 3), (bnat p, 2), (n.toNat, 0)])
  | .xst S d a b n => some (packWord S 0 73 [(d.toNat, 16), (a.toNat, 11), (b.toNat, 6), (n.toNat, 0)])
  | .spawn S d a t => some (packWord S 5 0 [(d.toNat, 16), (a.toNat, 11), (bnat t, 0)])
  | .taskEnd S => some (packWord S 5 1 [])
  | .yield S => some (packWord S 5 2 [])
  | .pub S a p => some (packWord S 5 3 [(a.toNat, 11), (p.toNat, 0)])
  | .subscribe S a b => some (packWord S 5 4 [(a.toNat, 11), (b.toNat, 6)])
  | .subt S c a b => some (packWord S 5 5 [(c.toNat, 16), (a.toNat, 11), (b.toNat, 6)])
  | .gjoin S g a b => some (packWord S 5 6 [(g.toNat, 16), (a.toNat, 11), (b.toNat, 6)])
  | .gleave S g => some (packWord S 5 7 [(g.toNat, 0)])
  | .barr S d w g => some (packWord S 5 8 [(d.toNat, 16), (bnat w, 2), (g.toNat, 0)])
  | .bwait S a g => some (packWord S 5 9 [(a.toNat, 11), (g.toNat, 0)])
  | .waitw S d a b k => some (packWord S 5 10 [(d.toNat, 16), (a.toNat, 11), (b.toNat, 6), (k.toNat, 0)])
  | .tks S k => some (packWord S 5 11 [(k.toNat, 0)])
  | .tkw S k => some (packWord S 5 12 [(k.toNat, 0)])
  | .mclaim S d a t => some (packWord S 5 13 [(d.toNat, 16), (a.toNat, 11), (bnat t, 0)])
  | .ald S d a b u q n => some (packWord S 5 16 [(d.toNat, 16), (a.toNat, 11), (b.toNat, 6), (bnat u, 4), (bnat q, 2), (n.toNat, 0)])
  | .ast S d a b r n => some (packWord S 5 17 [(d.toNat, 16), (a.toNat, 11), (b.toNat, 6), (bnat r, 3), (n.toNat, 0)])
  | .aadd S d a b u r q n => some (packWord S 5 18 [(d.toNat, 16), (a.toNat, 11), (b.toNat, 6), (bnat u, 4), (bnat r, 3), (bnat q, 2), (n.toNat, 0)])
  | .amax S d a b u r q n => some (packWord S 5 19 [(d.toNat, 16), (a.toNat, 11), (b.toNat, 6), (bnat u, 4), (bnat r, 3), (bnat q, 2), (n.toNat, 0)])
  | .amin S d a b u r q n => some (packWord S 5 20 [(d.toNat, 16), (a.toNat, 11), (b.toNat, 6), (bnat u, 4), (bnat r, 3), (bnat q, 2), (n.toNat, 0)])
  | .aand S d a b u r q n => some (packWord S 5 21 [(d.toNat, 16), (a.toNat, 11), (b.toNat, 6), (bnat u, 4), (bnat r, 3), (bnat q, 2), (n.toNat, 0)])
  | .aor S d a b u r q n => some (packWord S 5 22 [(d.toNat, 16), (a.toNat, 11), (b.toNat, 6), (bnat u, 4), (bnat r, 3), (bnat q, 2), (n.toNat, 0)])
  | .axchg S d a b u r q n => some (packWord S 5 23 [(d.toNat, 16), (a.toNat, 11), (b.toNat, 6), (bnat u, 4), (bnat r, 3), (bnat q, 2), (n.toNat, 0)])
  | .acas S d a b u r q n => some (packWord S 5 24 [(d.toNat, 17), (a.toNat, 11), (b.toNat, 6), (bnat u, 4), (bnat r, 3), (bnat q, 2), (n.toNat, 0)])
  | .afadd S d a b r q => some (packWord S 5 25 [(d.toNat, 16), (a.toNat, 11), (b.toNat, 6), (bnat r, 3), (bnat q, 2), (2, 0)])
  | .hqry S d a b f => some (packWord S 5 32 [(d.toNat, 16), (a.toNat, 11), (b.toNat, 6), (f.toNat, 0)])
  | .hdup S d a b m => some (packWord S 5 33 [(d.toNat, 16), (a.toNat, 11), (b.toNat, 6), (bnat m, 0)])
  | .hdrop S a => some (packWord S 5 34 [(a.toNat, 11)])
  | .omcall S d a b n => some (packWord S 5 35 [(d.toNat, 16), (a.toNat, 11), (b.toNat, 6), (n.toNat, 0)])
  | .omcallReply => none
  | .create => none
  | .delete => none
  | .seal => none
  | .replicate => none
  | .move => none
  | .moveCopy .. => none
  | .moveCommit .. => none
  | .moveAbandon .. => none
  | .plan => none
  | .window => none
  | .unwindow => none
  | .trap S i => some (packWord S 5 40 [(i.toNat, 0)])
  | .eret S => some (packWord S 5 41 [])
  | .notify S d a b t => some (packWord S 5 42 [(d.toNat, 16), (a.toNat, 11), (b.toNat, 6), (t.toNat, 0)])
  | .ctxnew S d a => some (packWord S 5 48 [(d.toNat, 16), (a.toNat, 11)])
  | .ctxgrant S d a b m => some (packWord S 5 49 [(d.toNat, 16), (a.toNat, 11), (b.toNat, 6), (m.toNat, 0)])
  | .ctxset S d a b f => some (packWord S 5 50 [(d.toNat, 16), (a.toNat, 11), (b.toNat, 6), (f.toNat, 0)])
  | .ctxrun S d a => some (packWord S 5 51 [(d.toNat, 16), (a.toNat, 11)])
  | .ctxrunResume S d a b => some (packWord S 5 51 [(d.toNat, 16), (a.toNat, 11), (b.toNat, 6), (1, 0)])
  | .ctxrunKill S d a b => some (packWord S 5 51 [(d.toNat, 16), (a.toNat, 11), (b.toNat, 6), (2, 0)])
  | .ctxstop S d a => some (packWord S 5 52 [(d.toNat, 16), (a.toNat, 11)])
  | .ctxrevoke S d a k => some (packWord S 5 53 [(d.toNat, 16), (a.toNat, 11), (bnat k, 0)])
  | .ctxdel S d a => some (packWord S 5 54 [(d.toNat, 16), (a.toNat, 11)])
  | .logarm S d a b => some (packWord S 5 55 [(d.toNat, 16), (a.toNat, 11), (b.toNat, 6)])
  | .logarmOff S d a => some (packWord S 5 55 [(d.toNat, 16), (a.toNat, 11), (1, 0)])
  | .perfr S d a b t => some (packWord S 5 56 [(d.toNat, 16), (a.toNat, 11), (b.toNat, 6), (bnat t, 0)])
  | .vadd S d a b m t => some (packWord S 1 0 [(d.toNat, 16), (a.toNat, 11), (b.toNat, 6), (m.toNat, 3), (t.toNat, 0)])
  | .vsub S d a b m t => some (packWord S 1 1 [(d.toNat, 16), (a.toNat, 11), (b.toNat, 6), (m.toNat, 3), (t.toNat, 0)])
  | .vmul S d a b m t => some (packWord S 1 2 [(d.toNat, 16), (a.toNat, 11), (b.toNat, 6), (m.toNat, 3), (t.toNat, 0)])
  | .vfma S d a b m t => some (packWord S 1 3 [(d.toNat, 16), (a.toNat, 11), (b.toNat, 6), (m.toNat, 3), (t.toNat, 0)])
  | .vfms S d a b m t => some (packWord S 1 4 [(d.toNat, 16), (a.toNat, 11), (b.toNat, 6), (m.toNat, 3), (t.toNat, 0)])
  | .vfnma S d a b m t => some (packWord S 1 5 [(d.toNat, 16), (a.toNat, 11), (b.toNat, 6), (m.toNat, 3), (t.toNat, 0)])
  | .vmax S d a b m t => some (packWord S 1 6 [(d.toNat, 16), (a.toNat, 11), (b.toNat, 6), (m.toNat, 3), (t.toNat, 0)])
  | .vmin S d a b m t => some (packWord S 1 7 [(d.toNat, 16), (a.toNat, 11), (b.toNat, 6), (m.toNat, 3), (t.toNat, 0)])
  | .vabs S d a m t => some (packWord S 1 8 [(d.toNat, 16), (a.toNat, 11), (m.toNat, 3), (t.toNat, 0)])
  | .vneg S d a m t => some (packWord S 1 9 [(d.toNat, 16), (a.toNat, 11), (m.toNat, 3), (t.toNat, 0)])
  | .vcmp S d a b c t => some (packWord S 1 10 [(d.toNat, 16), (a.toNat, 11), (b.toNat, 6), (c.toNat, 3), (t.toNat, 0)])
  | .vsel S d a b m t => some (packWord S 1 11 [(d.toNat, 16), (a.toNat, 11), (b.toNat, 6), (m.toNat, 3), (t.toNat, 0)])
  | .vclass S d a m t => some (packWord S 1 12 [(d.toNat, 16), (a.toNat, 11), (m.toNat, 3), (t.toNat, 0)])
  | .vrcp S d a m t => some (packWord S 1 13 [(d.toNat, 16), (a.toNat, 11), (m.toNat, 3), (t.toNat, 0)])
  | .vrsq S d a m t => some (packWord S 1 14 [(d.toNat, 16), (a.toNat, 11), (m.toNat, 3), (t.toNat, 0)])
  | .vexp2 S d a m t => some (packWord S 1 15 [(d.toNat, 16), (a.toNat, 11), (m.toNat, 3), (t.toNat, 0)])
  | .vlog2 S d a m t => some (packWord S 1 16 [(d.toNat, 16), (a.toNat, 11), (m.toNat, 3), (t.toNat, 0)])
  | .vtbl S d a n m t => some (packWord S 1 17 [(d.toNat, 16), (a.toNat, 11), (n.toNat, 6), (m.toNat, 3), (t.toNat, 0)])
  | .vscale S d a b m t => some (packWord S 1 18 [(d.toNat, 16), (a.toNat, 11), (b.toNat, 6), (m.toNat, 3), (t.toNat, 0)])
  | .viadd S d a b m t => some (packWord S 1 32 [(d.toNat, 16), (a.toNat, 11), (b.toNat, 6), (m.toNat, 3), (t.toNat, 0)])
  | .visub S d a b m t => some (packWord S 1 33 [(d.toNat, 16), (a.toNat, 11), (b.toNat, 6), (m.toNat, 3), (t.toNat, 0)])
  | .vimul S d a b m t => some (packWord S 1 34 [(d.toNat, 16), (a.toNat, 11), (b.toNat, 6), (m.toNat, 3), (t.toNat, 0)])
  | .vimulh S d a b m t => some (packWord S 1 35 [(d.toNat, 16), (a.toNat, 11), (b.toNat, 6), (m.toNat, 3), (t.toNat, 0)])
  | .vand S d a b m t => some (packWord S 1 36 [(d.toNat, 16), (a.toNat, 11), (b.toNat, 6), (m.toNat, 3), (t.toNat, 0)])
  | .vor S d a b m t => some (packWord S 1 37 [(d.toNat, 16), (a.toNat, 11), (b.toNat, 6), (m.toNat, 3), (t.toNat, 0)])
  | .vxor S d a b m t => some (packWord S 1 38 [(d.toNat, 16), (a.toNat, 11), (b.toNat, 6), (m.toNat, 3), (t.toNat, 0)])
  | .vshl S d a b m t => some (packWord S 1 39 [(d.toNat, 16), (a.toNat, 11), (b.toNat, 6), (m.toNat, 3), (t.toNat, 0)])
  | .vshr S d a b m t => some (packWord S 1 40 [(d.toNat, 16), (a.toNat, 11), (b.toNat, 6), (m.toNat, 3), (t.toNat, 0)])
  | .vsra S d a b m t => some (packWord S 1 41 [(d.toNat, 16), (a.toNat, 11), (b.toNat, 6), (m.toNat, 3), (t.toNat, 0)])
  | .vimin S d a b m t => some (packWord S 1 42 [(d.toNat, 16), (a.toNat, 11), (b.toNat, 6), (m.toNat, 3), (t.toNat, 0)])
  | .vimax S d a b m t => some (packWord S 1 43 [(d.toNat, 16), (a.toNat, 11), (b.toNat, 6), (m.toNat, 3), (t.toNat, 0)])
  | .vicmp S d a b c t => some (packWord S 1 44 [(d.toNat, 16), (a.toNat, 11), (b.toNat, 6), (c.toNat, 3), (t.toNat, 0)])
  | .viabs S d a m t => some (packWord S 1 45 [(d.toNat, 16), (a.toNat, 11), (m.toNat, 3), (t.toNat, 0)])
  | .viota S d m t => some (packWord S 1 46 [(d.toNat, 16), (m.toNat, 3), (t.toNat, 0)])
  | .vrsum S d a m t => some (packWord S 1 64 [(d.toNat, 16), (a.toNat, 11), (m.toNat, 3), (t.toNat, 0)])
  | .vrmax S d a m t => some (packWord S 1 65 [(d.toNat, 16), (a.toNat, 11), (m.toNat, 3), (t.toNat, 0)])
  | .vrmin S d a m t => some (packWord S 1 66 [(d.toNat, 16), (a.toNat, 11), (m.toNat, 3), (t.toNat, 0)])
  | .vscan S d a m t => some (packWord S 1 67 [(d.toNat, 16), (a.toNat, 11), (m.toNat, 3), (t.toNat, 0)])
  | .vcvt S d a s t r => some (packWord S 1 80 [(d.toNat, 16), (a.toNat, 11), (s.toNat, 7), (t.toNat, 3), (r.toNat, 0)])
  | .vcvts S d a s t r => some (packWord S 1 81 [(d.toNat, 16), (a.toNat, 11), (s.toNat, 7), (t.toNat, 3), (r.toNat, 0)])
  | .vqmx S d a e x r y p => some (packWord S 1 82 [(d.toNat, 17), (a.toNat, 11), (e.toNat, 7), (bnat x, 6), (r.toNat, 3), (bnat y, 2), (p.toNat, 0)])
  | .vdqmx S d a e x p => some (packWord S 1 83 [(d.toNat, 16), (a.toNat, 12), (e.toNat, 7), (bnat x, 6), (p.toNat, 4)])
  | .vrng S d m => some (packWord S 1 84 [(d.toNat, 16), (m.toNat, 3), (3, 0)])
  | .vseed S a b => some (packWord S 1 85 [(a.toNat, 11), (b.toNat, 6)])
  | .vany S c a m t => some (packWord S 1 96 [(c.toNat, 16), (a.toNat, 11), (m.toNat, 3), (t.toNat, 0)])
  | .vall S c a m t => some (packWord S 1 97 [(c.toNat, 16), (a.toNat, 11), (m.toNat, 3), (t.toNat, 0)])
  | .vmpop S d a m t => some (packWord S 1 98 [(d.toNat, 16), (a.toNat, 11), (m.toNat, 3), (t.toNat, 0)])
  | .vmlog S d a b m o => some (packWord S 1 99 [(d.toNat, 16), (a.toNat, 11), (b.toNat, 6), (m.toNat, 3), (o.toNat, 0)])
  | .vbcst S d a m t => some (packWord S 1 100 [(d.toNat, 16), (a.toNat, 11), (m.toNat, 3), (t.toNat, 0)])
  | .vext S d a b t => some (packWord S 1 101 [(d.toNat, 16), (a.toNat, 11), (b.toNat, 6), (t.toNat, 0)])
  | .vperm S d a b m t => some (packWord S 1 102 [(d.toNat, 16), (a.toNat, 11), (b.toNat, 6), (m.toNat, 3), (t.toNat, 0)])
  | .vnop S n => some (packWord S 1 103 [(n.toNat, 0)])
  | .vld S d a i => some (packWord S 2 0 [(d.toNat, 16), (a.toNat, 11), (i.toNat, 0)])
  | .vst S d a i => some (packWord S 2 1 [(d.toNat, 16), (a.toNat, 11), (i.toNat, 0)])
  | .vlds S d a b r => some (packWord S 2 2 [(d.toNat, 16), (a.toNat, 11), (b.toNat, 6), (r.toNat, 0)])
  | .vsts S d a b r => some (packWord S 2 3 [(d.toNat, 16), (a.toNat, 11), (b.toNat, 6), (r.toNat, 0)])
  | .vgth S d a b m w => some (packWord S 2 4 [(d.toNat, 16), (a.toNat, 11), (b.toNat, 6), (m.toNat, 2), (w.toNat, 0)])
  | .vsct S d a b m w => some (packWord S 2 5 [(d.toNat, 16), (a.toNat, 11), (b.toNat, 6), (m.toNat, 2), (w.toNat, 0)])
  | .vtrw S t v r s d => some (packWord S 2 8 [(t.toNat, 19), (v.toNat, 14), (r.toNat, 9), (s.toNat, 5), (d.toNat, 1)])
  | .vtcr S d t c s e => some (packWord S 2 9 [(d.toNat, 16), (t.toNat, 14), (c.toNat, 9), (s.toNat, 5), (e.toNat, 1)])
  | .vtz S t => some (packWord S 2 10 [(t.toNat, 19)])
  | .vacr S d a r q => some (packWord S 2 11 [(d.toNat, 16), (a.toNat, 12), (r.toNat, 7), (q.toNat, 5)])
  | .vtld S n a b => some (packWord S 2 12 [(n.toNat, 16), (a.toNat, 11), (b.toNat, 6)])
  | .vmov S d a m => some (packWord S 2 13 [(d.toNat, 16), (a.toNat, 11), (m.toNat, 0)])
  | .vmld S d a => some (packWord S 2 14 [(d.toNat, 16), (a.toNat, 11)])
  | .vmst S d a => some (packWord S 2 15 [(d.toNat, 16), (a.toNat, 11)])
  | .vchk S a k => some (packWord S 2 16 [(a.toNat, 11), (bnat k, 0)])
  | .vtks S k => some (packWord S 2 17 [(k.toNat, 0)])
  | .vtkw S k => some (packWord S 2 18 [(k.toNat, 0)])
  | .vflg S d c => some (packWord S 2 19 [(d.toNat, 16), (bnat c, 0)])
  | .mma S a x y f => some (packWord S 3 0 [(a.toNat, 17), (x.toNat, 10), (y.toNat, 3), (f.toNat, 0)])
  | .mmat S a x y f => some (packWord S 3 1 [(a.toNat, 17), (x.toNat, 10), (y.toNat, 3), (f.toNat, 0)])
  | .mzero S a => some (packWord S 3 2 [(a.toNat, 17)])
  | .mlda S a r => some (packWord S 3 3 [(a.toNat, 17), (r.toNat, 12)])
  | .mdrn S a r t o y x p => some (packWord S 3 4 [(a.toNat, 17), (r.toNat, 12), (t.toNat, 8), (o.toNat, 5), (bnat y, 4), (bnat x, 3), (bnat p, 2)])
  | .mdrs S a o t r y x l => some (packWord S 3 5 [(a.toNat, 17), (o.toNat, 10), (t.toNat, 6), (r.toNat, 3), (bnat y, 2), (bnat x, 1), (bnat l, 0)])
  | .mrel S o k => some (packWord S 3 6 [(o.toNat, 10), (bnat k, 9)])
  | .mwait S a v => some (packWord S 3 7 [(a.toNat, 17), (v.toNat, 0)])
  | .mscal S a r c => some (packWord S 3 8 [(a.toNat, 17), (r.toNat, 12), (bnat c, 11)])
  | .mtks S k => some (packWord S 3 9 [(k.toNat, 0)])
  | .mtkw S k => some (packWord S 3 10 [(k.toNat, 0)])
  | .fview S w a f => some (packWord S 4 0 [(w.toNat, 16), (a.toNat, 11), (f.toNat, 0)])
  | .fdim S w a b j => some (packWord S 4 1 [(w.toNat, 16), (a.toNat, 11), (b.toNat, 6), (j.toNat, 0)])
  | .fidx S w a b p => some (packWord S 4 2 [(w.toNat, 16), (a.toNat, 11), (b.toNat, 6), (bnat p, 0)])
  | .fshape S w a => some (packWord S 4 3 [(w.toNat, 16), (a.toNat, 11)])
  | .fill S o w r => some (packWord S 4 4 [(o.toNat, 14), (w.toNat, 10), (r.toNat, 8)])
  | .fillc S o w => some (packWord S 4 5 [(o.toNat, 14), (w.toNat, 10)])
  | .fld S w a b => some (packWord S 4 6 [(w.toNat, 16), (a.toNat, 11), (b.toNat, 6)])
  | .fst S w a b => some (packWord S 4 7 [(w.toNat, 16), (a.toNat, 11), (b.toNat, 6)])
  | .fsts S o w => some (packWord S 4 8 [(o.toNat, 14), (w.toNat, 10)])
  | .fbind S q w x o => some (packWord S 4 9 [(q.toNat, 16), (w.toNat, 11), (bnat x, 1), (bnat o, 0)])
  | .funb S q => some (packWord S 4 10 [(q.toNat, 16)])
  | .fcopy S d s => some (packWord S 4 11 [(d.toNat, 16), (s.toNat, 11)])
  | .fgth S w a b r => some (packWord S 4 12 [(w.toNat, 16), (a.toNat, 11), (b.toNat, 6), (r.toNat, 0)])
  | .fpre S w t => some (packWord S 4 13 [(w.toNat, 16), (t.toNat, 0)])
  | .frel S a => some (packWord S 4 14 [(a.toNat, 11)])
  | .fdone S a b x => some (packWord S 4 15 [(a.toNat, 11), (b.toNat, 6), (bnat x, 0)])
  | .ftks S k => some (packWord S 4 16 [(k.toNat, 0)])
  | .ftkw S k => some (packWord S 4 17 [(k.toNat, 0)])
  | .fadv S w a j => some (packWord S 4 18 [(w.toNat, 16), (a.toNat, 11), (j.toNat, 0)])
  | .vectorStep => none
  | .deliveredResult => none
  | .bankGrant .. => none
  | .fetchCommandBegin => none
  | .releasedCommandBegin => none
  | .fetchRequest .. => none
  | .extentMapWalk .. => none
  | .masonReplyResolved => none
  | .masonReplyFailed => none
  | .fetchRequestComplete .. => none
  | .fetchError .. => none
  | .tierTimeout .. => none
  | .peerTimeout .. => none
  | .fdoneValueWrite => none
  | .fetchTokenPush => none
  | .streamReadAhead .. => none
  | .streamWrite .. => none
  | .imageCopy => none
  | .l2Fill .. => none
  | .l2Install .. => none
  | .l2LineWrite .. => none
  | .l2Pin .. => none
  | .l2Invalidation .. => none
  | .peerRequest .. => none
  | .spawnPortWrite .. => none
  | .hostWindowAccess .. => none
  | .taskPlace .. => none
  | .taskPark => none
  | .sliceExpiry => none
  | .forcedSave => none
  | .saveComplete .. => none
  | .trapEntry => none
  | .eventAppend => none
  | .weirClk .. => none
  | .droopResponse .. => none
  | .clockRecovery .. => none
  | .overtemperature .. => none
  | .coldReset => none
  | .watchdogReset => none
  | .rootFirmwareImage .. => none
  | .masonImage .. => none
  | .bootManifest .. => none
  | .spdmRequest .. => none
  | .keySlotLoad .. => none
  | .l2SetDump .. => none
  | .layoutChange .. => none
  | .layoutCommit => none
  | .migration .. => none
  | .junctionLimit .. => none
  | .powerCap => none
  | .masonEndsTask => none

/-- The instruction that the decoder reads from a word whose bits are w, as the opcode table numbers them; the words of this
hardware are 32 bits, so bits above nbits are zero. -/
def decodeTableWord (nbits w : Nat) : Option Instr :=
  (decode (BitVec.ofNat 32 (w % 2 ^ nbits))).toOption

end Sys2Proof
end

