-- ==== Sys2Proof/Machine/State.lean ====
section
/-!
DEFINITION. The state of one package: the task under execution, every other task, the cores, the L2, the tiers, the object and
handle tables, the contexts, the weirs, Mason's queues, boot and firmware; and the three outcomes' reasons. Plain data.
-/

namespace Sys2Proof.Machine

/-- Bytes by address, in one canonical form: addresses strictly rising, no entry equal to zero, which is what an unlisted
address reads as (every window, frame and slot is granted zeroed: R132, R301, R111; log entry 3). -/
abbrev Mem := List Host.Cell

/-- The trap causes of a task (R293). -/
inductive Cause where
  | illegalEncoding | privilege | poison | handleInvalid | handleRevoked | rights | bounds | missingObject
  | framePoolEmpty | fetchError | slotFaulted | slotOwner | quota | software | loop | alignment
  deriving DecidableEq, Repr

/-- A cause with the four trap information registers that its rule lays out (R295, R296). -/
structure TrapInfo where
  cause : Cause
  x0 : Word
  x1 : Word
  x2 : Word
  x3 : Word
  deriving DecidableEq, Repr

/-- The deferral record of a poisoned register: the trap and the offset of the word where the poison arose (R246). -/
structure Deferral where
  info : TrapInfo
  org : BitVec 32
  deriving DecidableEq, Repr

/-- A scalar register; it is poisoned when it carries a deferral record (R244, R246). -/
structure SReg where
  val : Word
  poison : Option Deferral
  deriving DecidableEq, Repr

/-- A condition register (R244). -/
structure CReg where
  val : Bool
  poison : Option Deferral
  deriving DecidableEq, Repr

/-- A loop register; active while count is nonzero (R255). -/
structure Loop where
  start : Word
  last : Word
  count : Word
  deriving DecidableEq, Repr

/-- Registers as the group rules name them (R25, R30). -/
inductive Reg where
  | s (n : BitVec 5) | c (n : BitVec 3) | b (n : BitVec 3) | l (n : BitVec 2) | mb (n : BitVec 3) | csr (n : BitVec 12)
  | v (n : BitVec 5) | m (n : BitVec 3) | t (n : BitVec 2) | tab (n : BitVec 3) | sr
  | a (n : BitVec 4) | w (n : BitVec 4)
  deriving DecidableEq, Repr

/-- Where the control engine stands: at a group boundary, with a group checked (R28), running an admitted group (R29), or past
a group whose `END` or `YIELD` waits to take effect (R276, R277). -/
inductive Phase where
  | boundary | checked | running | ending
  deriving DecidableEq, Repr

/-- The effect on the flow of control that waits for the last word of its group (R27). `jump` applies the loop test of R258. -/
inductive Xfer where
  | none | jump (target : Word) | goto (target : Word) | taskEnd | yield | eret
  deriving DecidableEq, Repr

/-- What a waiting word has already done (R124, R278): nothing that must not be repeated, arrived at a barrier whose
generation was g0, sent request number `no` to Mason, received the reply v or the value of its access (R307), begun its operation on the number or handle v that it
read before it began to wait (R31), sent a request to a tier or a peer at tick t that has had no reply (R73); and Mason's answers to a
fault request (R300). -/
inductive Progress where
  | plain | arrived (g0 : BitVec 32) | sent (no : Nat) | answered (v : Word) | begun (v : Word) | asked (t : Word) | resolved
  | failed (info : TrapInfo)
  deriving DecidableEq, Repr

/-- Slot states (R137). -/
inductive SlotSt where
  | free | empty | filling | full | draining | faulted
  deriving DecidableEq, Repr

/-- What a waiting word waits for (R278), with what its checks have established: a version of an object, its own writes, a group's
generation, a chunk of its window with the offset and value it captured, a reply, a slot's state or the held count, a pool entry for a
checked record and its context, the end of an access that has been resolved, with its word, its handle, its object, its runs of bytes as shard,
offset and count, and the two operands that an atomic has read (R55, R242), or another condition of its entry. -/
inductive Wake where
  | version (oid : BitVec 48) (ver : BitVec 32)
  | writes (oid : BitVec 48)
  | gen (gid : BitVec 32) (target : BitVec 32)
  | chunk (a b : Word)
  | reply
  | slot (key : Nat) (st : SlotSt) (owner : BitVec 64) (held : Nat)
  | pool (r : BitVec 1024) (ctx : Nat)
  | access (i : Instr) (h : Nat) (oid : BitVec 48) (runs : List (Nat × Nat × Nat)) (v v2 : Word)
  | other
  deriving DecidableEq, Repr

/-- A blocked word of the control engine: its progress, the clk it has waited without interruption, what it waits for, and the scalar
registers as a SYN word captured them (R31), none for a CTL word. -/
structure Wait where
  progress : Progress
  clk : Nat
  wake : Wake
  caps : List SReg := []
  deriving DecidableEq, Repr

/-- What a handler keeps of the interrupted group (R33, R124): the wait of its word, its transfer, whether the group is over. DEDUCED, log entry 28. DEDUCED, log entry 34. -/
structure Kept where
  wait : Option Wait
  xfer : Xfer
  ending : Bool
  deriving DecidableEq, Repr

/-- A write of `XST` that has been resolved and goes on in the background (R240): its code unit and op, its handle and object, its runs of
bytes as shard, offset and count, its bytes, and the tick of its request (R73). -/
structure PStore where
  eng : Nat
  op : Nat
  h : Nat
  oid : BitVec 48
  runs : List (Nat × Nat × Nat)
  bytes : List Byte
  since : Word
  deriving DecidableEq, Repr

/-- The control engine's state of a task (R244, R245). `words` are the words of the group at hand as the group check read them. `ports`
holds for each port the number of the binding that words now dispatched name, 0 for none; numbers rise, and an odd one is outbound
(R140). `stores` are the writes that go on in the background, the oldest first (R240). -/
structure Ctl where
  s : Vector SReg 32
  c : Vector CReg 8
  b : Vector Word 8
  loops : Vector Loop 4
  stack : List (BitVec 2)
  mb : Vector Word 8
  pc : Word
  codeH : BitVec 24
  codeO : BitVec 48
  grp : Word
  words : List (BitVec 32)
  phase : Phase
  xfer : Xfer
  pfx : Option (BitVec 28)
  pend : List Reg
  wait : Option Wait
  gseq : Nat
  ports : Vector Nat 4
  binds : Nat
  stores : List PStore
  deriving DecidableEq, Repr

/-- An engine trap that is pending (R124, R173, R228): its engine code, its information, the values that the engine's
command registers take when it is taken, and the clk at which it became pending (R296). -/
structure PTrap where
  eng : Nat
  info : TrapInfo
  cmd : Word
  pos : Word
  halting : Bool
  clk : Nat
  deriving DecidableEq, Repr

/-- Trap, pre-emption and other control registers of a task (R159, R263, R295). `taken` is the engine whose trap the running
handler serves, `pending` holds the engine traps in the order they became pending. -/
structure Trp where
  xcause : BitVec 11
  xpc : BitVec 32
  xcode : BitVec 24
  x0 : Word
  x1 : Word
  x2 : Word
  x3 : Word
  scr : Vector Word 4
  hmode : Bool
  forced : Bool
  fscnt : Word
  slice : Bool
  stop : Bool
  system : Bool
  remain : BitVec 32
  limit : BitVec 32
  flags : BitVec 5
  qwm : Word
  chkorg : Word
  fqact : Bool
  fqpos : Word
  fqcmd : Word
  vqact : BitVec 2
  vqcmd : Word
  mqact : BitVec 2
  mqcmd : Word
  pending : List PTrap
  taken : Option Nat
  kept : Kept
  deriving DecidableEq, Repr

/-- The SR generator (R150). -/
structure Sr where
  seed : Word
  stream : Word
  count : Word
  deriving DecidableEq, Repr

/-- A queue entry: a word with its prefix, the scalars it captured in the order of its entry, the offset recorded for it
(R21), its group, the generator as it stood at dispatch (R152), the numbers of the port bindings in force (R140), and what the register
that it delivers held at dispatch (R30). -/
structure QEntry where
  w : Instr
  pfx : Option (BitVec 28)
  caps : List Word
  pc : Word
  gseq : Nat
  sr : Sr
  ports : Vector Nat 4
  was : Option SReg
  deriving DecidableEq, Repr

/-- A vector register or a tile row, with its poison bit (R162). -/
structure VReg where
  bits : BitVec 2048
  poison : Bool
  deriving DecidableEq, Repr

/-- A mask register, with its poison bit (R162). -/
structure MReg where
  bits : BitVec 256
  poison : Bool
  deriving DecidableEq, Repr

/-- An interpolation table: segment k has its value at bits [64k + 31 : 64k] and its slope above; descriptor (R181). -/
structure Tab where
  seg : BitVec 16384
  desc : BitVec 13
  deriving DecidableEq, Repr

/-- Where a vector result lands (R166): a register, a mask, a tile row, a whole tile that is zeroed, a table, the push of a port under a
binding, a token, or nowhere. -/
inductive VDst where
  | v (n : BitVec 5) | m (n : BitVec 3) | row (t : BitVec 2) (r : BitVec 6) | tile (t : BitVec 2)
  | tab (n : BitVec 3) (seg : BitVec 16384) (desc : BitVec 13) | port (q : BitVec 2) (no : Nat) | token (k : BitVec 3) | nowhere
  deriving DecidableEq, Repr

/-- A result in flight: its landing step, its place, the bits it writes, its poison, whether the place's own poison counts
(R164), its uncommitted flags (R160), and a second register whose poison drops them too. -/
structure Flight where
  land : Nat
  dst : VDst
  val : BitVec 2048
  mask : BitVec 2048
  poison : Bool
  keep : Bool
  flags : BitVec 5
  also : Option (BitVec 5)
  deriving DecidableEq, Repr

/-- A scratchpad store of the vector engine: its step, and the bytes that it replaced, which loads of the next step still see (R168); a byte
that another unit has written since is no longer kept (R134). -/
structure VStore where
  step : Nat
  off : Nat
  old : List (Option Byte)
  deriving DecidableEq, Repr

/-- A delivered result on its way to the control engine (R171). -/
structure Deliv where
  reg : Reg
  val : Word
  poison : Option Deferral
  deriving DecidableEq, Repr

/-- The vector engine's state of a task (R162, R165). `halted` holds while a vector trap is pending or handled; `occ`
counts the further steps that the last group occupies; `score` is the last landing step of the results that were in flight at a forced save (R170). -/
structure Vec where
  v : Vector VReg 32
  m : Vector MReg 8
  rows : Vector VReg 256
  tabs : Vector Tab 8
  sr : Sr
  q : List QEntry
  step : Nat
  occ : Nat
  flights : List Flight
  stores : List VStore
  deliv : List Deliv
  halted : Bool
  score : Option Nat
  deriving DecidableEq, Repr

/-- A view register with its shape state (R103). -/
structure View where
  bad : Bool
  hx : Bool
  shaped : Bool
  scale : Bool
  noalloc : Bool
  defer : Bool
  handle : BitVec 24
  step : Vector (BitVec 32) 4
  extm : Vector (BitVec 16) 4
  base : Vector (BitVec 32) 4
  shape : BitVec 512
  deriving DecidableEq, Repr

/-- A request of a command that has been issued and has not completed: its first element position, its element count, the
object that it resolved to (for a copy, destination and source), whether its fault was deferred (R127), the tick of its issue. -/
structure FReq where
  first : Nat
  count : Nat
  oid : BitVec 48
  oid2 : BitVec 48
  bad : Bool
  since : Word
  deriving DecidableEq, Repr

/-- A line write that waits for the rest of its line (R99): the line's key, the data, the mask of the bits written, that of the bits that
stand in the line already, others having awaited them, what the bits that have been put there replaced and their mask, and the first element
position of the last request that wrote to it (R128). -/
structure LBuf where
  key : Nat
  data : BitVec 512
  mask : BitVec 512
  done : BitVec 512 := 0
  was : BitVec 512 := 0
  put : BitVec 512 := 0
  pos : Nat
  deriving DecidableEq, Repr

/-- A fetch command that has begun or waits for its release: its number in queue order, the word, its captured scalars, copies
of its views and the objects they named, its release time, its place in the order of beginning, whether its slot has taken it and whether
it has made its checks, the first element position not issued, the requests issued, whether its issue phase has
ended, whether it halted at a trap, the number of the request on which it waits for Mason and his failure, whether it ended with an
error and its subcode, the index list and the deferred rows of a gather, its line writes that wait, the chunk of scratchpad that its last
request has read in part (R134), the cause and subcode of the trap after which it has been abandoned, when only its issued requests
are left (R125, R126), and the tick at which its line writes were sent to a place that has not replied (R73). -/
structure FCmd where
  seq : Nat
  e : QEntry
  v : View
  v2 : View
  oid : BitVec 48
  oid2 : BitVec 48
  rel : Option Word
  beg : Nat
  begun : Bool
  ok : Bool
  pos : Nat
  outst : List FReq
  ended : Bool
  halted : Bool
  mason : Option Nat
  fail : Option TrapInfo
  err : Bool
  esub : Nat
  list : List Word
  badRows : List Nat
  buf : List LBuf
  chunk : Option (Nat × BitVec 512)
  quit : Option (BitVec 8 × BitVec 8)
  asked : Option Word := none
  deriving DecidableEq, Repr

/-- An FDONE value not yet written (R121): its number in queue order, its place in the order of beginning, whether it covers every earlier
command. -/
structure FDone where
  seq : Nat
  beg : Nat
  all : Bool
  off : Nat
  val : Word
  deriving DecidableEq, Repr

/-- A token push of FTKS that waits (R122). -/
structure FTok where
  seq : Nat
  k : BitVec 3
  deriving DecidableEq, Repr

/-- A port element with its poison bit (R117, R141). -/
structure PElem where
  data : BitVec 2048
  poison : Bool
  deriving DecidableEq, Repr

/-- A stream port (R117, R118): its binding with the number, the offset of its word, its view and object, element width, elements of a
pass; the read-ahead or the accepted pushes; the port elements walked since the binding; whether the walk has ended (inbound) or a
push past the end has been reported (outbound); the bindings whose late push has been reported; whether the binding was abandoned or
halted; its wait for Mason and his failure; the leading bits of an element that the next push completes; its line writes that wait; the
tick at which it sent a request that has had no reply (R73); whether that request moves its next element, which is resolved then (R55), and the
bytes whose lines are reserved for it (R88); the elements of its head that are written (R101); whether its next element makes all checks of its view from the binding's position on (R126,
R129). -/
structure Port where
  bound : Bool
  out : Bool
  wrap : Bool
  no : Nat
  pc : Word
  v : View
  oid : BitVec 48
  width : Nat
  total : Nat
  fifo : List PElem
  count : Nat
  ended : Bool
  late : List Nat
  dead : Bool
  halted : Bool
  mason : Option Nat
  fail : Option TrapInfo
  part : BitVec 8
  buf : List LBuf
  asked : Option Word
  res : Bool := false
  runs : List (Nat × Nat × Nat) := []
  sub : Nat := 0
  again : Bool := false
  deriving DecidableEq, Repr

/-- A binding that has ended, as a late push of it reports it (R142): its number, the offset of its word, its handle and object, the
position of its walk. -/
structure Past where
  no : Nat
  pc : Word
  handle : BitVec 24
  oid : BitVec 48
  pos : Nat
  deriving DecidableEq, Repr

/-- The fetch engine's state of a task (R32, R103, R105, R120 to R122); `past` are the outbound bindings that have ended, `ends` the reports of
PORT-END that find too many fetch traps waiting (R124). -/
structure Fet where
  w : Vector View 16
  q : List QEntry
  act : Option FCmd
  run : List FCmd
  rel : List FCmd
  frel : Option Word
  fdone : List FDone
  ftks : List FTok
  errs : List Nat
  seq : Nat
  ports : Vector Port 4
  past : List Past
  ends : List Past
  deriving DecidableEq, Repr

/-- A group slot: the group's ID and the generation of the member's last arrival in it, if any (R279). -/
structure GSlot where
  gid : BitVec 32
  arrived : Option (BitVec 32)
  deriving DecidableEq, Repr

/-- The states of a task (R270); `none` is the absence of a task, `reflected` a task parked by a reflected trap (R323). -/
inductive TaskSt where
  | none | waiting | ready | running | parked | reflected
  deriving DecidableEq, Repr

/-- Slot arrangements (R111). -/
inductive Arr where
  | a | b | bt
  deriving DecidableEq, Repr

/-- An operand slot: state, owning task, arrangement, format, MX, the cause and subcode of a fault (R139), whether it becomes
FREE once its fill or drain ends, its 34 KiB, the sidecar from byte 32,768, and whether its memory holds an uncorrectable error (R217). -/
structure Slot where
  st : SlotSt
  owner : BitVec 64
  arr : Arr
  fmt : Fmt
  mx : Bool
  fcause : BitVec 8
  fsub : BitVec 8
  dying : Bool
  data : Mem
  bad : Bool
  deriving DecidableEq, Repr

/-- An accumulator tile: the context that holds it (0 for none), version, kind, counters, its elements, element (m, n) at byte
1,024 m + 4 n (R205, R206), and the rows whose memory holds an uncorrectable error (R217). -/
structure Tile where
  ctx : Nat
  ver : BitVec 16
  kind : Bool
  nans : Word
  infs : Word
  wraps : Word
  mmas : Word
  ecc : Word
  data : Mem
  bad : List Nat
  deriving DecidableEq, Repr

/-- A task: its pool entry, its record, its scheduling and its whole architectural state (R267 to R272, R307). The
scratchpad window's bytes are the task's own (R132); `told` is the context that a reflected trap's event goes to, 0 for none (R319);
`startAsk` is how Mason stands to a code object that was absent at placement (R245, R300); `entryTrap` is what a placement within a handler meets
at its code object (R245); `pops` are the tokens popped from each FIFO in clk `popClk` (R284); `eligAt` is the clk at which the matrix word at the head of its queue became
eligible (R289). -/
structure Task where
  st : TaskSt
  id : BitVec 64
  tr : BitVec 1024
  ctx : Nat
  part : Nat
  core : Option Nat
  readyAt : Nat
  ranClk : Nat
  wasForced : Bool
  saving : Bool
  image : Bool
  imagePos : Nat
  imageHalt : Bool
  starts : List TrapInfo
  startAsk : Progress
  entryTrap : Option TrapInfo := none
  c : Ctl
  x : Trp
  v : Vec
  mq : List QEntry
  eligAt : Option Nat
  mhalted : Bool
  f : Fet
  tok : Vector Nat 8
  popClk : Nat
  pops : Vector Nat 8
  grp : Vector (Option GSlot) 4
  win : Mem
  spilled : Bool
  told : Nat
  spillTiles : List (Nat × Tile)
  deriving DecidableEq, Repr

/-- One line field of an L2 tag (R83). -/
structure L2Line where
  lv : Bool
  dirty : BitVec 4
  mode : BitVec 4
  cnt : BitVec 3
  ptr : Vector (BitVec 7) 4
  deriving DecidableEq, Repr

/-- A superblock tag (R83), with its pending lines: those that wait for their install, and the context whose request awaits each (R88). -/
structure L2Tag where
  pend : BitVec 4
  who : Vector (BitVec 12) 4
  pin : Bool
  age : BitVec 5
  ctx : BitVec 12
  ptag : BitVec 40
  lines : Vector L2Line 4
  deriving DecidableEq, Repr

/-- A set of a slice: 32 tags and the pool of 128 sectors (R80). -/
structure L2Set where
  tags : Vector L2Tag 32
  pool : Vector (BitVec 128) 128
  deriving DecidableEq, Repr

/-- A line of an object held by a core's L1 (R131). -/
structure L1Line where
  core : Nat
  oid : BitVec 48
  line : Nat
  data : BitVec 512
  deriving DecidableEq, Repr

/-- The bounds of one dimension of a handle entry (R46, R47). -/
structure Bnd where
  gs : BitVec 5
  lo : BitVec 16
  cnt : BitVec 16
  deriving DecidableEq, Repr

/-- States of a handle entry (R46). -/
inductive HSt where
  | free | live | revoked
  deriving DecidableEq, Repr

/-- A handle-table entry (R46); rights in the order READ, WRITE, PUBLISH, ATOMIC, GRANT, QUERY from bit 0. -/
structure HEntry where
  st : HSt
  oid : BitVec 48
  rights : BitVec 6
  box : Vector Bnd 4
  pctx : BitVec 12
  phandle : BitVec 24
  deriving DecidableEq, Repr

/-- A counted PUB: the version it took, its scope and the publisher's core (R232). -/
structure PubRec where
  ver : BitVec 32
  scope : BitVec 2
  core : Nat
  deriving DecidableEq, Repr

/-- An object-table entry (R48), its reserved bits together in `rsv`, with the PUB words counted for it. -/
structure Obj where
  rank : BitVec 3
  coherent : Bool
  sealed : Bool
  hostsh : Bool
  fmt : BitVec 4
  mxk : BitVec 2
  layout : BitVec 2
  ext : Vector (BitVec 32) 4
  shsize : BitVec 32
  shcnt : BitVec 11
  split : BitVec 2
  home : BitVec 12
  res : BitVec 2
  moving : Bool
  version : BitVec 32
  keyslot : BitVec 13
  hmap : BitVec 48
  ownerEp : BitVec 12
  ownerCtx : BitVec 12
  repl : List (BitVec 12)
  xmap : BitVec 32
  rsv : BitVec 525
  pubs : List PubRec
  deriving DecidableEq, Repr

/-- States of a context number; a number without an entry is FREE (R314). -/
inductive CtxSt where
  | stopped | running | deleting
  deriving DecidableEq, Repr

/-- The dirty log of a context: its ring handle, the context of that handle, the logged pages, and whether the full episode that lasts has been
reported (R303, R325). -/
structure DLog where
  ring : BitVec 24
  rctx : Nat
  pages : List Nat
  told : Bool
  deriving DecidableEq, Repr

/-- A context: record (R312), parent (0xFFF for a root), depth, state, event ring handle, dirty log and counters by number. -/
structure Ctx where
  cr : BitVec 2048
  parent : Nat
  depth : Nat
  st : CtxSt
  ring : BitVec 24
  log : Option DLog
  counters : List (Nat × Nat)
  deriving DecidableEq, Repr

/-- A group (R279). -/
structure Group where
  limit : Nat
  members : Nat
  arrived : Nat
  gen : BitVec 32
  deriving DecidableEq, Repr

/-- A residency trigger (R69), with the object of its target and whether its handle has gone since installation (R70). -/
structure Trigger where
  num : Nat
  ctx : Nat
  watch : BitVec 48
  tg : BitVec 256
  oid : BitVec 48
  gone : Bool
  deriving DecidableEq, Repr

/-- A host window (R77). -/
structure Window where
  num : Nat
  ctx : Nat
  handle : BitVec 24
  oid : BitVec 48
  ep : BitVec 12
  rights : BitVec 6
  deriving DecidableEq, Repr

/-- A move in progress: target residency and endpoint, the die whose pools are asked first, the frames taken for its pages, whether the copy
is done, and the number of the request it answers (R66). -/
structure Move where
  oid : BitVec 48
  res : BitVec 2
  ep : BitVec 12
  die : Nat := 0
  frames : List (Nat × BitVec 32)
  copied : Bool
  no : Nat
  deriving DecidableEq, Repr

/-- A request to Mason (R62, R291, R300): an OMCALL, an access fault, a reflected trap's event, or the move of a trigger that has fired
(R70). `no` numbers the requests that await an answer. -/
inductive Req where
  | trigger (t : Trigger)
  | omcall (no : Nat) (ctx : Nat) (part : Nat) (n : BitVec 6) (a b : Word) (bytes : List Byte)
  | fault (no : Nat) (ctx : Nat) (part : Nat) (info : TrapInfo)
  | event (ctx : Nat) (task : BitVec 64) (ev : BitVec 512)
  deriving DecidableEq, Repr

/-- An event record that waits to be appended to the ring of a context (R323, R324). -/
structure EvItem where
  ctx : Nat
  ev : BitVec 512
  deriving DecidableEq, Repr

/-- A context's share of a weir: bucket and spare credit in units of 2^-26, last partition granted (R289). -/
structure Bucket where
  ctx : Nat
  tokens : Int
  credit : Int
  part : Nat
  deriving DecidableEq, Repr

/-- What the handle unit or Mason records of an object: a malformed entry (R49), the failed copy of a move (R66). -/
inductive Report where
  | malformed (oid : BitVec 48) | copyFailed (oid : BitVec 48)
  deriving DecidableEq, Repr

/-- What ails the places that requests go to (R73): a tier or the peers send no reply, the links to peers fail their checksum, the peers
lack the key, the peers' tiers hold an uncorrectable error. -/
inductive Trouble where
  | silent (place : Nat) | checksum | peerKey | peerLine
  deriving DecidableEq, Repr

/-- A weir: its buckets, the context last granted from tokens, the moment up to which it is busy, in units of a clk over its
capacity, the number of its clk up to which it has been refilled, and the contexts that it has granted in the last of these (R287, R289,
R292). -/
structure Weir where
  buckets : List Bucket
  last : Nat
  busy : Nat
  ran : Nat := 0
  got : List Nat := []
  deriving DecidableEq, Repr

/-- A transfer, walk, line, access or flit that waits at a weir of classes 1 to 6 (R105, R289): class, unit, context, partition (288: none),
the clk of the weir since which it waits, and whether it belongs to a request that a peer's context has sent here (R71). -/
structure WReq where
  cls : Nat
  unit : Nat
  ctx : Nat
  part : Nat
  since : Nat
  peer : Bool := false
  deriving DecidableEq, Repr

/-- A 32-byte message of a notification ring (R79). -/
structure HostMsg where
  ctx : Nat
  part : Nat
  time : Word
  a : Word
  b : Word
  deriving DecidableEq, Repr

/-- An extent-map walk (R102): the die, the object and the page key. -/
structure Walk where
  die : Nat
  oid : BitVec 48
  key : Nat
  deriving DecidableEq, Repr

/-- A bank's arbitration state: the partition last granted and whether the fetch engine was granted in the previous clk (R133). -/
structure Bank where
  lastPart : Nat
  fetchLast : Bool
  granted : Option Nat
  deriving DecidableEq, Repr

/-- A partition layout: SPN of the 48 cores and the root records (R335). -/
structure Layout where
  spn : List Byte
  roots : List (BitVec 2048)
  deriving DecidableEq, Repr

/-- The layout-change journal (R336, R337). -/
inductive Journal where
  | none | prepared | committed | finished
  deriving DecidableEq, Repr

/-- Boot and firmware (R331 to R337): the next boot step (6 once boot has ended), the images' digests, a manifest that waits for the
Mason image, the manifest's fields,
the layouts and the journal, the cores held by a change, whether this start is a watchdog reset, whether a layout stands, be it one without
roots. -/
structure Boot where
  step : Nat
  watchdog : Bool
  keyDerived : Bool
  rootImg : Option (BitVec 512)
  masonImg : Option (BitVec 512)
  stash : Option (List Byte)
  manifest : Option (BitVec 512)
  mver : BitVec 32
  ep : BitVec 12
  intake : Nat
  pcap : Nat
  members : List (BitVec 12)
  layout : Layout
  shadow : Option Layout
  journal : Journal
  held : List Nat
  portsUp : Bool
  laid : Bool
  deriving DecidableEq, Repr

/-- A compute die's clock in sixteenths of nominal, its clk since the last change, the sixteenths of a clk that have passed of the one
under way, and its clk since reset (R6, R338). -/
structure Die where
  clock : Nat
  since : Nat
  phase : Nat
  count : Nat
  deriving DecidableEq, Repr

/-- A subtree that moves between packages (R328): the object-table entries that its handles name, with what the arriving ones' homes hold of
them, the events that wait for room in its rings, its contexts with records, counters and dirty-log state, handle tables, groups,
triggers, tasks with their saved state, slots and tiles. -/
structure Moved where
  ep : BitVec 12
  objs : List (Nat × Obj)
  remote : Mem
  events : List EvItem
  ctxs : List (Nat × Ctx)
  handles : List (Nat × HEntry)
  groups : List (Nat × Group)
  trigs : List Trigger
  tasks : List Task
  slots : List (Nat × Slot)
  tiles : List (Nat × Tile)
  deriving DecidableEq, Repr

/-- Which engine's turn it is: a queue word is captured and queued by the control engine and executed by its own engine. -/
inductive Turn where
  | control | vector | matrix | fetch
  deriving DecidableEq, Repr

/-- One item of the agenda: nominal clk pass, the task on a partition comes under execution, an engine of that task takes the word
at the head of its queue, a device step happens; or, from outside, a tier or the fabric begins or ceases to ail (R73), an error that ECC
cannot correct strikes the L2's tags or sectors for a list of lines or a line of a tier (R74, R97), or operand slots and rows of accumulator
tiles (R217), a subtree reaches this package's Mason
from another (R328), Mason stops or runs a root at the context unit (R329), an agent, 0 for root firmware, asks for a device step (R330). -/
inductive Act where
  | pass (clk : Nat)
  | focus (part : Nat)
  | turn (u : Turn)
  | ev (i : Instr)
  | ail (x : Trouble) (on : Bool)
  | upset (l2 : List Nat) (tier : List Nat)
  | upsetCore (slots : List Nat) (rows : List (Nat × Nat))
  | arrive (m : Moved)
  | root (c : Nat) (run : Bool)
  | asks (who : BitVec 2) (i : Instr)
  deriving DecidableEq, Repr

/-- The state of the machine. `t` is the task under execution, `others` every other task of the ready pools; `fired` are the triggers whose prefetch
waits for its object to thaw (R56, R70); `replBad` are the lines that a replica on another package holds poisoned (R58, R74). `agenda`, `turn` and `fresh` are the model's own (log entries 1 and 7). -/
structure State where
  t : Task
  others : List Task
  turn : Turn
  agenda : List Act
  clk : Nat
  ticks : Word
  fresh : Nat
  slots : List (Nat × Slot)
  tiles : List (Nat × Tile)
  l1 : List L1Line
  grants : List Nat
  banks : List (Nat × Bank)
  incs : List (Nat × BitVec 32)
  dies : Vector Die 4
  mem : Mem
  remote : Mem
  remoteBad : List Nat
  replBad : List Nat
  l2 : List (Nat × L2Set)
  l2bad : List Nat
  bad : List Nat
  trouble : List Trouble
  objs : List (Nat × Obj)
  pages : List (Nat × BitVec 32)
  handles : List (Nat × HEntry)
  nextObj : Nat
  pools : List (Nat × List (BitVec 32))
  trigs : List Trigger
  fired : List Trigger
  wins : List Window
  moves : List Move
  keys : List (Nat × BitVec 512)
  ctxs : List (Nat × Ctx)
  groups : List (Nat × Group)
  weirs : List (Nat × Weir)
  transfers : List WReq
  intake : List (Nat × Req)
  mason : List Req
  reports : List Report
  replies : List (Nat × Word)
  events : List EvItem
  hosts : List (Nat × List HostMsg)
  answers : List (BitVec 2)
  hostData : List (List Byte)
  walks : List Walk
  xcache : List (Nat × BitVec 32)
  boot : Boot
  pcie : List (List Byte)
  moved : List Moved
  inbound : List Moved
  placeWait : Nat
  deriving DecidableEq, Repr

/-- Reasons for which a step stops the machine. The spec gives every encoding, operand and event an effect (R2), so no reason is
needed for an instruction; the one reason is a step asked of a unit that holds no decoded word. -/
inductive Fault where
  /-- `State.withFetchWord`'s counterpart in `step`: the control engine runs an admitted group and its word is not one the
  decoder reads. No group that passed R28 holds such a word, so only a state that no run reaches raises it. Safe. -/
  | undecodedWord
  deriving DecidableEq, Repr

/-- Reasons for which an instruction has no meaning in this model. -/
inductive Refusal where
  /-- The instruction has no meaning yet; raised by an arm of `exec` only. Safe. -/
  | notModelled (mnemonic : String)
  deriving DecidableEq, Repr

/-- A scalar register at task start: zero, unpoisoned (R244). -/
def SReg.zero : SReg := { val := 0, poison := none }

/-- The condition registers at task start: c0 reads 1, the others 0 (R19, R244). -/
def Ctl.resetC : Vector CReg 8 :=
  Vector.ofFn fun i => { val := i.val == 0, poison := none }

/-- The control engine at task start (R244): no loop active, nothing pending, at a group boundary. -/
def Ctl.reset : Ctl :=
  { s := Vector.replicate 32 SReg.zero, c := Ctl.resetC, b := Vector.replicate 8 0,
    loops := Vector.replicate 4 { start := 0, last := 0, count := 0 }, stack := [], mb := Vector.replicate 8 0,
    pc := 0, codeH := 0, codeO := 0, grp := 0, words := [], phase := .boundary, xfer := .none, pfx := none, pend := [], wait := none,
    gseq := 0, ports := Vector.replicate 4 0, binds := 0, stores := [] }

/-- The trap registers at first placement (R295): zero, DEADLINE.LIMIT 200,000. -/
def Trp.reset : Trp :=
  { xcause := 0, xpc := 0, xcode := 0, x0 := 0, x1 := 0, x2 := 0, x3 := 0, scr := Vector.replicate 4 0, hmode := false,
    forced := false, fscnt := 0, slice := false, stop := false, system := false, remain := 0, limit := 200000, flags := 0,
    qwm := 0, chkorg := 0, fqact := false, fqpos := 0, fqcmd := 0, vqact := 0, vqcmd := 0, mqact := 0, mqcmd := 0,
    pending := [], taken := none, kept := { wait := none, xfer := .none, ending := false } }

/-- A zero, unpoisoned vector register (R162). -/
def VReg.zero : VReg := { bits := 0, poison := false }

/-- The vector engine at task start (R150, R162). -/
def Vec.reset : Vec :=
  { v := Vector.replicate 32 VReg.zero,
    m := Vector.ofFn fun i => { bits := if i.val == 0 then BitVec.allOnes 256 else 0, poison := false },
    rows := Vector.replicate 256 VReg.zero, tabs := Vector.replicate 8 { seg := 0, desc := 0 },
    sr := { seed := 0, stream := 0, count := 0 }, q := [], step := 0, occ := 0, flights := [], stores := [], deliv := [],
    halted := false, score := none }

/-- A view at task start: every bit zero (R103). -/
def View.zero : View :=
  { bad := false, hx := false, shaped := false, scale := false, noalloc := false, defer := false, handle := 0,
    step := Vector.replicate 4 0, extm := Vector.replicate 4 0, base := Vector.replicate 4 0, shape := 0 }

/-- An unbound port. -/
def Port.unbound : Port :=
  { bound := false, out := false, wrap := false, no := 0, pc := 0, v := View.zero, oid := 0, width := 8, total := 0, fifo := [],
    count := 0, ended := false, late := [], dead := false, halted := false, mason := none, fail := none, part := 0, buf := [],
    asked := none }

/-- The fetch engine at task start (R103). -/
def Fet.reset : Fet :=
  { w := Vector.replicate 16 View.zero, q := [], act := none, run := [], rel := [], frel := none, fdone := [], ftks := [],
    errs := [], seq := 0, ports := Vector.replicate 4 Port.unbound, past := [], ends := [] }

/-- No task. DESIGN CHOICE, log entry 80. -/
def Task.idle : Task :=
  { st := .none, id := 0, tr := 0, ctx := 0, part := 0, core := none, readyAt := 0, ranClk := 0, wasForced := false,
    saving := false, image := false, imagePos := 0, imageHalt := false, starts := [], startAsk := .plain, c := Ctl.reset, x := Trp.reset, v := Vec.reset, mq := [], eligAt := none,
    mhalted := false, f := Fet.reset, tok := Vector.replicate 8 0, popClk := 0, pops := Vector.replicate 8 0,
    grp := Vector.replicate 4 none, win := [],
    spilled := false, told := 0, spillTiles := [] }

/-- A slot at reset: FREE (R137). -/
def Slot.reset : Slot :=
  { st := .free, owner := 0, arr := .a, fmt := .f32, mx := false, fcause := 0, fsub := 0, dying := false, data := [], bad := false }

/-- A tile that no context holds: contents, version, kind and counters zero (R205). -/
def Tile.reset : Tile :=
  { ctx := 0, ver := 0, kind := false, nans := 0, infs := 0, wraps := 0, mmas := 0, ecc := 0, data := [], bad := [] }

/-- A set at reset: every tag free, its age its way number, every field zero (R83). -/
def L2Set.reset : L2Set :=
  { tags := Vector.ofFn fun i =>
      { pend := 0, who := Vector.replicate 4 0, pin := false, age := BitVec.ofNat 5 i.val, ctx := 0, ptag := 0,
        lines := Vector.replicate 4 { lv := false, dirty := 0, mode := 0, cnt := 0, ptr := Vector.replicate 4 0 } },
    pool := Vector.replicate 128 0 }

/-- A weir before any context holds tokens there (R289). -/
def Weir.reset : Weir := { buckets := [], last := 0, busy := 0 }

/-- A bank before any grant (DESIGN CHOICE, log entry 5). -/
def Bank.reset : Bank := { lastPart := 0, fetchLast := false, granted := none }

/-- The boot state after a cold reset: step 1 of R331 is next, nothing verified, no layout (DESIGN CHOICE, log entry 4). -/
def Boot.reset : Boot :=
  { step := 1, watchdog := false, keyDerived := false, rootImg := none, masonImg := none, stash := none, manifest := none, mver := 0, ep := 0,
    intake := 0, pcap := 0, members := [], layout := { spn := List.replicate 48 0, roots := [] }, shadow := none,
    journal := .none, held := [], portsUp := false, laid := false }

/-- The package right after a cold reset (R331): no task, no context, no object, every slot FREE (R137), the L2 empty (R83), every
die at nominal clock, boot step 1 next. What the spec leaves open here is named in log entries 1 to 6. DESIGN CHOICE, log entry 2. -/
def State.reset : State :=
  { t := Task.idle, others := [], turn := .control, agenda := [], clk := 0, ticks := 0, fresh := 0, slots := [], tiles := [],
    l1 := [], grants := [], banks := [], incs := [], dies := Vector.replicate 4 { clock := 16, since := 0, phase := 0, count := 0 },
    mem := [], remote := [], remoteBad := [], replBad := [], l2 := [], l2bad := [], bad := [], trouble := [], objs := [], pages := [], handles := [],
    nextObj := 0, pools := [], trigs := [], fired := [], wins := [], moves := [], keys := [], ctxs := [], groups := [], weirs := [], transfers := [],
    intake := [], mason := [], reports := [], replies := [], events := [], hosts := [], answers := [], hostData := [], walks := [],
    xcache := [], boot := Boot.reset, pcie := [], moved := [], inbound := [], placeWait := 0 }

end Sys2Proof.Machine
end

