-- ==== Sys2Proof/Machine/Basics.lean ====
section
/-!
DEFINITION. Bytes and memories, lists keyed by number, numbers of units, and the small reads of a task's and a context's record.
-/

namespace Sys2Proof.Machine

/-- The byte at an address; an unlisted address reads zero (DESIGN CHOICE, log entry 3). -/
def Mem.get : Mem → Nat → Byte
  | [], _ => 0
  | (k, b) :: m, a => if k = a then b else Mem.get m a

/-- The cells of bytes that are to stand from address a on; zero bytes are not listed. -/
def Mem.cells : Nat → List Byte → Mem
  | _, [] => []
  | a, b :: bs => if b = 0 then Mem.cells (a + 1) bs else (a, b) :: Mem.cells (a + 1) bs

/-- A memory with bytes written from address a on. -/
def Mem.write (m : Mem) (a : Nat) (bs : List Byte) : Mem :=
  m.filter (fun c => c.1 < a) ++ Mem.cells a bs ++ m.filter (fun c => a + bs.length ≤ c.1)

/-- The canonical form: addresses strictly rising and no listed zero. -/
def Mem.wf (m : Mem) : Bool :=
  decide (m.Pairwise fun x y => x.1 < y.1) && m.all fun c => c.2 != 0

/-- n bytes from address a on. -/
def Mem.read (m : Mem) (a n : Nat) : List Byte := (List.range n).map fun i => m.get (a + i)

/-- The number that bytes form, least significant first (R4). -/
def leNat : List Byte → Nat
  | [] => 0
  | b :: bs => b.toNat + 256 * leNat bs

/-- The n bytes of a number, least significant first (R4). -/
def leBytes : Nat → Nat → List Byte
  | 0, _ => []
  | n + 1, x => BitVec.ofNat 8 x :: leBytes n (x / 256)

/-- The value that a keyed list holds under k. -/
def alGet {α : Type} : List (Nat × α) → Nat → Option α
  | [], _ => none
  | (i, x) :: l, k => if i = k then some x else alGet l k

/-- A keyed list with x under k, keys rising. -/
def alSet {α : Type} : List (Nat × α) → Nat → α → List (Nat × α)
  | [], k, x => [(k, x)]
  | (i, y) :: l, k, x =>
    if k < i then (k, x) :: (i, y) :: l else if i = k then (k, x) :: l else (i, y) :: alSet l k x

/-- A keyed list without k. -/
def alDel {α : Type} (l : List (Nat × α)) (k : Nat) : List (Nat × α) := l.filter fun p => p.1 != k

/-- Element i of a vector, or d when i lies outside it. -/
def vget {α : Type} {n : Nat} (v : Vector α n) (i : Nat) (d : α) : α := v[i]?.getD d

/-- A vector with element i replaced; unchanged when i lies outside it. -/
def vset {α : Type} {n : Nat} (v : Vector α n) (i : Nat) (x : α) : Vector α n := v.setIfInBounds i x

/-- Division that rounds up. -/
def cdiv (a b : Nat) : Nat := (a + b - 1) / b

/-- Core of a partition (R10). -/
def coreOfPart (p : Nat) : Nat := p / 6

/-- Die of a core (R10). -/
def dieOfCore (k : Nat) : Nat := k / 12

/-- Die of a task ID (R269). -/
def dieOfId (i : BitVec 64) : Nat := (i.extractLsb' 12 2).toNat

/-- The core a task runs on, or ran on last. -/
def Task.coreNo (t : Task) : Nat :=
  match t.core with
  | some k => k
  | none => coreOfPart t.part

/-- The window size of a task: its SPAD rounded up to 64 KiB (R132, R267). -/
def Task.window (t : Task) : Nat := cdiv (t.tr.extractLsb' 224 32).toNat 65536 * 65536

/-- Slot quota of the task record (R136, R267). -/
def Task.quota (t : Task) : Nat := (t.tr.extractLsb' 200 8).toNat

/-- Priority of the task record (R267). -/
def Task.prio (t : Task) : Nat := (t.tr.extractLsb' 112 3).toNat

/-- Whether ACCS names tile a (R205, R267). -/
def Task.ownsAcc (t : Task) (a : Nat) : Bool := t.tr.getLsbD (208 + a)

/-- A change of the task under execution. -/
def State.modT (s : State) (f : Task → Task) : State := { s with t := f s.t }

/-- A change of its control engine. -/
def State.modC (s : State) (f : Ctl → Ctl) : State := { s with t := { s.t with c := f s.t.c } }

/-- A change of its trap registers. -/
def State.modX (s : State) (f : Trp → Trp) : State := { s with t := { s.t with x := f s.t.x } }

/-- A change of its vector engine. -/
def State.modV (s : State) (f : Vec → Vec) : State := { s with t := { s.t with v := f s.t.v } }

/-- A change of its fetch engine. -/
def State.modF (s : State) (f : Fet → Fet) : State := { s with t := { s.t with f := f s.t.f } }

/-- Every task of the package, the one under execution first when there is one. -/
def State.tasks (s : State) : List Task := if s.t.st = .none then s.others else s.t :: s.others

/-- A change of every task. -/
def State.mapTasks (s : State) (f : Task → Task) : State := { s with t := f s.t, others := s.others.map f }

/-- The same task: its ID is unique among the filled pool entries (R269). -/
def State.modTask (s : State) (id : BitVec 64) (f : Task → Task) : State :=
  s.mapTasks fun t => if t.st ≠ .none ∧ t.id = id then f t else t

/-- A task by its ID. -/
def State.taskById (s : State) (id : BitVec 64) : Option Task := s.tasks.find? fun t => t.id == id

/-- Another task under execution for one operation. -/
def State.asTask (s : State) (id : BitVec 64) (f : State → State) : State :=
  if s.t.st ≠ .none ∧ s.t.id = id then f s
  else match s.others.find? fun t => t.id == id with
    | none => s
    | some u =>
      let rest := s.others.filter fun t => t.id != id
      let s1 := f { s with t := u, others := if s.t.st = .none then rest else s.t :: rest }
      match (if s.t.st = .none then none else s1.others.find? fun t => t.id == s.t.id) with
      | none => { s1 with t := Task.idle, others := s1.t :: s1.others }
      | some me => { s1 with t := me, others := s1.t :: s1.others.filter fun t => t.id != s.t.id }

/-- The context under a number (R314). -/
def State.ctx (s : State) (c : Nat) : Option Ctx := alGet s.ctxs c

/-- A change of a context. -/
def State.modCtx (s : State) (c : Nat) (f : Ctx → Ctx) : State :=
  match s.ctx c with
  | some x => { s with ctxs := alSet s.ctxs c (f x) }
  | none => s

/-- A field of a context's record, zero for a number that names no context. -/
def State.ctxField (s : State) (c lo w : Nat) : Nat :=
  match s.ctx c with
  | some x => (x.cr.extractLsb' lo w).toNat
  | none => 0

/-- The parent of a context (R311). -/
def State.parent (s : State) (c : Nat) : Nat :=
  match s.ctx c with
  | some x => x.parent
  | none => 0xFFF

/-- A context and its ancestors, at most n of them. -/
def State.chainFuel (s : State) : Nat → Nat → List Nat
  | 0, _ => []
  | n + 1, c => if c = 0xFFF ∨ (s.ctx c).isNone then [] else c :: s.chainFuel n (s.parent c)

/-- A context and its ancestors; the tree is at most 8 levels deep (R311). -/
def State.chain (s : State) (c : Nat) : List Nat := s.chainFuel 8 c

/-- Whether d lies below c in the tree. -/
def State.isBelow (s : State) (c d : Nat) : Bool := d != c && (s.chain d).contains c

/-- The numbers of the subtree of c, c included. -/
def State.subtree (s : State) (c : Nat) : List Nat :=
  (s.ctxs.map (·.1)).filter fun d => d == c || s.isBelow c d

/-- The children of c. -/
def State.children (s : State) (c : Nat) : List Nat := (s.ctxs.filter fun p => p.2.parent == c).map (·.1)

/-- The sum of a field over the children of c. -/
def State.childSum (s : State) (c lo w : Nat) : Nat := ((s.children c).map fun d => s.ctxField d lo w).sum

/-- The own share of a divided field (R313). -/
def State.own (s : State) (c lo w : Nat) : Nat := s.ctxField c lo w - s.childSum c lo w

/-- Own RATE at a weir class (R313). -/
def State.ownRate (s : State) (c cls : Nat) : Nat := s.own c (768 + 64 * cls) 32

/-- DEPTH at a weir class (R288). -/
def State.weirDepth (s : State) (c cls : Nat) : Nat := s.ctxField c (816 + 64 * cls) 16

/-- The partitions of a context's record (R312). -/
def State.partsOf (s : State) (c : Nat) : List Nat :=
  (List.range 288).filter fun p => match s.ctx c with
    | some x => x.cr.getLsbD (1728 + p)
    | none => false

/-- The own partitions of a context (R313). -/
def State.ownPart (s : State) (c p : Nat) : Bool :=
  (match s.ctx c with | some x => x.cr.getLsbD (1728 + p) | none => false)
    && !(s.children c).any fun d => match s.ctx d with | some x => x.cr.getLsbD (1728 + p) | none => false

/-- A context is runnable when it and every ancestor is RUNNING (R314). -/
def State.runnable (s : State) (c : Nat) : Bool :=
  !(s.chain c).isEmpty && (s.chain c).all fun d => match s.ctx d with
    | some x => x.st == .running
    | none => false

/-- An event counter of a context advances by n, modulo 2^64 (R98, R292, R326). -/
def State.count (s : State) (c k n : Nat) : State :=
  s.modCtx c fun x =>
    { x with counters := if n = 0 then x.counters else alSet x.counters k (((alGet x.counters k).getD 0 + n) % 2 ^ 64) }

/-- A die at nominal clock. -/
def Die.nominal : Die := { clock := 16, since := 0, phase := 0, count := 0 }

/-- A compute die's clock. -/
def State.dieOf (s : State) (d : Nat) : Die := vget s.dies d Die.nominal

/-- The clk that a weir counts (R287): on a compute die that die's, on the I/O die the reference. Classes 0 and 1 stand at the cores, 2 and 3
at the dies. -/
def State.weirNow (s : State) (cls unit : Nat) : Nat :=
  match cls with
  | 0 => (s.dieOf (dieOfCore unit)).count | 1 => (s.dieOf (dieOfCore unit)).count
  | 2 => (s.dieOf unit).count | 3 => (s.dieOf unit).count | _ => s.clk

/-- The partition for which a context's request is made now: that of the task under execution, or none (288). -/
def State.askPart (s : State) (ctx : Nat) : Nat := if s.t.st = .running ∧ s.t.ctx = ctx then s.t.part else 288

/-- n requests of a context begin to wait at a weir (R105, R289). Requests of no context are charged to none (log entry 15). -/
def State.ask (s : State) (cls unit ctx n : Nat) : State :=
  if (s.ctx ctx).isNone then s
  else { s with transfers := s.transfers ++
    List.replicate n { cls := cls, unit := unit, ctx := ctx, part := s.askPart ctx, since := s.weirNow cls unit } }

/-- A fresh number for a free value (DESIGN CHOICE, log entry 7). -/
def State.tickFresh (s : State) : State := { s with fresh := s.fresh + 1 }

/-- The number of the next request to Mason; `tickFresh` takes it. -/
def State.reqNo (s : State) : Nat := s.fresh + 1

/-- SPN of a core (R130). -/
def State.spn (s : State) (k : Nat) : Nat := ((s.boot.layout.spn[k]?).getD 0).toNat

/-- The slot of a core. -/
def State.slot (s : State) (k n : Nat) : Slot := (alGet s.slots (k * 128 + n)).getD Slot.reset

/-- A core's slot replaced. -/
def State.setSlot (s : State) (k n : Nat) (x : Slot) : State := { s with slots := alSet s.slots (k * 128 + n) x }

/-- The tile of a core. -/
def State.tile (s : State) (k a : Nat) : Tile := (alGet s.tiles (k * 16 + a)).getD Tile.reset

/-- A core's tile replaced. -/
def State.setTile (s : State) (k a : Nat) (x : Tile) : State := { s with tiles := alSet s.tiles (k * 16 + a) x }

/-- Whether a task owns a slot (R135). -/
def Slot.ownedBy (x : Slot) (t : Task) : Bool := x.st != .free && x.owner == t.id

/-- Slots held by a task on its core (R136). -/
def State.heldSlots (s : State) (t : Task) : Nat :=
  (s.slots.filter fun p => p.1 / 128 == t.coreNo && p.2.ownedBy t).length

/-- Bits of a list of bytes as one number of w bits. -/
def bitsOfBytes (w : Nat) (bs : List Byte) : BitVec w := BitVec.ofNat w (leNat bs)

/-- n bytes of the window of the task under execution (R132). -/
def State.spad (s : State) (a n : Nat) : List Byte := s.t.win.read a n

/-- A store of the vector engine keeps no longer what stood in n bytes from a on (R134). -/
def VStore.forget (a n : Nat) (x : VStore) : VStore :=
  { x with old := x.old.zipIdx.map fun p => if a ≤ x.off + p.2 ∧ x.off + p.2 < a + n then none else p.1 }

/-- Another unit than the vector engine has written n bytes from a on: a vector load reads them as they stand (R134). -/
def State.forget (s : State) (a n : Nat) : State := s.modV fun v => { v with stores := v.stores.map (VStore.forget a n) }

/-- Bytes written to the window of the task under execution by another unit than its vector engine. -/
def State.setSpad (s : State) (a : Nat) (bs : List Byte) : State :=
  (s.modT fun t => { t with win := t.win.write a bs }).forget a bs.length

/-- The bits of a line write that waits and that do not stand in the line yet (R99). -/
def LBuf.due (b : LBuf) : BitVec 512 := b.mask &&& ~~~b.done

/-- A port has line writes that wait with bits that do not stand in their lines yet. -/
def Port.lands (p : Port) : Bool := p.buf.any fun b => b.due != 0

/-- The number of elements of a list that satisfy p, as the machine counts units. -/
def countIf {α : Type} (p : α → Bool) (l : List α) : Nat := (l.filter p).length

end Sys2Proof.Machine
end

