-- ==== Sys2Proof/Machine/L2.lean ====
section
/-!
DEFINITION. The compressed L2: the Coursing codec (R84 to R87), the operations at a set (R88 to R91), ways, quotas and victims
(R92 to R96), and the counters (R98).
-/

namespace Sys2Proof.Machine

/-- Word j of a line (R84). -/
def lineWord (d : BitVec 512) (j : Nat) : BitVec 32 := d.extractLsb' (32 * j) 32

/-- The payload bits of a mode for nz nonzero words (R84). -/
def coursingBits (mode nz : Nat) : Nat :=
  match mode with
  | 0 => 0 | 1 => 16 + 32 * nz | 2 => 16 + 8 * nz | 3 => 16 + 16 * nz
  | 4 => 48 + 4 * (nz - 1) | 5 => 48 + 8 * (nz - 1) | 6 => 48 + 16 * (nz - 1) | _ => 512

/-- Sectors of a payload (R84). -/
def coursingSectors (mode nz : Nat) : Nat := cdiv (coursingBits mode nz) 128

/-- A 32-bit value fits k signed bits (R85). -/
def fitsSigned (x : BitVec 32) (k : Nat) : Bool := -(2 ^ (k - 1) : Int) ≤ x.toInt && x.toInt ≤ 2 ^ (k - 1) - 1

/-- Delta width of the base modes (R85). -/
def coursingK (mode : Nat) : Nat := if mode = 4 then 4 else if mode = 5 then 8 else 16

/-- The numbers of the nonzero words, ascending. -/
def nzWords (d : BitVec 512) : List Nat := (List.range 16).filter fun j => lineWord d j != 0

/-- Eligibility of a mode (R85). -/
def coursingEligible (mode : Nat) (d : BitVec 512) : Bool :=
  let ws := nzWords d
  let f := lineWord d (ws.headD 0)
  match mode with
  | 1 => coursingBits 1 ws.length ≤ 512
  | 2 => ws.all fun j => fitsSigned (lineWord d j) 8
  | 3 => ws.all fun j => fitsSigned (lineWord d j) 16
  | 7 => true
  | m => (ws.drop 1).all fun j => fitsSigned (lineWord d j - f) (coursingK m)

/-- The best eligible mode of a list; a tie keeps the earlier (R85). -/
def coursingBest (d : BitVec 512) (nz : Nat) : List Nat → Option Nat → Option Nat
  | [], best => best
  | m :: ms, best =>
    let better := match best with
      | none => true
      | some b => coursingSectors m nz < coursingSectors b nz
    coursingBest d nz ms (if coursingEligible m d && better then some m else best)

/-- The mode that Coursing chooses for a line (R85). -/
def coursingMode (d : BitVec 512) : Nat :=
  if (nzWords d).isEmpty then 0
  else (coursingBest d (nzWords d).length [1, 2, 3, 4, 5, 6, 7] none).getD 7

/-- Fields packed from bit 0 upward (R86). -/
def packFields : List (Nat × Nat) → Nat
  | [] => 0
  | (w, x) :: fs => x % 2 ^ w + 2 ^ w * packFields fs

/-- The payload of a line under a mode (R86). -/
def coursingPack (mode : Nat) (d : BitVec 512) : BitVec 512 :=
  let ws := nzWords d
  let f := lineWord d (ws.headD 0)
  let zmap := (16, (ws.map fun j => 2 ^ j).sum)
  match mode with
  | 0 => 0
  | 1 => BitVec.ofNat 512 (packFields (zmap :: ws.map fun j => (32, (lineWord d j).toNat)))
  | 2 => BitVec.ofNat 512 (packFields (zmap :: ws.map fun j => (8, (lineWord d j).toNat)))
  | 3 => BitVec.ofNat 512 (packFields (zmap :: ws.map fun j => (16, (lineWord d j).toNat)))
  | 7 => d
  | m => BitVec.ofNat 512 (packFields (zmap :: (32, f.toNat)
      :: (ws.drop 1).map fun j => (coursingK m, (lineWord d j - f).toNat)))

/-- The expanded words of a payload, given the nonzero word numbers that are left (R87). -/
def coursingWords (mode : Nat) (p : BitVec 512) (f : BitVec 32) : List Nat → Nat → List (Nat × BitVec 32)
  | [], _ => []
  | j :: js, pos =>
    match mode with
    | 1 => (j, p.extractLsb' pos 32) :: coursingWords mode p f js (pos + 32)
    | 2 => (j, (p.extractLsb' pos 8).signExtend 32) :: coursingWords mode p f js (pos + 8)
    | 3 => (j, (p.extractLsb' pos 16).signExtend 32) :: coursingWords mode p f js (pos + 16)
    | 4 => (j, f + (p.extractLsb' pos 4).signExtend 32) :: coursingWords mode p f js (pos + 4)
    | 5 => (j, f + (p.extractLsb' pos 8).signExtend 32) :: coursingWords mode p f js (pos + 8)
    | _ => (j, f + (p.extractLsb' pos 16).signExtend 32) :: coursingWords mode p f js (pos + 16)

/-- A line from its words. -/
def lineOfWords (ws : List (Nat × BitVec 32)) : BitVec 512 :=
  BitVec.ofNat 512 ((ws.map fun p => p.2.toNat * 2 ^ (32 * p.1)).sum)

/-- Decoding inverts the packing (R87). -/
def coursingDecode (mode : Nat) (p : BitVec 512) : BitVec 512 :=
  let ws := (List.range 16).filter fun j => p.getLsbD j
  match mode with
  | 0 => 0
  | 7 => p
  | 1 | 2 | 3 => lineOfWords (coursingWords mode p 0 ws 16)
  | _ =>
    let f := p.extractLsb' 16 32
    lineOfWords ((ws.headD 0, f) :: coursingWords mode p f (ws.drop 1) 48)

/-- Slice and set of a physical address (R82). -/
def indexHash (pa : BitVec 48) : Nat × Nat :=
  let h := pa.extractLsb' 8 18 ^^^ pa.extractLsb' 26 18 ^^^ (pa.extractLsb' 44 4).setWidth 18
  ((h.extractLsb' 16 2).toNat, (h.extractLsb' 0 16).toNat)

/-- The key of a set in the state. -/
def setKey (pa : BitVec 48) : Nat := (indexHash pa).1 * 65536 + (indexHash pa).2

/-- A set of the L2. -/
def State.l2set (s : State) (k : Nat) : L2Set := (alGet s.l2 k).getD L2Set.reset

/-- PA[47:8] of a superblock (R83). -/
def ptagOf (pa : BitVec 48) : BitVec 40 := pa.extractLsb' 8 40

/-- The line of a physical address within its superblock. -/
def lineIdx (pa : BitVec 48) : Nat := (pa.extractLsb' 6 2).toNat

/-- The 64-byte line address of a physical address. -/
def lineAddr (pa : BitVec 48) : Nat := pa.toNat / 64 * 64

/-- A tag is free when all four LV bits are 0 (R83) and no line of it is pending (R88). -/
def L2Tag.free (t : L2Tag) : Bool := t.pend == 0 && t.lines.toList.all fun l => !l.lv

/-- An invalid line field. -/
def L2Line.empty : L2Line := { lv := false, dirty := 0, mode := 0, cnt := 0, ptr := Vector.replicate 4 0 }

/-- A free tag with the recency rank of its way. -/
def L2Tag.reset (age : BitVec 5) : L2Tag :=
  { pend := 0, who := Vector.replicate 4 0, pin := false, age := age, ctx := 0, ptag := 0, lines := Vector.replicate 4 L2Line.empty }

/-- Tag w of a set. -/
def L2Set.tag (st : L2Set) (w : Nat) : L2Tag := vget st.tags w (L2Tag.reset 0)

/-- Line i of tag w. -/
def L2Set.line (st : L2Set) (w i : Nat) : L2Line := vget (st.tag w).lines i L2Line.empty

/-- The way that holds a superblock. -/
def L2Set.find (st : L2Set) (p : BitVec 40) : Option Nat :=
  (List.range 32).find? fun w => !(st.tag w).free && (st.tag w).ptag == p

/-- The payload of a line: its sectors joined (R86). -/
def L2Set.payload (st : L2Set) (l : L2Line) : BitVec 512 :=
  BitVec.ofNat 512 (((List.range l.cnt.toNat).map fun k =>
    (vget st.pool (vget l.ptr k 0).toNat 0).toNat * 2 ^ (128 * k)).sum)

/-- The 64 bytes of a valid line (R87). -/
def L2Set.data (st : L2Set) (l : L2Line) : BitVec 512 := coursingDecode l.mode.toNat (st.payload l)

/-- Pool sectors that valid lines name (R83). -/
def L2Set.used (st : L2Set) : List Nat :=
  st.tags.toList.flatMap fun t => t.lines.toList.flatMap fun l =>
    if l.lv then (List.range l.cnt.toNat).map fun k => (vget l.ptr k 0).toNat else []

/-- The free sectors, lowest first (R83). -/
def L2Set.freeSectors (st : L2Set) : List Nat := (List.range 128).filter fun k => !st.used.contains k

/-- Held sectors of a context in a set (R92). -/
def L2Set.held (st : L2Set) (c : Nat) : Nat :=
  (st.tags.toList.map fun t => if t.ctx.toNat = c then
    (t.lines.toList.map fun l => if l.lv then l.cnt.toNat else 0).sum else 0).sum

/-- An access makes its tag rank 0, and every tag of lower rank one older (R83). -/
def L2Set.touch (st : L2Set) (w : Nat) : L2Set :=
  let a := (st.tag w).age
  { st with tags := Vector.ofFn fun (i : Fin 32) =>
      let t := st.tag i.val
      if i.val = w then { t with age := 0 } else if t.age < a then { t with age := t.age + 1 } else t }

/-- A line field replaced; a tag whose last line goes is free, its PIN cleared (R83, R96), its PTAG and CTX too (DESIGN CHOICE, log entry
92). -/
def L2Set.putLine (st : L2Set) (w i : Nat) (l : L2Line) : L2Set :=
  let t := { st.tag w with lines := vset (st.tag w).lines i l }
  { st with tags := vset st.tags w (if t.free then { t with pin := false, ctx := 0, ptag := 0 } else t) }

/-- The tier's copy of a line. -/
def State.tierLine (s : State) (a : Nat) : BitVec 512 := bitsOfBytes 512 (s.mem.read a 64)

/-- The weir of the controller that serves a line of a tier (R81, R287). -/
def tierWeir (a : Nat) : Nat × Nat :=
  if a < 2 ^ 39 then (4, Config.controller (a / 64) % 8) else (5, Config.controller (a / 64) % 2)

/-- An access to a line of a tier waits at its controller's weir (R287). -/
def State.askTier (s : State) (ctx a : Nat) : State := s.ask (tierWeir a).1 (tierWeir a).2 ctx 1

/-- The line of a tier whose bytes an L1 line holds. -/
def State.l1Phys (s : State) (x : L1Line) : Option Nat :=
  (alGet s.pages ((x.oid.toNat * 2 ^ 11 + x.line / 2 ^ 34) * 2 ^ 24 + x.line % 2 ^ 34 / 1024)).map fun f => f.toNat * 65536 + x.line % 1024 * 64

/-- The L1 lines of every core that hold bytes of such lines leave (R91, R131). -/
def State.l1Drop (s : State) (p : Nat → Bool) : State := { s with l1 := s.l1.filter fun x => !(s.l1Phys x).any p }

/-- Lines of a tier marked poisoned (R74); no L1 goes on serving them. -/
def State.poison (s : State) (as : List Nat) : State :=
  { (s.l1Drop fun a => as.contains a) with bad := s.bad.filter (fun a => !as.contains a) ++ as }

/-- A line of a tier written; a whole line covered heals it (R74). -/
def State.putTier (s : State) (a : Nat) (d : BitVec 512) : State :=
  { s with mem := s.mem.write a (leBytes 64 d.toNat), bad := s.bad.filter (· != a) }

/-- The physical line address of line i of a tag. -/
def tagLineAddr (t : L2Tag) (i : Nat) : Nat := t.ptag.toNat * 256 + 64 * i

/-- A RAW line writes back its dirty granules only, any other line all 64 bytes (R91). -/
def State.writeBack (s : State) (a : Nat) (l : L2Line) (d : BitVec 512) : State :=
  if l.dirty = 0 then s
  else if l.mode = 7 then
    let old := s.tierLine a
    let m := (List.range 4).foldl (fun acc k =>
      if l.dirty.getLsbD k then acc ||| (BitVec.ofNat 512 ((2 ^ 128 - 1) * 2 ^ (128 * k))) else acc) (0 : BitVec 512)
    if l.dirty = 15 then s.putTier a d
    else { s with mem := s.mem.write a (leBytes 64 ((old &&& ~~~m) ||| (d &&& m)).toNat) }
  else s.putTier a d

/-- A line leaves a set, written back when dirty (R91), its owner charged at the controller (DESIGN CHOICE, log entry 90). A dirty line that
ECC cannot correct poisons its line of the tier instead (R97). -/
def State.evictLine (s : State) (k w i : Nat) : State :=
  let st := s.l2set k
  let l := st.line w i
  let a := tagLineAddr (st.tag w) i
  if l.lv then
    let s1 := if l.dirty = 0 then s
      else if s.l2bad.contains a then s.poison [a]
      else (s.writeBack a l (st.data l)).askTier (st.tag w).ctx.toNat a
    { s1 with l2 := alSet s.l2 k (st.putLine w i L2Line.empty), l2bad := s.l2bad.filter (· != a) }
  else s

/-- A line leaves a set for another's request: its owner counts a victim (R98). -/
def State.victim (s : State) (ctx k w i : Nat) : State :=
  let st := s.l2set k
  let o := (st.tag w).ctx.toNat
  let s' := s.evictLine k w i
  if (st.line w i).lv && o != ctx then s'.count o 0x010A 1 else s'

/-- Every line of a superblock leaves, for a request of ctx (R92). -/
def State.evictTag (s : State) (ctx k w : Nat) : State :=
  (List.range 4).foldl (fun s i => s.victim ctx k w i) s

/-- The way mask of a context (R92). -/
def State.ways (s : State) (c : Nat) : BitVec 32 := BitVec.ofNat 32 (s.ctxField c 672 32)

/-- The sector quota of a context: its own SECTQ (R92, R313). -/
def State.sectQuota (s : State) (c : Nat) : Nat := s.own c 608 7

/-- The first of two ways to leave: unpinned before pinned, then the oldest (R92, R93). -/
def L2Set.before (st : L2Set) (a b : Nat) : Bool :=
  let x := st.tag a
  let y := st.tag b
  if x.pin == y.pin then y.age < x.age else !x.pin

/-- The way that leaves first among candidates. -/
def L2Set.oldest (st : L2Set) : List Nat → Option Nat
  | [] => none
  | w :: ws => match st.oldest ws with
    | none => some w
    | some v => if st.before v w then some v else some w

/-- The way that a context's request takes (R92). A superblock with a pending line is not taken (R88; DESIGN CHOICE, log entry 66). -/
def State.pickWay (s : State) (ctx k : Nat) : Option Nat :=
  let st := s.l2set k
  let m := s.ways ctx
  let all := List.range 32
  match all.find? fun w => (st.tag w).free && m.getLsbD w with
  | some w => some w
  | none => match all.find? fun w => (st.tag w).free with
    | some w => some w
    | none =>
      let idle := all.filter fun w => m.getLsbD w && (st.tag w).pend == 0
      match st.oldest (idle.filter fun w => !(s.ways (st.tag w).ctx.toNat).getLsbD w) with
      | some w => some w
      | none => st.oldest idle

/-- The lines that may leave, in the order of R93: ways by `before`, then lines ascending; L itself never. -/
def L2Set.victims (st : L2Set) (lw li : Nat) (ok : Nat → Bool) : List (Nat × Nat) :=
  let ws := (List.range 32).filter fun w => ok (st.tag w).ctx.toNat && !(st.tag w).free
  let sorted := ws.mergeSort fun a b => !(st.before b a)
  sorted.flatMap fun w => ((List.range 4).filter fun i => (st.line w i).lv && !(w == lw && i == li)).map fun i => (w, i)

/-- Evictions until n sectors fit beside the present `own` sectors of the line (R93); the count of lines evicted. -/
def State.makeRoom (ctx k w i n own : Nat) : Nat → State → Nat → Option (State × Nat)
  | 0, _, _ => none
  | fuel + 1, s, ev =>
    let st := s.l2set k
    if n ≤ st.freeSectors.length + own then some (s, ev)
    else
      let mine := if (st.tag w).ctx.toNat = ctx then own else 0
      let overQ := fun c => s.sectQuota c < (if c = ctx then st.held c + n - mine else st.held c)
      match (st.victims w i overQ ++ st.victims w i fun _ => true).head? with
      | some (vw, vi) => State.makeRoom ctx k w i n own fuel (s.victim ctx k vw vi) (ev + 1)
      | none => none

/-- A tag that is being served keeps its superblock, owner and PIN through the evictions made for it; line i of it is pending no longer. -/
def L2Set.holdTag (st : L2Set) (w i : Nat) (t : L2Tag) : L2Set :=
  let u := { st.tag w with pin := t.pin, ctx := t.ctx, ptag := t.ptag, pend := t.pend &&& ~~~(BitVec.ofNat 4 (2 ^ i)) }
  { st with tags := vset st.tags w u }

/-- A line's contents stored encoded in way w (R85, R86), in the free sectors of lowest number (DESIGN CHOICE, log entry 92). -/
def L2Set.store (st : L2Set) (w i : Nat) (d : BitVec 512) (dirty : BitVec 4) : L2Set :=
  let mode := coursingMode d
  let n := coursingSectors mode (nzWords d).length
  let st0 := { st with tags := vset st.tags w { st.tag w with lines := vset (st.tag w).lines i L2Line.empty } }
  let ps := st0.freeSectors.take n
  let p := coursingPack mode d
  let pool := (ps.zipIdx).foldl (fun pl q => vset pl q.1 (p.extractLsb' (128 * q.2) 128)) st.pool
  let l : L2Line := { lv := true, dirty := dirty, mode := BitVec.ofNat 4 mode, cnt := BitVec.ofNat 3 n,
                      ptr := Vector.ofFn fun j => BitVec.ofNat 7 (ps[j.val]?.getD 0) }
  { tags := vset st0.tags w { st0.tag w with lines := vset (st0.tag w).lines i l }, pool := pool }

/-- A tag for a superblock: the one it has, or one taken under R92. -/
def State.ensureTag (s : State) (ctx : Nat) (pa : BitVec 48) : Option (State × Nat) :=
  let k := setKey pa
  match (s.l2set k).find (ptagOf pa) with
  | some w => some (s, w)
  | none => match s.pickWay ctx k with
    | none => none
    | some w =>
      let s := s.evictTag ctx k w
      let st := s.l2set k
      let t := { L2Tag.reset (st.tag w).age with ctx := BitVec.ofNat 12 ctx, ptag := ptagOf pa }
      some ({ s with l2 := alSet s.l2 k { st with tags := vset st.tags w t } }, w)

/-- A line placed in the L2 with its new contents (R89, R90): the state, the evictions of R93, and its sectors; none is a bypass,
which changes nothing (R95). -/
def State.place (s : State) (ctx : Nat) (pa : BitVec 48) (d : BitVec 512) (dirty : L2Line → BitVec 4) : Option (State × Nat) :=
  match s.ensureTag ctx pa with
  | none => none
  | some (s1, w) =>
    let k := setKey pa
    let i := lineIdx pa
    let l := (s1.l2set k).line w i
    let n := coursingSectors (coursingMode d) (nzWords d).length
    match State.makeRoom ctx k w i n (if l.lv then l.cnt.toNat else 0) 129 s1 0 with
    | none => none
    | some (s2, ev) =>
      let st := (((s2.l2set k).holdTag w i ((s1.l2set k).tag w)).store w i d (dirty l)).touch w
      some ({ s2 with l2 := alSet s2.l2 k st }, ev)

/-- The valid line of a physical address, with its way. -/
def State.l2line (s : State) (pa : BitVec 48) : Option (Nat × L2Line) :=
  let st := s.l2set (setKey pa)
  match st.find (ptagOf pa) with
  | some w => if (st.line w (lineIdx pa)).lv then some (w, st.line w (lineIdx pa)) else none
  | none => none

/-- The 64 bytes that a line holds now, from the L2 or from its tier. -/
def State.lineNow (s : State) (pa : BitVec 48) : BitVec 512 :=
  match s.l2line pa with
  | some (_, l) => (s.l2set (setKey pa)).data l
  | none => s.tierLine (lineAddr pa)

/-- Whether a request that needs a line meets one that its tier holds poisoned (R74), or one that the L2 cannot correct (R97). -/
def State.lineBad (s : State) (pa : BitVec 48) : Bool :=
  match s.l2line pa with
  | some _ => s.l2bad.contains (lineAddr pa)
  | none => s.bad.contains (lineAddr pa)

/-- A line invalidated without a write-back. -/
def State.dropLine (s : State) (pa : BitVec 48) : State :=
  match s.l2line pa with
  | some (w, _) =>
    { s with l2 := alSet s.l2 (setKey pa) ((s.l2set (setKey pa)).putLine w (lineIdx pa) L2Line.empty),
             l2bad := s.l2bad.filter (· != lineAddr pa) }
  | none => s

/-- A line that the L2 cannot correct is invalidated; its line of the tier is marked poisoned if it was dirty (R97). -/
def State.dropBad (s : State) (pa : BitVec 48) : State :=
  match s.l2line pa with
  | some (_, l) => if l.dirty = 0 then s.dropLine pa else (s.dropLine pa).poison [lineAddr pa]
  | none => s

/-- A request meets an error that the L2 cannot correct: every line of the superblock that the error concerns goes (R97). -/
def State.l2lose (s : State) (pa : BitVec 48) : State :=
  (s.l2bad.filter fun a => a / 256 == pa.toNat / 256).foldl (fun s a => s.dropBad (BitVec.ofNat 48 a)) s

/-- A miss reserves its superblock's tag, marks the line pending for its context and begins to read the tier (R88); none when no way is found
(R95). -/
def State.l2reserve (s : State) (ctx : Nat) (pa : BitVec 48) : Option State :=
  (s.ensureTag ctx pa).map fun p =>
    let st := p.1.l2set (setKey pa)
    let t := { st.tag p.2 with pend := (st.tag p.2).pend ||| BitVec.ofNat 4 (2 ^ lineIdx pa),
                               who := vset (st.tag p.2).who (lineIdx pa) (BitVec.ofNat 12 ctx) }
    { p.1 with l2 := alSet p.1.l2 (setKey pa) ({ st with tags := vset st.tags p.2 t }.touch p.2) }.askTier ctx (lineAddr pa)

/-- The way in which a line is pending (R88). -/
def State.l2pending (s : State) (pa : BitVec 48) : Option Nat :=
  let st := s.l2set (setKey pa)
  (st.find (ptagOf pa)).filter fun w => (st.tag w).pend.getLsbD (lineIdx pa)

/-- A line is pending no longer, a tag without lines being free (R83, R88). -/
def State.unpend (s : State) (pa : BitVec 48) : State :=
  match s.l2pending pa with
  | none => s
  | some w =>
    let st := s.l2set (setKey pa)
    let t := st.tag w
    let t := { t with pend := t.pend &&& ~~~(BitVec.ofNat 4 (2 ^ lineIdx pa)) }
    let u := if t.free then { t with pin := false, ctx := 0, ptag := 0 } else t
    { s with l2 := alSet s.l2 (setKey pa) { st with tags := vset st.tags w u } }

/-- The install of a pending line for the context whose request reserved it, whoever owns the superblock (R88, R89, R93): the line read from its
tier takes its sectors; one that is poisoned or finds no room is not installed (R74, R95), and the request that needs it meets the error or
bypasses. -/
def State.l2install (s : State) (pa : BitVec 48) : State :=
  match s.l2pending pa with
  | none => s
  | some w =>
    let o := (vget ((s.l2set (setKey pa)).tag w).who (lineIdx pa) 0).toNat
    if s.bad.contains (lineAddr pa) then s.unpend pa
    else match s.place o pa (s.tierLine (lineAddr pa)) fun _ => 0 with
      | some (s', _) => s'
      | none => s.unpend pa

/-- A superblock's tag, if it has one, becomes the most recent of its set (R83). -/
def State.l2touch (s : State) (pa : BitVec 48) : State :=
  let k := setKey pa
  match (s.l2set k).find (ptagOf pa) with
  | some w => { s with l2 := alSet s.l2 k ((s.l2set k).touch w) }
  | none => s

/-- A fill (R89): the line's bytes; `counted` is false for a prefetch, whose fills count nothing (R119). A fill of a pending line follows its
install (R88). A no-allocate fill of a missing line leaves it missing and is an access to its superblock all the same (R83, R89); one that
bypasses changes no tag (R95). A line that is poisoned or cannot be corrected is neither delivered nor installed (R74, R97). DESIGN CHOICE, log entry 66. -/
def State.l2fill (s : State) (ctx : Nat) (pa : BitVec 48) (noalloc counted : Bool) : State × BitVec 512 :=
  let s := s.l2install pa
  let d := s.lineNow pa
  let k := setKey pa
  let cnt := fun (s : State) (n : Nat) =>
    (if counted then (s.count ctx 0x010B 64).count ctx 0x010C n else s).ask 3 (indexHash pa).1 ctx 1
  if s.lineBad pa then (s.l2lose pa, d)
  else match s.l2line pa with
  | some (w, l) => (cnt { s with l2 := alSet s.l2 k ((s.l2set k).touch w) } l.cnt.toNat, d)
  | none =>
    let s := s.askTier ctx (lineAddr pa)
    if noalloc then (cnt (s.l2touch pa) 0, d)
    else match s.place ctx pa d fun _ => 0 with
      | some (s', _) => (cnt s' (coursingSectors (coursingMode d) (nzWords d).length), d)
      | none => ((cnt s 0).count ctx 0x010D 1, d)

/-- DIRTY after a line write (R90). DEDUCED, log entry 83. -/
def dirtyAfter (d mask : BitVec 512) (l : L2Line) : BitVec 4 :=
  if coursingMode d = 7 then
    if l.lv && l.mode = 7 then
      (List.range 4).foldl (fun acc k =>
        if mask.extractLsb' (128 * k) 128 = 0 then acc else acc ||| BitVec.ofNat 4 (2 ^ k)) l.dirty
    else 15
  else 1

/-- Bytes of a line whose every written byte is zero after the merge (R98, `L2_WB_ZERO`). -/
def writtenZero (d mask : BitVec 512) : Bool :=
  (List.range 64).all fun b => mask.extractLsb' (8 * b) 8 == 0 || d.extractLsb' (8 * b) 8 == 0

/-- Bits of `new` under the mask, bits of `old` elsewhere. -/
def mergeBits {w : Nat} (old new mask : BitVec w) : BitVec w := (old &&& ~~~mask) ||| (new &&& mask)

/-- Whether a line write reaches the tier at once (R90, R95): a no-allocate write of a missing line, one that bypasses a missing line, or one
that bypasses a line whose sectors its new contents exceed. -/
def State.reachesTier (s : State) (ctx : Nat) (pa : BitVec 48) (data mask : BitVec 512) (noalloc : Bool) : Bool :=
  let s := s.l2install pa
  let d := mergeBits (s.lineNow pa) data mask
  let room := (s.place ctx pa d fun _ => 0).isSome
  match s.l2line pa with
  | none => noalloc || !room
  | some (_, l) => !room && decide (l.cnt.toNat < coursingSectors (coursingMode d) (nzWords d).length)

/-- A line write (R90, R95, R99): the bits under the mask are merged, the whole line encoded again, and the counters of R98
kept. A line write that bypasses goes to the tier. -/
def State.l2write (s : State) (ctx : Nat) (pa : BitVec 48) (data mask : BitVec 512) (noalloc : Bool) : State :=
  let s := s.l2install pa
  let k := setKey pa
  let a := lineAddr pa
  let old := s.lineNow pa
  let d := mergeBits old data mask
  let n := coursingSectors (coursingMode d) (nzWords d).length
  let n0 := coursingSectors (coursingMode old) (nzWords old).length
  let s := (s.count ctx (0x0102 + n) 1).count ctx 0x0107 (if writtenZero d mask then 1 else 0)
  let s := (s.count ctx 0x0108 (if n0 < n then 1 else 0)).ask 3 (indexHash pa).1 ctx 1
  let hit := s.l2line pa
  let s := if hit.isNone && mask != BitVec.allOnes 512 then s.askTier ctx a else s
  let toTier := fun (s : State) => (if mask = BitVec.allOnes 512 then s.putTier a d
    else { s with mem := s.mem.write a (leBytes 64 d.toNat) }).askTier ctx a
  if noalloc && hit.isNone then toTier (s.l2touch pa)
  else match s.place ctx pa d (dirtyAfter d mask) with
    | some (s', ev) =>
      let s' := if mask = BitVec.allOnes 512 then
        { s' with bad := s'.bad.filter (· != a), l2bad := s'.l2bad.filter (· != a) } else s'
      s'.count ctx 0x0109 (if n0 < n then ev else 0)
    | none =>
      let s := s.count ctx 0x010D 1
      match hit with
      | none => toTier s
      | some (w, l) =>
        let st := s.l2set k
        if n ≤ l.cnt.toNat then { s with l2 := alSet s.l2 k ((st.store w (lineIdx pa) d (dirtyAfter d mask l)).touch w) }
        else { toTier s with l2 := alSet s.l2 k (st.putLine w (lineIdx pa) L2Line.empty), l2bad := s.l2bad.filter (· != a) }

/-- A pin (R96): the superblock's lines are filled and its PIN bit set. -/
def State.l2pin (s : State) (ctx : Nat) (pa : BitVec 48) : State :=
  let base := BitVec.ofNat 48 (pa.toNat / 256 * 256)
  let s := (List.range 4).foldl (fun s i => (s.l2fill ctx (base + BitVec.ofNat 48 (64 * i)) false false).1) s
  let k := setKey base
  let st := s.l2set k
  match st.find (ptagOf base) with
  | some w => { s with l2 := alSet s.l2 k { st with tags := vset st.tags w { st.tag w with pin := true } } }
  | none => s

/-- A line written back when dirty, and invalidated. -/
def State.flushLine (s : State) (pa : BitVec 48) : State :=
  match s.l2line pa with
  | some (w, _) => s.evictLine (setKey pa) w (lineIdx pa)
  | none => s

/-- The 1,024 lines of a frame are invalidated, a pending one once it is installed (R88), after a write-back for a move (R91), and leave the
L1 of every core (R131). -/
def State.l2invalidate (s : State) (frame : Nat) (wb : Bool) : State :=
  let held := s.l2.flatMap fun p => p.2.tags.toList.flatMap fun t =>
    if t.ptag.toNat / 256 = frame then (List.range 4).map fun i => BitVec.ofNat 48 (tagLineAddr t i) else []
  (held.foldl (fun s pa => if wb then (s.l2install pa).flushLine pa else (s.l2install pa).dropLine pa) s).l1Drop fun a => a / 65536 == frame

/-- The tag as the diagnostic dump reports it (R83). -/
def L2Tag.bits (t : L2Tag) : BitVec 224 :=
  BitVec.ofNat 224 (packFields
    ((t.lines.toList.flatMap fun l =>
      [(1, l.lv.toNat), (4, l.dirty.toNat), (4, l.mode.toNat), (3, l.cnt.toNat)] ++ l.ptr.toList.map fun p => (7, p.toNat))
    ++ [(4, 0), (40, t.ptag.toNat), (12, t.ctx.toNat), (5, t.age.toNat), (1, t.pin.toNat), (2, 0)]))

/-- Gauge of the superblock tags a context owns (R98). -/
def State.tagsOwned (s : State) (c : Nat) : Nat :=
  (s.l2.map fun p => countIf (fun t => !t.free && t.ctx.toNat == c) p.2.tags.toList).sum

/-- Gauge of the sectors a context holds (R98). -/
def State.sectorsHeld (s : State) (c : Nat) : Nat := (s.l2.map fun p => p.2.held c).sum

end Sys2Proof.Machine
end

