-- ==== Sys2Proof/Machine/Objects.lean ====
section
/-!
DEFINITION. Trap information (R57, R294, R300, R352), handles and objects: the entry checks (R55), well-formedness (R49), layouts
(R50 to R53), residency, frames (R301), dirty logs and rings (R303, R324), and the bytes of objects through L1, L2 and tiers.
-/

namespace Sys2Proof.Machine

/-- Who raises a trap: the engine code and op value of the word (R352), and its handle operand. -/
structure Who where
  eng : Nat
  op : Nat
  deriving DecidableEq, Repr

/-- The engine code and op value of a word (R15, R34, R352). -/
def whoOf (i : Instr) : Who :=
  match encode i with
  | some w => { eng := (w.extractLsb' 28 3).toNat, op := (w.extractLsb' 21 7).toNat }
  | none => { eng := 0, op := 0 }

/-- Trap information with SOURCE, ACCESS and SUBCODE (R57, R352). -/
def mkTrap (cause : Cause) (w : Who) (sub : Nat) (x1 x2 x3 : Nat) : TrapInfo :=
  { cause := cause, x0 := BitVec.ofNat 64 (w.eng * 2 ^ 16 + w.op * 2 ^ 8 + sub), x1 := BitVec.ofNat 64 x1,
    x2 := BitVec.ofNat 64 x2, x3 := BitVec.ofNat 64 x3 }

/-- BOUNDS with a dimension, first and last index, each in its low 32 bits (R57). -/
def boundsTrap (w : Who) (sub h oid dim first last : Nat) : TrapInfo :=
  mkTrap .bounds w sub (h % 2 ^ 24) (oid + dim * 2 ^ 56) (first % 2 ^ 32 + (last % 2 ^ 32) * 2 ^ 32)

/-- BOUNDS with a subcode alone. DEDUCED, log entry 63. -/
def boundsPlain (w : Who) (sub : Nat) : TrapInfo := mkTrap .bounds w sub 0 0 0

/-- ALIGNMENT (R294). -/
def alignTrap (w : Who) (sub : Nat) (v : Word) (log2 : Nat) : TrapInfo := mkTrap .alignment w sub v.toNat log2 0

/-- POISON, OPERAND (R247): subcode 0x14 with the register and whether it is a condition register. -/
def poisonTrap (w : Who) (cond : Bool) (reg : Nat) : TrapInfo :=
  mkTrap .poison w 0x14 (reg + (if cond then 64 else 0)) 0 0

/-- PRIVILEGE with a subcode (R295, R297, R315). -/
def privTrap (w : Who) (sub x1 : Nat) : TrapInfo := mkTrap .privilege w sub x1 0 0

/-- READ, WRITE, PUBLISH, ATOMIC, GRANT and QUERY, as R46 orders the rights. -/
def rREAD : BitVec 6 := 1
/-- WRITE (R46). -/
def rWRITE : BitVec 6 := 2
/-- PUBLISH (R46). -/
def rPUBLISH : BitVec 6 := 4
/-- ATOMIC (R46). -/
def rATOMIC : BitVec 6 := 8
/-- GRANT (R46). -/
def rGRANT : BitVec 6 := 16
/-- QUERY (R46). -/
def rQUERY : BitVec 6 := 32

/-- The handle unit reports the object of an OBJECT-MALFORMED failure to Mason, however the failure ends (R49); an object stands among the
reports once. -/
def State.reportTrap (s : State) (info : TrapInfo) : State :=
  let r := Report.malformed (info.x2.setWidth 48)
  if info.cause = .handleInvalid ∧ info.x0.extractLsb' 0 8 = 6 ∧ !s.reports.contains r then { s with reports := s.reports ++ [r] } else s

/-- The key of a handle-table entry. -/
def hkey (ctx h : Nat) : Nat := ctx * 2 ^ 24 + h

/-- A FREE entry. -/
def HEntry.free : HEntry :=
  { st := .free, oid := 0, rights := 0, box := Vector.replicate 4 { gs := 0, lo := 0, cnt := 0 }, pctx := 0xFFF, phandle := 0 }

/-- A handle-table entry (R46). DESIGN CHOICE, log entry 87. -/
def State.hentry (s : State) (ctx h : Nat) : HEntry := (alGet s.handles (hkey ctx h)).getD HEntry.free

/-- Entries of a context's handle table (R44, R312). -/
def State.tableSize (s : State) (ctx : Nat) : Nat := s.ctxField ctx 616 24

/-- An object-table entry. -/
def State.obj (s : State) (oid : BitVec 48) : Option Obj := alGet s.objs oid.toNat

/-- The fold of an object ID (R64). -/
def dirFold (oid : BitVec 48) : BitVec 16 := oid.extractLsb' 32 16 ^^^ oid.extractLsb' 16 16 ^^^ oid.extractLsb' 0 16

/-- The directory home of an object-table entry: the member of the domain that the fold selects (R48, R64). Before the manifest there is
only this package. -/
def State.dirHome (s : State) (oid : BitVec 48) : BitVec 12 :=
  (s.boot.members[(dirFold oid).toNat * s.boot.members.length / 2 ^ 16]?).getD s.boot.ep

/-- The 1,024 bits of an object-table entry (R48). -/
def Obj.bits (oid : BitVec 48) (o : Obj) : BitVec 1024 :=
  let r := o.rsv
  let e := fun j => (32, (vget o.ext j 1).toNat)
  BitVec.ofNat 1024 (packFields
    ([(48, oid.toNat), (3, o.rank.toNat), (1, o.coherent.toNat), (1, o.sealed.toNat), (1, o.hostsh.toNat), (4, o.fmt.toNat),
      (2, o.mxk.toNat), (2, o.layout.toNat), (2, (r.extractLsb' 0 2).toNat), e 0, e 1, e 2, e 3, (32, o.shsize.toNat),
      (11, o.shcnt.toNat), (2, o.split.toNat), (12, o.home.toNat), (2, o.res.toNat), (1, o.moving.toNat),
      (4, (r.extractLsb' 2 4).toNat), (32, o.version.toNat), (13, o.keyslot.toNat), (19, (r.extractLsb' 6 19).toNat),
      (48, o.hmap.toNat), (12, o.ownerEp.toNat), (4, (r.extractLsb' 25 4).toNat), (12, o.ownerCtx.toNat), (4, o.repl.length),
      (32, o.xmap.toNat), (16, (r.extractLsb' 29 16).toNat)]
     ++ (List.range 8).map (fun n => (12, ((o.repl[n]?).getD 0).toNat)) ++ [(480, (r.extractLsb' 45 480).toNat)]))

/-- An object-table entry replaced. -/
def State.setObj (s : State) (oid : BitVec 48) (o : Obj) : State := { s with objs := alSet s.objs oid.toNat o }

/-- EXTj. -/
def Obj.extent (o : Obj) (j : Nat) : Nat := (vget o.ext j 1).toNat

/-- Element width in bits (R50); 0 for the reserved code. -/
def Obj.width (o : Obj) : Nat := match fmtOfCode o.fmt.toNat with | some f => fmtWidth f | none => 0

/-- Tile edge of a layout (R50). -/
def tileEdge (layout : Nat) : Nat := if layout = 1 then 32 else 128

/-- Extents of a shard (R52). -/
def Obj.shardExt (o : Obj) (sh j : Nat) : Nat :=
  if o.shcnt = 0 ∨ j ≠ o.split.toNat then o.extent j
  else if sh = o.shcnt.toNat then o.extent j - o.shcnt.toNat * o.shsize.toNat else o.shsize.toNat

/-- E0 rounded up to whole blocks (R50). -/
def e0p (e0 : Nat) : Nat := 32 * cdiv e0 32

/-- Size in bytes of the element plane of an MXBLK object, rounded up to whole pages (R50). -/
def mxSB (e e0 e1 e2 e3 : Nat) : Nat := cdiv (cdiv (e0p e0 * e1 * e2 * e3 * e) 8) 65536 * 65536

/-- Storage of a shard in bytes (R51). -/
def Obj.shardBytes (o : Obj) (sh : Nat) : Nat :=
  let e := o.width
  let x := fun j => o.shardExt sh j
  match o.layout.toNat with
  | 0 => cdiv (x 0 * x 1 * x 2 * x 3 * e) 8
  | 3 => mxSB e (x 0) (x 1) (x 2) (x 3) + e0p (x 0) / 32 * (x 1 * x 2 * x 3)
  | l => let t := tileEdge l
    cdiv (x 0) t * cdiv (x 1) t * x 2 * x 3 * (t * t) * e / 8

/-- Storage of an object over its shards (R51, R59). -/
def Obj.bytes (o : Obj) : Nat := ((List.range (o.shcnt.toNat + 1)).map fun sh => o.shardBytes sh).sum

/-- A well-formed object-table entry (R49). DEDUCED, log entry 45. -/
def Obj.wf (o : Obj) : Bool :=
  let sp := o.split.toNat
  1 ≤ o.rank.toNat && o.rank.toNat ≤ 4
    && (List.range 4).all (fun j => if j < o.rank.toNat then 1 ≤ o.extent j else o.extent j == 1)
    && o.fmt != 15 && o.mxk.toNat ≤ 1 && ((o.mxk == 1) == (o.layout == 3))
    && (o.mxk != 1 || (3 ≤ o.fmt.toNat && o.fmt.toNat ≤ 7))
    && (!o.coherent || (o.layout == 0 && o.mxk == 0 && 8 ≤ o.width && o.shcnt == 0 && !o.sealed))
    && sp < o.rank.toNat
    && o.shsize.toNat * o.shcnt.toNat < o.extent sp && o.extent sp ≤ o.shsize.toNat * (o.shcnt.toNat + 1)
    && (sp > 1 || !(o.layout == 1 || o.layout == 2) || o.shsize.toNat % tileEdge o.layout.toNat == 0)
    && (sp != 0 || o.layout != 3 || o.shsize.toNat % 32 == 0)
    && (List.range (o.shcnt.toNat + 1)).all (fun sh => o.shardBytes sh ≤ 2 ^ 40)
    && o.rsv == 0 && o.repl.length ≤ 8

/-- Where an index tuple lies: its shard, and the tuple within the shard (R52). -/
def Obj.locate (o : Obj) (i : Nat → Nat) : Nat × (Nat → Nat) :=
  if o.shcnt = 0 then (0, i)
  else
    let sp := o.split.toNat
    let sh := i sp / o.shsize.toNat
    (sh, fun j => if j = sp then i j - sh * o.shsize.toNat else i j)

/-- Bit offset of an element within its shard (R50). -/
def Obj.bitOff (o : Obj) (sh : Nat) (i : Nat → Nat) : Nat :=
  let e := o.width
  let x := fun j => o.shardExt sh j
  match o.layout.toNat with
  | 0 => (i 0 + x 0 * (i 1 + x 1 * (i 2 + x 2 * i 3))) * e
  | 3 => (i 0 + e0p (x 0) * (i 1 + x 1 * (i 2 + x 2 * i 3))) * e
  | l => let t := tileEdge l
    let tile := i 0 / t + cdiv (x 0) t * (i 1 / t + cdiv (x 1) t * (i 2 + x 2 * i 3))
    (tile * (t * t) + (i 0 % t + t * (i 1 % t))) * e

/-- Byte offset of the scale of the block that holds an element (R50). -/
def Obj.scaleOff (o : Obj) (sh : Nat) (i : Nat → Nat) : Nat :=
  let x := fun j => o.shardExt sh j
  mxSB o.width (x 0) (x 1) (x 2) (x 3) + i 0 / 32 + e0p (x 0) / 32 * (i 1 + x 1 * (i 2 + x 2 * i 3))

/-- The tuple of one scalar index (R53). -/
def Obj.tuple (o : Obj) (x : Nat) : Nat → Nat := fun j =>
  let e := fun j => o.extent j
  match j with
  | 0 => x % e 0
  | 1 => x / e 0 % e 1
  | 2 => x / (e 0 * e 1) % e 2
  | _ => x / (e 0 * e 1 * e 2)

/-- First index of the bounds box of dimension j (R47). -/
def HEntry.lo (e : HEntry) (j : Nat) : Nat :=
  let b := vget e.box j { gs := 0, lo := 0, cnt := 0 }
  b.lo.toNat * 2 ^ b.gs.toNat

/-- Last index of the bounds box of dimension j (R47). -/
def HEntry.hi (e : HEntry) (j : Nat) : Nat :=
  let b := vget e.box j { gs := 0, lo := 0, cnt := 0 }
  (b.lo.toNat + b.cnt.toNat + 1) * 2 ^ b.gs.toNat - 1

/-- Last index of the effective box (R47). -/
def HEntry.hiEff (e : HEntry) (o : Obj) (j : Nat) : Nat := min (e.hi j) (o.extent j - 1)

/-- A LIVE entry with the full box and all six rights (R47). -/
def HEntry.full (oid : BitVec 48) : HEntry :=
  { st := .live, oid := oid, rights := 0x3F, box := Vector.replicate 4 { gs := 16, lo := 0, cnt := 0xFFFF }, pctx := 0xFFF,
    phandle := 0 }

/-- The class and seal masks (R54). -/
def Obj.rightsMask (o : Obj) : BitVec 6 :=
  if o.coherent then ~~~rPUBLISH else if o.sealed then rREAD ||| rGRANT ||| rQUERY else ~~~rATOMIC

/-- What a check of R55 ends in: the entry and object, a wait for a move to thaw (R56), or a trap. -/
inductive Chk (α : Type) where
  | ok (x : α)
  | stall
  | trap (i : TrapInfo)

/-- An access that passed its checks, with the shard that a failure below them concerns. -/
structure Acc where
  h : Nat
  oid : BitVec 48
  e : HEntry
  o : Obj
  sh : Nat := 0

/-- Sequencing of checks. -/
def Chk.bind {α β : Type} (c : Chk α) (f : α → Chk β) : Chk β :=
  match c with
  | .ok x => f x
  | .stall => .stall
  | .trap i => .trap i

/-- The checks of R55 from NOT-HANDLE through HANDLE-REVOKED. A FREE entry names no object in the report (DESIGN CHOICE, log entry 93). -/
def State.entryChecked (s : State) (ctx : Nat) (h : Word) (w : Who) : Chk (Nat × HEntry) :=
  let n := h.toNat % 2 ^ 24
  let e := s.hentry ctx n
  if 2 ^ 24 ≤ h.toNat then .trap (mkTrap .handleInvalid w 1 n 0 0)
  else if n = 0 then .trap (mkTrap .handleInvalid w 2 0 0 0)
  else if s.tableSize ctx ≤ n then .trap (mkTrap .handleInvalid w 3 n 0 0)
  else match e.st with
    | .free => .trap (mkTrap .handleInvalid w 4 n 0 0)
    | .revoked => .trap (mkTrap .handleRevoked w 1 n e.oid.toNat 0)
    | .live => .ok (n, e)

/-- The object of an entry, GONE and MALFORMED checked; `mv` says whether the access stalls while it moves (R55, R56). -/
def State.objChecked (s : State) (n : Nat) (e : HEntry) (w : Who) (mv : Bool) : Chk Acc :=
  match s.obj e.oid with
  | none => .trap (mkTrap .handleInvalid w 5 n e.oid.toNat 0)
  | some o =>
    if mv && o.moving then .stall
    else if !o.wf then .trap (mkTrap .handleInvalid w 6 n e.oid.toNat 0)
    else .ok { h := n, oid := e.oid, e := e, o := o }

/-- The rights, seal and class checks of R55 for rights in place of the entry's. -/
def rightsChecked (a : Acc) (rights need : BitVec 6) (w : Who) : Chk Acc :=
  let x2 := a.oid.toNat + need.toNat * 2 ^ 48
  if rights &&& need ≠ need then .trap (mkTrap .rights w 1 a.h x2 0)
  else if a.o.sealed && need &&& (rWRITE ||| rPUBLISH ||| rATOMIC) != 0 then .trap (mkTrap .rights w 2 a.h x2 0)
  else if need &&& (if a.o.coherent then ~~~rPUBLISH else ~~~rATOMIC) ≠ need then .trap (mkTrap .rights w 3 a.h x2 0)
  else .ok a

/-- R55 from the first check through the class check: a zero-count access. -/
def State.classChecked (s : State) (ctx : Nat) (h : Word) (need : BitVec 6) (w : Who) (mv : Bool) : Chk Acc :=
  (s.entryChecked ctx h w).bind fun p => (s.objChecked p.1 p.2 w mv).bind fun a => rightsChecked a a.e.rights need w

/-- The bounds checks of R55 from dimension j on, for first indices and counts. -/
def boundsChecked (a : Acc) (idx cnt : Nat → Nat) (w : Who) : List Nat → Option TrapInfo
  | [] => none
  | j :: js =>
    let last := idx j + cnt j - 1
    let t := fun sub => some (boundsTrap w sub a.h a.oid.toNat j (idx j) last)
    if a.o.rank.toNat ≤ j ∧ last ≠ 0 then t 1
    else if a.o.extent j ≤ last then t 2
    else if idx j < a.e.lo j ∨ a.e.hi j < last then t 3
    else boundsChecked a idx cnt w js

/-- MISSING-OBJECT as Mason's failure raises it (R300). -/
def missingTrap (w : Who) (h oid page : Nat) : TrapInfo := mkTrap .missingObject w 1 h oid page

/-- FRAME-POOL-EMPTY; subcode 1 POOL-EMPTY, 2 FRAME-QUOTA (R300). -/
def frameTrap (w : Who) (sub h oid page : Nat) : TrapInfo := mkTrap .framePoolEmpty w sub h oid page

/-- FETCH-ERROR (R73). -/
def fetchErrTrap (w : Who) (sub h oid tier ep : Nat) : TrapInfo := mkTrap .fetchError w sub h oid (tier * 2 ^ 12 + ep)

/-- The key of a page of an object's shard. -/
def pageKey (oid : BitVec 48) (sh page : Nat) : Nat := (oid.toNat * 2 ^ 11 + sh) * 2 ^ 24 + page

/-- The key of a byte of an object held outside this package's tiers (R63). -/
def remKey (oid : BitVec 48) (sh off : Nat) : Nat := (oid.toNat * 2 ^ 11 + sh) * 2 ^ 41 + off

/-- The frame of a page (R51). -/
def State.frameOf (s : State) (oid : BitVec 48) (sh page : Nat) : Option (BitVec 32) := alGet s.pages (pageKey oid sh page)

/-- The physical address of a byte of a framed page (R81). -/
def physAddr (f : BitVec 32) (off : Nat) : BitVec 48 := BitVec.ofNat 48 (f.toNat * 65536 + off % 65536)

/-- A byte of an object homed in this package's tiers, as the L2 and the tier hold it; a page without a frame reads zero (R301). -/
def State.localByte (s : State) (oid : BitVec 48) (sh off : Nat) : Byte :=
  match s.frameOf oid sh (off / 65536) with
  | none => 0
  | some f => (s.lineNow (physAddr f off)).extractLsb' (8 * (off % 64)) 8

/-- A byte of a home map, from this package's tiers or from the peer that holds it (R52, R71). -/
def State.mapByte (s : State) (o : Obj) (k : Nat) : Byte :=
  match s.frameOf o.hmap 0 0 with
  | some _ => s.localByte o.hmap 0 k
  | none => s.remote.get (remKey o.hmap 0 k)

/-- Where a shard lies: 0 and 1 a tier of this package, 2 a peer, 3 absent (R52, R63). -/
def State.placeOf (s : State) (o : Obj) (sh : Nat) : Nat :=
  if o.res = 3 then 3
  else if o.shcnt = 0 then o.res.toNat
  else
    let b := fun k => (s.mapByte o (2 * sh + k)).toNat
    if (b 0 + 256 * b 1) % 4096 = s.boot.ep.toNat then o.res.toNat % 2 else 2

/-- The endpoint that holds a shard: HOME, or the home map's entry (R48, R52). -/
def State.shardEp (s : State) (o : Obj) (sh : Nat) : BitVec 12 :=
  if o.shcnt = 0 then o.home
  else (s.mapByte o (2 * sh + 1) ++ s.mapByte o (2 * sh)).setWidth 12

/-- Switch levels to an endpoint; none to this package (R58). -/
def State.levels (s : State) (ep : BitVec 12) : Nat := if ep = s.boot.ep then 0 else Config.switchLevels ep.toNat

/-- The first of two places to serve a read: fewer switch levels, then the home, then the lower endpoint (R58). -/
def State.nearer (s : State) (home a b : BitVec 12) : Bool :=
  decide (s.levels a < s.levels b) || (decide (s.levels a = s.levels b) && (a == home || (b != home && decide (a < b))))

/-- The endpoint that serves a read of a shard: its home, or of a sealed object the nearest of its home and the replicas (R58). -/
def State.nearest (s : State) (o : Obj) (sh : Nat) : BitVec 12 :=
  let home := s.shardEp o sh
  if o.sealed then o.repl.foldl (fun b r => if s.nearer home r b then r else b) home else home

/-- A read of a shard is served by a replica (R58). -/
def State.replicaServes (s : State) (o : Obj) (sh : Nat) : Bool := s.nearest o sh != s.shardEp o sh

/-- The replica that serves a read of a shard lies in this package's own tiers (R58). -/
def State.hereReplica (s : State) (o : Obj) (sh : Nat) : Bool := s.replicaServes o sh && s.nearest o sh == s.boot.ep

/-- The place that serves a read of a shard: that of its home, or the bulk tier, where a replica of this package lies (R58; DESIGN CHOICE, log entry
122). -/
def State.readPlace (s : State) (o : Obj) (sh : Nat) : Nat := if s.hereReplica o sh then 1 else s.placeOf o sh

/-- An access to a shard stalls because its object moves: a read that a replica serves does not (R56, R67). -/
def State.shardStalls (s : State) (o : Obj) (sh : Nat) (need : BitVec 6) : Bool :=
  o.moving && !(need == rREAD && s.replicaServes o sh)

/-- A replica serves reads of some shard of an object, so that an access is not held before it is known which shards it reads (R58, R67). -/
def State.byReplica (s : State) (oid : BitVec 48) (need : BitVec 6) : Bool :=
  match s.obj oid with
  | some o => need == rREAD && (List.range (o.shcnt.toNat + 1)).any fun sh => s.replicaServes o sh
  | none => false

/-- R55 through the class check for an access to elements: it stalls while the object moves, but for a read that a replica serves
(R56, R67). -/
def State.dataChecked (s : State) (ctx : Nat) (h : Word) (need : BitVec 6) (w : Who) : Chk Acc :=
  s.classChecked ctx h need w (!s.byReplica (s.hentry ctx (h.toNat % 2 ^ 24)).oid need)

/-- The home map's line that holds the entry of a shard cannot be corrected, in the L2 or its tier (R52, R74, R97). -/
def State.mapBad (s : State) (o : Obj) (sh : Nat) : Bool :=
  o.shcnt != 0 && match s.frameOf o.hmap 0 0 with
    | some f => s.lineBad (physAddr f (2 * sh))
    | none => false

/-- The lines that such a home map loses (R97). -/
def State.mapLose (s : State) (o : Obj) (sh : Nat) : State :=
  match s.frameOf o.hmap 0 0 with
  | some f => s.l2lose (physAddr f (2 * sh))
  | none => s

/-- A byte of an object as it stands now, wherever it lies, past every cache of a reader. -/
def State.objByte (s : State) (oid : BitVec 48) (o : Obj) (sh off : Nat) : Byte :=
  if s.placeOf o sh < 2 then s.localByte oid sh off else s.remote.get (remKey oid sh off)

/-- Bytes of an object as they stand now. -/
def State.objPeek (s : State) (oid : BitVec 48) (sh off n : Nat) : List Byte :=
  match s.obj oid with
  | some o => (List.range n).map fun i => s.objByte oid o sh (off + i)
  | none => List.replicate n 0

/-- Table frames of a handle table (R313). -/
def tableFrames (n : Nat) : Nat := cdiv (32 * n) 65536

/-- Frames held by a context: its objects' frames in this package's tiers, its handle table, its tasks' save images and its
spills (R308, R309, R313). DESIGN CHOICE, log entry 68. -/
def State.framesHeld (s : State) (c : Nat) : Nat :=
  let owned := fun (k : Nat) => match alGet s.objs (k / 2 ^ 35) with
    | some o => o.ownerCtx.toNat == c && o.ownerEp == s.boot.ep
    | none => false
  countIf (fun p => owned p.1) s.pages + tableFrames (s.tableSize c)
    + (s.tasks.map fun t => if t.ctx = c then
        (if t.core.isSome then 4 else 0) + (if t.spilled then t.window / 65536 else 0) + 2 * t.spillTiles.length else 0).sum

/-- FREEFR: own frames neither held nor carved (R313). -/
def State.freeFrames (s : State) (c : Nat) : Nat := s.own c 640 32 - s.framesHeld c

/-- The free-frame pool of a die and tier (R301). -/
def State.pool (s : State) (die tier : Nat) : List (BitVec 32) := (alGet s.pools (die * 2 + tier)).getD []

/-- A frame's bytes zeroed, its stale lines gone (R91, R301). -/
def State.zeroFrame (s : State) (f : BitVec 32) : State :=
  let s := s.l2invalidate f.toNat false
  { s with mem := s.mem.filter (fun c => c.1 / 65536 != f.toNat), bad := s.bad.filter (fun a => a / 65536 != f.toNat) }

/-- A frame returned to a pool of its tier; which die's pool it is the spec leaves open (DESIGN CHOICE, log entry 19). -/
def State.freeFrame (s : State) (f : BitVec 32) : State :=
  let tier := if f.toNat < 2 ^ 23 then 0 else 1
  let die := Config.returnDie f.toNat % 4
  let s := s.zeroFrame f
  { s with pools := alSet s.pools (die * 2 + tier) (s.pool die tier ++ [f]) }

/-- A page without its frame, the frame returned to a pool (R91). -/
def State.freePage (s : State) (key : Nat) : State :=
  match alGet s.pages key with
  | none => s
  | some f => { s with pages := alDel s.pages key, xcache := s.xcache.filter fun p => p.1 != key }.freeFrame f

/-- A page for a write request: the frame it has, or one taken zeroed, the owner's quota tested first (R301); the home maps that
Mason owns are charged to no context. The number is the
subcode of FRAME-POOL-EMPTY. -/
def State.ensureFrame (s : State) (die : Nat) (oid : BitVec 48) (o : Obj) (sh page : Nat) : Except Nat State :=
  if 2 ≤ s.placeOf o sh then .ok s
  else match s.frameOf oid sh page with
    | some _ => .ok s
    | none =>
      let tier := s.placeOf o sh
      if o.ownerEp = s.boot.ep ∧ o.ownerCtx ≠ 0 ∧ s.freeFrames o.ownerCtx.toNat = 0 then .error 2
      else match s.pool die tier with
        | [] => .error 1
        | f :: fs =>
          let s := s.zeroFrame f
          .ok { s with pages := alSet s.pages (pageKey oid sh page) f, pools := alSet s.pools (die * 2 + tier) fs }

/-- What an access below the checks ends in: a value, or the subcode of FETCH-ERROR (R73). -/
abbrev Got (α : Type) := State × Except Nat α

/-- Whether the home package holds the key of an object (R73, R78). DEDUCED, log entry 85. -/
def State.keyHeld (s : State) (o : Obj) : Bool := (alGet s.keys o.keyslot.toNat).isSome

/-- How a place fails the requests that reach it now (R73): TIER-TIMEOUT and PEER-TIMEOUT stand for no reply, which the requester waits
out; a peer also for a failing checksum, an absent key or an uncorrectable error. -/
def State.ailing (s : State) (place : Nat) : Option Nat :=
  if s.trouble.contains (.silent place) then some (if place < 2 then 2 else 3)
  else if place < 2 then none
  else if !s.boot.portsUp then some 3
  else if s.trouble.contains .checksum then some 4
  else if s.trouble.contains .peerKey then some 5
  else if s.trouble.contains .peerLine then some 1
  else none

/-- The L1 lines of every core that hold bytes of a line held elsewhere leave (R131). -/
def State.l1DropFar (s : State) (key : Nat) : State :=
  { s with l1 := s.l1.filter fun x => remKey x.oid (x.line / 2 ^ 34) (x.line % 2 ^ 34 * 64) != key }

/-- A line that a peer holds, marked poisoned in its tier there; no L1 goes on serving it (R74). -/
def State.poisonRemote (s : State) (key : Nat) : State :=
  { s.l1DropFar key with remoteBad := s.remoteBad.filter (· != key) ++ [key] }

/-- The key of a line of a replica at an endpoint. -/
def replKey (ep : BitVec 12) (key : Nat) : Nat := ep.toNat * 2 ^ 100 + key

/-- A line that another package's replica holds, marked poisoned in its tier there (R58, R74). -/
def State.poisonReplica (s : State) (ep : BitVec 12) (key : Nat) : State :=
  { s.l1DropFar key with replBad := s.replBad.filter (· != replKey ep key) ++ [replKey ep key] }

/-- A line that another package serves, marked poisoned there: the home's, or that of the replica that serves reads (R58, R74). -/
def State.poisonFar (s : State) (oid : BitVec 48) (o : Obj) (sh a : Nat) : State :=
  if s.replicaServes o sh then s.poisonReplica (s.nearest o sh) (remKey oid sh a) else s.poisonRemote (remKey oid sh a)

/-- A line that another package serves stands poisoned there (R58, R74). -/
def State.farBad (s : State) (oid : BitVec 48) (o : Obj) (sh a : Nat) : Bool :=
  if s.replicaServes o sh then s.replBad.contains (replKey (s.nearest o sh) (remKey oid sh a)) else s.remoteBad.contains (remKey oid sh a)

/-- The number of a weir counter (R292). -/
def weirCounter (cls kind : Nat) : Nat := 0x180 + 4 * cls + kind

/-- What the weirs of other packages count for the context whose request n they grant (R71, R292). -/
def State.peerWeirs (s : State) (ctx n : Nat) : State :=
  (Config.peerGrants n).foldl (fun s g =>
    (s.count ctx (weirCounter (3 + g.1 % 4) (if g.2.1 then 0 else 1)) 1).count ctx (weirCounter (3 + g.1 % 4) 2) g.2.2) s

/-- What a peer's L2 counts for the context whose request it serves, as the counts return with the reply (R71, R98, R292): a line delivered. Where
that L2 lacks the line and its room, the fill bypasses; a no-allocate fill of a missing line counts neither sectors nor a bypass. -/
def State.peerFill (s : State) (ctx : Nat) (d : BitVec 512) (noalloc : Bool) : State :=
  let s1 := ((s.count ctx 0x010B 64).peerWeirs ctx s.fresh).tickFresh
  if (Config.peerL2 s.fresh).1 then (if noalloc then s1 else s1.count ctx 0x010D 1)
  else s1.count ctx 0x010C (coursingSectors (coursingMode d) (nzWords d).length)

/-- The same of a line written there: old contents, contents and mask (R71, R98). DESIGN CHOICE, log entry 91. -/
def State.peerWrite (s : State) (ctx : Nat) (old d mask : BitVec 512) : State :=
  let n := coursingSectors (coursingMode d) (nzWords d).length
  let grew := coursingSectors (coursingMode old) (nzWords old).length < n
  let s1 := ((s.count ctx (0x0102 + n) 1).count ctx 0x0107 (if writtenZero d mask then 1 else 0)).peerWeirs ctx s.fresh |>.tickFresh
  let s1 := (s1.count ctx 0x0108 (if grew then 1 else 0)).count ctx 0x0109 (if grew then (Config.peerL2 s.fresh).2 else 0)
  s1.count ctx 0x010D (Config.peerL2 s.fresh).1.toNat

/-- A flit leaves for another package: the egress weir charges the requester (R71, R287). -/
def State.askEp (s : State) (ctx : Nat) (ep : BitVec 12) : State :=
  if ep = s.boot.ep then s else s.ask 6 (Config.egressPort ep.toNat % 18) ctx 1

/-- A flit leaves for the home of a shard. -/
def State.askPeer (s : State) (ctx : Nat) (o : Obj) (sh : Nat) : State := s.askEp ctx (s.shardEp o sh)

/-- The 64 bytes of a line of a shard as its home holds them, which every replica of a sealed object holds too (R58). -/
def State.shardLine (s : State) (oid : BitVec 48) (o : Obj) (sh a : Nat) : BitVec 512 :=
  bitsOfBytes 512 ((List.range 64).map fun k => s.objByte oid o sh (a + k))

/-- Reads of a shard go to another package: to the peer that is its home, or to a replica (R58, R71). -/
def State.elsewhere (s : State) (o : Obj) (sh : Nat) : Bool := (2 ≤ s.placeOf o sh || s.replicaServes o sh) && !s.hereReplica o sh

/-- The tier that a physical address lies in (R81). -/
def tierOf (a : Nat) : Nat := if a < 2 ^ 39 then 0 else 1

/-- A line is read for a request that misses the L2 although its package lacks the object's key (5) or its tier sends no reply (2); one that
ECC cannot correct fails wherever it lies (1) (R73, R74, R97). -/
def State.localFault (s : State) (o : Obj) (pa : BitVec 48) : Option Nat :=
  if (s.l2line pa).isNone && !s.keyHeld o then some 5
  else if (s.l2line pa).isNone && (s.ailing (tierOf pa.toNat)).isSome then some 2
  else if s.lineBad pa then some 1
  else none

/-- The FETCH-ERROR that a read of a line of a shard meets, from the home map, from another package or here. A line that the home holds poisoned
is none of a replica's, and a replica in this package's own tiers is read as any line here (R58, R73, R74, R97). -/
def State.lineFault (s : State) (oid : BitVec 48) (o : Obj) (sh a : Nat) : Option Nat :=
  if s.mapBad o sh then some 1
  else if s.elsewhere o sh then s.ailing 2 <|> (if s.farBad oid o sh a then some 1 else none)
  else (s.frameOf oid sh (a / 65536)).bind fun f => s.localFault o (physAddr f a)

/-- What a read that meets such an error does: its flit has been sent, and the lines that cannot be corrected are lost or marked (R74, R97). -/
def State.failLine (s : State) (ctx : Nat) (oid : BitVec 48) (o : Obj) (sh a e : Nat) : State :=
  if s.mapBad o sh then s.mapLose o sh
  else if s.elsewhere o sh then
    let t := s.askEp ctx (s.nearest o sh)
    if e = 1 then t.poisonFar oid o sh a else t
  else match s.frameOf oid sh (a / 65536) with
    | some f => if e = 1 then s.l2lose (physAddr f a) else s
    | none => s

/-- One line of a shard that a peer or a replica delivers for a context (R58, R71). -/
def State.readPeer (s : State) (ctx : Nat) (oid : BitVec 48) (o : Obj) (sh a : Nat) (noalloc : Bool) : State × BitVec 512 :=
  let d := s.shardLine oid o sh a
  ((s.askEp ctx (s.nearest o sh)).peerFill ctx d noalloc, d)

/-- A read of a line of a page that no frame holds: zeros, which no L2 line and no sector holds (R68, R100, R301). -/
def State.readFrameless (s : State) (ctx : Nat) (oid : BitVec 48) (o : Obj) (sh a : Nat) : State × BitVec 512 :=
  (s.count ctx 0x010B 64, s.shardLine oid o sh a)

/-- One line of a shard read for a context through the L2 (R89), or from a peer or a replica (R58, R71), with its bytes. -/
def State.readLine (s : State) (ctx : Nat) (oid : BitVec 48) (o : Obj) (sh off : Nat) (noalloc : Bool) : Got (BitVec 512) :=
  let a := off / 64 * 64
  match s.lineFault oid o sh a with
  | some e => (s.failLine ctx oid o sh a e, .error e)
  | none =>
    if s.elsewhere o sh then
      let (s', d) := s.readPeer ctx oid o sh a noalloc
      (s', .ok d)
    else match s.frameOf oid sh (a / 65536) with
      | none =>
        let (s', d) := s.readFrameless ctx oid o sh a
        (s', .ok d)
      | some f =>
        let (s', d) := s.l2fill ctx (physAddr f a) noalloc true
        (s', .ok d)

/-- The L1 line of a core (R131). -/
def State.l1get (s : State) (core : Nat) (oid : BitVec 48) (line : Nat) : Option (BitVec 512) :=
  (s.l1.find? fun x => x.core == core && x.oid == oid && x.line == line).map (·.data)

/-- A line number of a shard in the L1. DESIGN CHOICE, log entry 14. -/
def l1Line (sh off : Nat) : Nat := sh * 2 ^ 34 + off / 64

/-- A line kept by a core's L1, the oldest of the core leaving when it is full (R130, log entry 14). -/
def State.l1put (s : State) (core : Nat) (oid : BitVec 48) (line : Nat) (d : BitVec 512) : State :=
  let cap := (16 - s.spn core) * 8192
  let rest := s.l1.filter fun x => !(x.core == core && x.oid == oid && x.line == line)
  let full := cap ≤ countIf (fun x => x.core == core) rest
  let rest := if full then rest.eraseP (fun x => x.core == core) else rest
  if cap = 0 then s else { s with l1 := rest ++ [{ core := core, oid := oid, line := line, data := d }] }

/-- A hit of the L1 counts for its context as the fill of a hit in the L2 does, so that the L1's contents show in no counter (R100, R131; DEDUCED,
log entry 116). -/
def State.hitL1 (s : State) (ctx : Nat) (d : BitVec 512) : State :=
  (s.count ctx 0x010B 64).count ctx 0x010C (coursingSectors (coursingMode d) (nzWords d).length)

/-- A line read through the L1 of a core, which never holds lines of coherent objects (R131, R237). -/
def State.readLineL1 (s : State) (core ctx : Nat) (oid : BitVec 48) (o : Obj) (sh off : Nat) (noalloc : Bool) : Got (BitVec 512) :=
  if o.coherent then s.readLine ctx oid o sh off noalloc
  else match s.l1get core oid (l1Line sh off) with
    | some d => (s.hitL1 ctx d, .ok d)
    | none => match s.readLine ctx oid o sh off noalloc with
      | (s', .ok d) => (s'.l1put core oid (l1Line sh off) d, .ok d)
      | r => r

/-- The address of the line that a read of a shard awaits from its tier: of one that neither the core's L1 nor the L2 holds, and that the tier can
deliver, be it late (R73, R88). -/
def State.missOf (s : State) (core : Nat) (l1 : Bool) (oid : BitVec 48) (o : Obj) (sh off : Nat) : Option (BitVec 48) :=
  let inL1 := l1 && !o.coherent && (s.l1get core oid (l1Line sh off)).isSome
  if inL1 || s.elsewhere o sh || s.mapBad o sh then none
  else (s.frameOf oid sh (off / 65536)).bind fun f =>
    let pa := physAddr f (off / 64 * 64)
    match s.localFault o pa with
    | none => if (s.l2line pa).isSome then none else some pa
    | some 2 => some pa
    | some _ => none

/-- Such a line has its tag reserved and is pending until its request completes (R88). -/
def State.reserveLine (s : State) (core ctx : Nat) (l1 : Bool) (oid : BitVec 48) (o : Obj) (sh off : Nat) : State :=
  match s.missOf core l1 oid o sh off with
  | none => s
  | some pa => if (s.l2pending pa).isSome then s else (s.l2reserve ctx pa).getD s

/-- A line that a request has reserved in vain is pending no longer (R88). -/
def State.unpendLine (s : State) (oid : BitVec 48) (sh off : Nat) : State :=
  match s.frameOf oid sh (off / 65536) with
  | some f => s.unpend (physAddr f (off / 64 * 64))
  | none => s

/-- The byte offsets of the lines that n bytes of a shard lie in. -/
def linesOfBytes (off n : Nat) : List Nat :=
  if n = 0 then [] else (List.range ((off + n - 1) / 64 - off / 64 + 1)).map fun k => off / 64 * 64 + 64 * k

/-- The lines of byte runs, by shard and offset. -/
def runLines (rs : List (Nat × Nat × Nat)) : List (Nat × Nat) := rs.flatMap fun r => (linesOfBytes r.2.1 r.2.2).map fun a => (r.1, a)

/-- The lines of byte runs that their request has reserved are given up (R88). -/
def State.unpendRuns (s : State) (oid : BitVec 48) (rs : List (Nat × Nat × Nat)) : State :=
  (runLines rs).foldl (fun s l => s.unpendLine oid l.1 l.2) s

/-- n bytes of a shard read for a task; `l1` says whether the read goes through the L1 (R131). DESIGN CHOICE, log entry 8. -/
def State.readBytes (core ctx : Nat) (oid : BitVec 48) (o : Obj) (sh : Nat) (noalloc l1 : Bool) :
    Nat → State → Nat → Nat → Got (List Byte)
  | 0, s, _, _ => (s, .ok [])
  | fuel + 1, s, off, n =>
    if n = 0 then (s, .ok [])
    else
      let k := min n (64 - off % 64)
      match (if l1 then s.readLineL1 core ctx oid o sh off noalloc else s.readLine ctx oid o sh off noalloc) with
      | (s', .error e) => (s', .error e)
      | (s', .ok d) =>
        let bs := (List.range k).map fun i => d.extractLsb' (8 * (off % 64 + i)) 8
        match State.readBytes core ctx oid o sh noalloc l1 fuel s' (off + k) (n - k) with
        | (s2, .ok rest) => (s2, .ok (bs ++ rest))
        | r => r

/-- n bytes of a shard read for a task. -/
def State.readObj (s : State) (core ctx : Nat) (oid : BitVec 48) (o : Obj) (sh off n : Nat) (noalloc l1 : Bool) : Got (List Byte) :=
  State.readBytes core ctx oid o sh noalloc l1 (n / 64 + 2) s off n

/-- A line of the writing core's L1 kept equal to what the core writes through it (R131). -/
def State.l1merge (s : State) (core : Nat) (oid : BitVec 48) (line : Nat) (data mask : BitVec 512) : State :=
  { s with l1 := s.l1.map fun x =>
      if x.core == core && x.oid == oid && x.line == line then { x with data := mergeBits x.data data mask } else x }

/-- A line write that ends in FETCH-ERROR leaves each byte it covers at its earlier value or at the value written, which of the two
being free (R74). -/
def tearMem (m : Mem) (a fresh : Nat) (data mask : BitVec 512) : Mem :=
  (List.range 64).foldl (fun (m : Mem) k =>
    if mask.extractLsb' (8 * k) 8 ≠ 0 ∧ Config.tornByte (fresh + k) then
      m.write (a + k) [mergeBits (m.get (a + k)) (data.extractLsb' (8 * k) 8) (mask.extractLsb' (8 * k) 8)]
    else m) m

/-- A torn line of a tier (R74). -/
def State.tearLine (s : State) (a : Nat) (data mask : BitVec 512) : State :=
  { s with mem := tearMem s.mem a s.fresh data mask, fresh := s.fresh + 64 }

/-- A line torn by a write that its tier fails, the L2 holding it no longer (R74, R95). -/
def State.tearHeld (s : State) (pa : BitVec 48) (data mask : BitVec 512) : State :=
  (s.flushLine pa).tearLine (lineAddr pa) data mask

/-- A torn line of a peer's tier (R74). -/
def State.tearRemote (s : State) (a : Nat) (data mask : BitVec 512) : State :=
  { s with remote := tearMem s.remote a s.fresh data mask, fresh := s.fresh + 64 }

/-- A peer's line written (R71, R90, R98). -/
def State.putPeer (s : State) (ctx key : Nat) (data mask : BitVec 512) : State :=
  let old := bitsOfBytes 512 (s.remote.read key 64)
  let d := mergeBits old data mask
  { s with remote := s.remote.write key (leBytes 64 d.toNat), remoteBad := s.remoteBad.filter (· != key) }.peerWrite ctx old d mask

/-- A line write to a shard that a peer holds (R71, R73, R74). -/
def State.writePeer (s : State) (ctx : Nat) (oid : BitVec 48) (o : Obj) (sh a : Nat) (data mask : BitVec 512) : State × Option Nat :=
  let key := remKey oid sh a
  let s := s.askPeer ctx o sh
  let whole := mask == BitVec.allOnes 512
  match s.ailing 2 with
  | some 1 => if whole then (s.putPeer ctx key data mask, none) else ((s.tearRemote key data mask).poisonRemote key, some 1)
  | some e => (s.tearRemote key data mask, some e)
  | none => if !whole && s.remoteBad.contains key then (s.tearRemote key data mask, some 1) else (s.putPeer ctx key data mask, none)

/-- The 8 bytes of ring element j (R324). -/
def State.ringElem (s : State) (oid : BitVec 48) (j : Nat) : Nat := leNat (s.objPeek oid 0 (8 * j) 8)

/-- Entries of a dirty-log ring (R325). -/
def dirtyN (o : Obj) : Nat := (o.extent 0 / 2 - 8) / 2

/-- The line of a ring's counts cannot be read: an error that cannot be corrected stands in it (R74, R97). -/
def State.countsBad (s : State) (oid : BitVec 48) (o : Obj) : Bool :=
  if 2 ≤ s.placeOf o 0 then s.remoteBad.contains (remKey oid 0 0)
  else match s.frameOf oid 0 0 with
    | some f => s.lineBad (physAddr f 0)
    | none => false

/-- The object of a ring (R324, or R325 for a dirty log: `unit` 16 and at least 32, or 4 and at least 20). -/
def Obj.fitsRing (o : Obj) (unit least : Nat) : Bool :=
  o.coherent && o.rank == 1 && o.layout == 0 && (o.fmt == 14 || o.fmt == 8) && o.extent 0 % unit == 0 && decide (least ≤ o.extent 0)

/-- The checks of R55 that a ring's handle passes, with READ, WRITE and ATOMIC (R323). -/
def State.ringChecked (s : State) (c h : Nat) : Chk Acc :=
  s.classChecked c (BitVec.ofNat 64 h) (rREAD ||| rWRITE ||| rATOMIC) { eng := 0, op := 0 } false

/-- A ring is usable (R323): its handle passes R55 on an object that meets R324 or R325, and its line of counts can be read (R74, R97; DESIGN
CHOICE, log entry 16). -/
def State.ringObj (s : State) (c : Nat) (h : Nat) (unit least : Nat) : Option (BitVec 48 × Obj) :=
  match s.ringChecked c h with
  | .ok a => if a.o.fitsRing unit least && !s.countsBad a.oid a.o then some (a.oid, a.o) else none
  | _ => none

/-- What a device's use of a ring leaves behind where the ring is not usable: a malformed object is reported (R49), and a line of counts that
cannot be corrected is lost from the L2 (R97). -/
def State.noteRing (s : State) (c h unit least : Nat) : State :=
  match s.ringChecked c h with
  | .trap i => s.reportTrap i
  | .stall => s
  | .ok a =>
    if a.o.fitsRing unit least && s.placeOf a.o 0 < 2 then
      match s.frameOf a.oid 0 0 with
      | some f => if s.lineBad (physAddr f 0) then s.l2lose (physAddr f 0) else s
      | none => s
    else s

/-- A ring has room: producer − consumer is below N, unsigned in 64 bits (R324). -/
def State.ringRoom (s : State) (oid : BitVec 48) (n : Nat) : Bool :=
  (s.ringElem oid 0 + 2 ^ 64 - s.ringElem oid 1) % 2 ^ 64 < n

/-- A write has reached a ring's line of counts: where a dirty-log ring now has room, its full episode is over (R303). -/
def State.noteRoom (s : State) (oid : BitVec 48) : State :=
  let done := fun (x : Ctx) => match x.log with
    | some l => l.told && match s.ringObj l.rctx l.ring.toNat 4 20 with
      | some (roid, ro) => roid == oid && s.ringRoom roid (dirtyN ro)
      | none => false
    | none => false
  { s with ctxs := s.ctxs.map fun p =>
      if done p.2 then (p.1, { p.2 with log := p.2.log.map fun l => { l with told := false } }) else p }

/-- A line write to a shard (R90, R99): bits under the mask, to the L2, to a peer's tier, or to Mason's store. One that needs the tier, to read
the rest of its line or because it reaches it at once, fails with it (R73). -/
def State.putLine (s : State) (core ctx : Nat) (oid : BitVec 48) (o : Obj) (sh off : Nat) (data mask : BitVec 512)
    (noalloc : Bool) : State × Option Nat :=
  let a := off / 64 * 64
  let s1 := s.l1merge core oid (l1Line sh off) data mask
  if s.mapBad o sh then (s.mapLose o sh, some 1)
  else if 2 ≤ s.placeOf o sh then
    let (s2, e) := s1.writePeer ctx oid o sh a data mask
    (if e.isSome then { s2 with l1 := s.l1.filter fun x => !(x.core == core && x.oid == oid && x.line == l1Line sh off) } else s2, e)
  else match s.frameOf oid sh (a / 65536) with
    | none => (s, none)
    | some f =>
      let pa := physAddr f a
      let part := mask != BitVec.allOnes 512
      let tier := (part && (s.l2line pa).isNone) || s.reachesTier ctx pa data mask noalloc
      if tier && !s.keyHeld o then (s.tearHeld pa data mask, some 5)
      else if tier && (s.ailing (s.placeOf o sh)).isSome then (s.tearHeld pa data mask, some 2)
      else if part && s.lineBad pa then ((s.l2lose pa).tearLine (lineAddr pa) data mask, some 1)
      else (s1.l2write ctx pa data mask noalloc, none)

/-- A line write to a shard, after which a dirty log's full episode may be over (R303). -/
def State.writeLine (s : State) (core ctx : Nat) (oid : BitVec 48) (o : Obj) (sh off : Nat) (data mask : BitVec 512)
    (noalloc : Bool) : State × Option Nat :=
  let r := s.putLine core ctx oid o sh off data mask noalloc
  if off / 64 = 0 then (r.1.noteRoom oid, r.2) else r

/-- Data and mask of bytes within a line. -/
def lineBits (o : Nat) (bs : List Byte) : BitVec 512 × BitVec 512 :=
  (BitVec.ofNat 512 (leNat bs * 2 ^ (8 * o)), BitVec.ofNat 512 ((2 ^ (8 * bs.length) - 1) * 2 ^ (8 * o)))

/-- Bytes written to a shard, one line write per line (R99); the first FETCH-ERROR, if any. -/
def State.writeBytes (core ctx : Nat) (oid : BitVec 48) (o : Obj) (sh : Nat) (noalloc : Bool) :
    Nat → State → Nat → List Byte → State × Option Nat
  | 0, s, _, _ => (s, none)
  | fuel + 1, s, off, bs =>
    if bs.isEmpty then (s, none)
    else
      let k := min bs.length (64 - off % 64)
      let (d, m) := lineBits (off % 64) (bs.take k)
      let (s1, e1) := s.writeLine core ctx oid o sh off d m noalloc
      let (s2, e2) := State.writeBytes core ctx oid o sh noalloc fuel s1 (off + k) (bs.drop k)
      (s2, match e1 with | some e => some e | none => e2)

/-- Bytes written to a shard. -/
def State.writeObj (s : State) (core ctx : Nat) (oid : BitVec 48) (o : Obj) (sh off : Nat) (bs : List Byte) (noalloc : Bool) :
    State × Option Nat :=
  State.writeBytes core ctx oid o sh noalloc (bs.length / 64 + 2) s off bs

/-- A device write to a ring, charged to no context (DESIGN CHOICE, log entry 15). A line write of it that ends in FETCH-ERROR leaves its bytes as R74
has them, and the device goes on (DESIGN CHOICE, log entry 120). -/
def State.poke (s : State) (oid : BitVec 48) (o : Obj) (off : Nat) (bs : List Byte) : State :=
  (s.writeObj 48 0 oid o 0 off bs false).1

/-- An entry appended at producer mod N, then producer + 1 written (R324). -/
def State.ringAppend (s : State) (oid : BitVec 48) (o : Obj) (n words : Nat) (entry : Nat) : State :=
  let p := s.ringElem oid 0
  let s := s.poke oid o (64 + 8 * words * (p % n)) (leBytes (8 * words) entry)
  s.poke oid o 0 (leBytes 8 (p + 1))

/-- Entries of an event ring (R324). -/
def eventN (o : Obj) : Nat := (o.extent 0 / 2 - 8) / 8

/-- A dirty-log entry (R325). -/
def dirtyEntry (wctx page : Nat) (oid : BitVec 48) : Nat := oid.toNat + page * 2 ^ 64 + wctx * 2 ^ 96

/-- The contexts whose armed log has not logged a page that ctx is to write (R303, R325). -/
def State.logsDue (s : State) (ctx : Nat) (key : Nat) : List Nat :=
  (s.chain ctx).filter fun c => match s.ctx c with
    | some x => match x.log with
      | some l => !l.pages.contains key
      | none => false
    | none => false

/-- What an append to a log comes to: done, its ring full, or its ring frozen by a move (R56, R303). -/
inductive Logged where
  | ok (s : State)
  | full (c : Nat)
  | stall

/-- One dirty log takes its entry, which counts for the writing context (R327; DEDUCED, log entry 95). A ring that is gone takes nothing
and the page counts as logged (DESIGN CHOICE, log entry 16). -/
def State.logPage (s : State) (c wctx : Nat) (oid : BitVec 48) (page key : Nat) : Logged :=
  match s.ctx c with
  | none => .ok s
  | some x => match x.log with
    | none => .ok s
    | some l =>
      let mark := fun (s : State) => s.modCtx c fun y => { y with log := some { l with pages := l.pages ++ [key], told := false } }
      match s.ringObj l.rctx l.ring.toNat 4 20 with
      | none => .ok (mark (s.noteRing l.rctx l.ring.toNat 4 20))
      | some (roid, ro) =>
        if ro.moving then .stall
        else if s.ringRoom roid (dirtyN ro) then
          .ok (((mark s).ringAppend roid ro (dirtyN ro) 2 (dirtyEntry wctx page oid)).count wctx 0x0006 1)
        else .full c

/-- Every log that is due takes its entry before the write (R303). -/
def State.logWrite (s : State) (wctx : Nat) (oid : BitVec 48) (page key : Nat) : List Nat → Logged
  | [] => .ok s
  | c :: cs => match s.logPage c wctx oid page key with
    | .ok s' => s'.logWrite wctx oid page key cs
    | x => x

/-- A write has found the log of a context full (R303): none when the full episode that lasts has been reported already; otherwise the
machine with the episode marked. DEDUCED, log entry 94. -/
def State.newEpisode (s : State) (c : Nat) : Option State :=
  match s.ctx c with
  | none => none
  | some x => match x.log with
    | none => none
    | some l => if l.told then none else some (s.modCtx c fun y => { y with log := some { l with told := true } })

/-- How the preparation of a write ends: ready, a frame trap, a full dirty-log ring of a context, or a ring that is moving. -/
inductive WPrep where
  | ready (s : State)
  | noFrame (sub page : Nat)
  | logFull (c : Nat)
  | stall

/-- The pages that a write request touches get their frames and their dirty-log entries before any byte is written (R301, R303).
All frames are tested before any log is appended. -/
def State.prepPages (die ctx : Nat) (oid : BitVec 48) (o : Obj) (sh : Nat) : List Nat → State → WPrep
  | [], s => .ready s
  | p :: ps, s => match s.ensureFrame die oid o sh p with
    | .error sub => .noFrame sub p
    | .ok s1 =>
      match s1.logWrite ctx oid p (pageKey oid sh p) (s1.logsDue ctx (pageKey oid sh p)) with
      | .full c => .logFull c
      | .stall => .stall
      | .ok s2 => State.prepPages die ctx oid o sh ps s2

/-- The pages of bytes off .. off + n − 1. -/
def pagesOf (off n : Nat) : List Nat :=
  if n = 0 then [] else (List.range ((off + n - 1) / 65536 - off / 65536 + 1)).map (off / 65536 + ·)

end Sys2Proof.Machine
end

