-- ==== Sys2Proof/Machine/Ops.lean ====
section
/-!
DEFINITION. The shared operations of the control engine: registers and poison, waiting, the end of a group with its transfers and
loop-back, saving and waking tasks, taking a trap (R296), reflecting it (R323) and returning from it (R298), and `END` (R276).
-/

namespace Sys2Proof.Machine

/-- What an instruction's meaning ends in. -/
abbrev Res := Host.Outcome State Fault Refusal

/-- Code of a cause (R293). -/
def Cause.code : Cause → Nat
  | .illegalEncoding => 0x01 | .privilege => 0x03 | .poison => 0x04 | .handleInvalid => 0x05 | .handleRevoked => 0x06
  | .rights => 0x07 | .bounds => 0x08 | .missingObject => 0x09 | .framePoolEmpty => 0x0A | .fetchError => 0x0B
  | .slotFaulted => 0x0C | .slotOwner => 0x0D | .quota => 0x0E | .software => 0x10 | .loop => 0x11 | .alignment => 0x13

/-- Class of a cause (R293). -/
def Cause.cls : Cause → Nat
  | .illegalEncoding | .loop => 0
  | .privilege => 1
  | .poison | .alignment => 2
  | .handleInvalid | .handleRevoked | .rights | .bounds => 3
  | .missingObject | .framePoolEmpty | .fetchError => 4
  | .slotFaulted | .slotOwner | .quota => 5
  | .software => 6

/-- A scalar register; `s0` reads 0 and is never poisoned (R19, R244). -/
def Ctl.sreg (c : Ctl) (n : BitVec 5) : SReg := if n = 0 then SReg.zero else vget c.s n.toNat SReg.zero

/-- A condition register; `c0` reads 1 and is never poisoned (R19, R244). -/
def Ctl.creg (c : Ctl) (n : BitVec 3) : CReg := if n = 0 then { val := true, poison := none } else vget c.c n.toNat { val := false, poison := none }

/-- A scalar register written; writes to `s0` are discarded (R19). -/
def Ctl.setS (c : Ctl) (n : BitVec 5) (x : SReg) : Ctl := if n = 0 then c else { c with s := vset c.s n.toNat x }

/-- A condition register written; writes to `c0` are discarded (R19). -/
def Ctl.setCr (c : Ctl) (n : BitVec 3) (x : CReg) : Ctl := if n = 0 then c else { c with c := vset c.c n.toNat x }

/-- A scalar register as the word at hand reads it: a SYN word that waits reads what it captured (R31). -/
def Ctl.read (c : Ctl) (n : BitVec 5) : SReg :=
  match c.wait with
  | some w => if n = 0 then SReg.zero else (w.caps[n.toNat]?).getD (c.sreg n)
  | none => c.sreg n

/-- A scalar register of the task under execution. -/
def State.rs (s : State) (n : BitVec 5) : SReg := s.t.c.read n

/-- The value of a scalar register. -/
def State.sv (s : State) (n : BitVec 5) : Word := (s.rs n).val

/-- A condition register of the task under execution. -/
def State.rc (s : State) (n : BitVec 3) : CReg := s.t.c.creg n

/-- A scalar register written with an unpoisoned value. -/
def State.wrS (s : State) (n : BitVec 5) (v : Word) : State := s.modC fun c => c.setS n { val := v, poison := none }

/-- A scalar register written with its poison. -/
def State.wrSP (s : State) (n : BitVec 5) (v : Word) (p : Option Deferral) : State := s.modC fun c => c.setS n { val := v, poison := p }

/-- A condition register written with its poison. -/
def State.wrC (s : State) (n : BitVec 3) (v : Bool) (p : Option Deferral) : State := s.modC fun c => c.setCr n { val := v, poison := p }

/-- The deferral record of the first poisoned operand (R246). -/
def firstPoison : List (Option Deferral) → Option Deferral
  | [] => none
  | some d :: _ => some d
  | none :: ds => firstPoison ds

/-- The recorded offset of the word at hand: that of its PFX when it is prefixed (R21). -/
def State.wordOff (s : State) : Word := if s.t.c.pfx.isSome then s.t.c.pc - 1 else s.t.c.pc

/-- The partition under execution (R10). -/
def State.part (s : State) : Nat := s.t.part

/-- The core under execution. -/
def State.core (s : State) : Nat := s.t.coreNo

/-- The die under execution. -/
def State.die (s : State) : Nat := dieOfCore s.core

/-- The loop register's three values (R255). -/
def Ctl.loop (c : Ctl) (l : BitVec 2) : Loop := vget c.loops l.toNat { start := 0, last := 0, count := 0 }

/-- Loop-back at the group's last word x, over the active loops from the innermost out: where control continues (R257). -/
def Ctl.loopBack (x : Word) : List (BitVec 2) → Ctl → Ctl
  | [], c => { c with pc := x + 1, stack := [] }
  | l :: ls, c =>
    let r := c.loop l
    if r.last = x then
      let c := { c with loops := vset c.loops l.toNat { r with count := r.count - 1 } }
      if r.count - 1 = 0 then Ctl.loopBack x ls c else { c with pc := r.start, stack := l :: ls }
    else { c with pc := x + 1, stack := l :: ls }

/-- A transfer pops every active loop, from the innermost out, whose range does not hold its target (R258). -/
def Ctl.leaveLoops (x : Word) : List (BitVec 2) → Ctl → Ctl
  | [], c => { c with stack := [] }
  | l :: ls, c =>
    let r := c.loop l
    if r.start ≤ x && x ≤ r.last then { c with stack := l :: ls }
    else Ctl.leaveLoops x ls { c with loops := vset c.loops l.toNat { r with count := 0 } }

/-- The word at hand is a SYN word (R15, R16). -/
def Ctl.synAtHand (c : Ctl) : Bool := (c.words[(c.pc - c.grp).toNat]?).any fun w => w.extractLsb' 28 3 == 5

/-- What the word at hand keeps of the scalar registers when it begins to wait: a SYN word has captured them (R31). -/
def Ctl.captured (c : Ctl) : List SReg :=
  match c.wait with
  | some x => x.caps
  | none => if c.synAtHand then c.s.toList else []

/-- A word waits: its progress is kept, the clk it has waited so far, and what it captured (R31, R124, R278). -/
def State.block (s : State) (w : Wake) (p : Progress) : State :=
  s.modC fun c => { c with
    wait := some { progress := p, wake := w, clk := match c.wait with | some x => x.clk | none => 0, caps := c.captured } }

/-- The progress of the word at hand. -/
def State.progress (s : State) : Progress := match s.t.c.wait with | some w => w.progress | none => .plain

/-- The progress of the word at hand forgotten, its wait kept (a fault request that is answered repeats the checks, R300). -/
def State.isWaiting (s : State) : Bool := s.t.c.wait.isSome

/-- Pool entries of a die that are filled: every task of the die (R269). -/
def State.filled (s : State) (die : Nat) : List Nat :=
  (s.tasks.filter fun t => dieOfId t.id == die).map fun t => (t.id.extractLsb' 0 12).toNat

/-- The lowest free pool entry of a die (R275). -/
def State.freeEntry (s : State) (die : Nat) : Option Nat :=
  let f := s.filled die
  (List.range Config.poolSize).find? fun e => !f.contains e

/-- The key of a group (R279). -/
def gkey (ctx : Nat) (gid : BitVec 32) : Nat := ctx * 2 ^ 32 + gid.toNat

/-- Whether what a task waits for has come about (R278). -/
def State.wakeMet (s : State) (t : Task) (w : Wake) : Bool :=
  match w with
  | .version oid v => match s.obj oid with
    | some o => 0 ≤ (o.version - v).toInt
    | none => false
  | .writes _ => true
  | .gen gid target => match alGet s.groups (gkey t.ctx gid) with
    | some g => 0 ≤ (g.gen - target).toInt
    | none => true
  | .chunk _ _ => false
  | .reply => match t.c.wait with
    | some ⟨.answered _, _, _, _⟩ => true
    | _ => false
  | .slot key st owner held =>
    let x := (alGet s.slots key).getD Slot.reset
    x.st != st || x.owner != owner || s.heldSlots t != held
  | .pool _ _ => (s.freeEntry (dieOfId t.id)).isSome
  | .access .. => true
  | .other => true

/-- How subscription n of a record stands (R270): met, unmet, or none when it can no longer be met because its handle is REVOKED or FREE or
its object deleted. -/
def State.subState (s : State) (t : Task) (n : Nat) : Option Bool :=
  let sub := t.tr.extractLsb' (256 + 64 * n) 64
  if sub.getLsbD 63 then
    match s.entryChecked t.ctx ((sub.extractLsb' 32 24).setWidth 64) { eng := 0, op := 0 } with
    | .ok (_, e) => (s.obj e.oid).map fun o => decide (0 ≤ (o.version - sub.extractLsb' 0 32).toInt)
    | _ => none
  else some true

/-- A WAITING task becomes READY: every subscription is met, or one can no longer be (R270). -/
def State.subsOver (s : State) (t : Task) : Bool :=
  let l := (List.range 4).map (s.subState t)
  l.all (· == some true) || l.any (· == none)

/-- A task as the conditions now leave it: a WAITING task whose subscriptions are over, or a PARKED task whose word's condition is met,
becomes READY (R270, R278). -/
def State.settleTask (s : State) (t : Task) : Task :=
  match t.st with
  | .waiting => if s.subsOver t then { t with st := .ready, readyAt := s.clk } else t
  | .parked => match t.c.wait with
    | some w => if s.wakeMet t w.wake then { t with st := .ready, readyAt := s.clk } else t
    | none => t
  | _ => t

/-- Every task settled. -/
def State.settle (s : State) : State := { s with t := s.settleTask s.t, others := s.others.map s.settleTask }

/-- The completion test of a group (R279). -/
def Group.complete (g : Group) : Group :=
  let e := if g.limit = 0 then g.members else g.limit
  if e ≤ g.arrived ∧ 1 ≤ e then { g with gen := g.gen + 1, arrived := 0 } else g

/-- A task's group slot is left (R281). A fixed group whose LIMIT would fall to 0 has lost its last member and dissolves. -/
def State.leaveGroup (s : State) (t : Task) (g : Nat) : State :=
  match vget t.grp g none with
  | none => s
  | some x =>
    let s := s.modTask t.id fun t => { t with grp := vset t.grp g none }
    match alGet s.groups (gkey t.ctx x.gid) with
    | none => s
    | some r =>
      let arr := if x.arrived = some r.gen then r.arrived - 1 else r.arrived
      let r := { r with arrived := arr, members := r.members - 1, limit := r.limit - 1 }
      if r.members = 0 then { s with groups := alDel s.groups (gkey t.ctx x.gid) }
      else { s with groups := alSet s.groups (gkey t.ctx x.gid) r.complete }

/-- Whether a task is placed or parked on a core (R205, R308). -/
def Task.onCore (t : Task) (k : Nat) : Bool := t.core == some k && t.st != .none && t.st != .waiting

/-- A core's tiles after a task has left: a tile that no task of its holder names any longer is released (R205). -/
def State.releaseTiles (s : State) (k : Nat) : State :=
  { s with tiles := s.tiles.filter fun p =>
      p.1 / 16 != k || (s.tasks.any fun t => t.onCore k && t.ctx == p.2.ctx && t.ownsAcc (p.1 % 16)) }

/-- A slot once its owner has ended: FREE, or FREE once its fill or drain ends (R137). -/
def Slot.ended (x : Slot) : Slot :=
  match x.st with
  | .filling | .draining => { x with dying := true }
  | _ => Slot.reset

/-- A task's slots released (R137). -/
def State.releaseSlots (s : State) (t : Task) : State :=
  { s with slots := s.slots.map fun p => if p.2.ownedBy t then (p.1, p.2.ended) else p }

/-- A spilled tile that another task of the context on the core still names stays with that task when its keeper ends (R205, R308). -/
def State.passTiles (s : State) (t : Task) : State :=
  t.spillTiles.foldl (fun (s : State) q =>
    match s.tasks.find? fun u => u.id != t.id && u.core == t.core && u.ctx == t.ctx && u.ownsAcc q.1 with
    | some u => s.modTask u.id fun u => { u with spillTiles := u.spillTiles ++ [q] }
    | none => s) s

/-- The access of a word that will not go on is given up, with the lines reserved for it (R88, R124). -/
def State.giveUp (s : State) (w : Option Wait) : State :=
  match w with
  | some x => match x.wake with
    | .access _ _ oid rs _ _ => s.unpendRuns oid rs
    | _ => s
  | none => s

/-- What is reserved for accesses of a task that do not go on: of its words, its writes in the background and its ports (R88). -/
def State.giveUpTask (s : State) (t : Task) : State :=
  let s := (s.giveUp t.c.wait).giveUp t.x.kept.wait
  let s := t.c.stores.foldl (fun (s : State) p => s.unpendRuns p.oid p.runs) s
  t.f.ports.toList.foldl (fun s p => s.unpendRuns p.oid p.runs) s

/-- A task is DONE: it leaves its groups, releases slots, tiles, window and image, and its pool entry is freed (R270, R276, R309). -/
def State.finishTask (s : State) (id : BitVec 64) : State :=
  match s.taskById id with
  | none => s
  | some t =>
    let s := (List.range 4).foldl (fun s g => s.leaveGroup t g) s
    let s := ((s.giveUpTask t).releaseSlots t).passTiles t
    let s := if s.t.st ≠ .none ∧ s.t.id = id then { s with t := Task.idle } else { s with others := s.others.filter fun u => u.id != id }
    (match t.core with | some k => s.releaseTiles k | none => s).settle

/-- A request to Mason that awaits its answer. -/
def Progress.atMason (p : Progress) : Bool := match p with | .sent _ => true | _ => false

/-- Commands of the partition that have begun and are not over. -/
def Fet.open_ (f : Fet) : List FCmd := (match f.act with | some b => [b] | none => []) ++ f.run

/-- The task awaits an answer of Mason (R62, R300): at a word, at a word that a handler has interrupted, at a fetch command, at a binding
or at the code object that it is to start in. -/
def Task.asksMason (t : Task) : Bool :=
  (t.c.wait.any fun w => w.progress.atMason) || (t.x.kept.wait.any fun w => w.progress.atMason) || t.startAsk.atMason
    || (t.f.open_.any fun a => a.mason.isSome) || t.f.ports.toList.any fun p => p.mason.isSome

/-- A word has no reply yet and is not with Mason (R55, R73). -/
def Progress.isOpen (p : Progress) : Bool := match p with | .plain => true | .asked _ => true | _ => false

/-- The object of an access that has been resolved and has not completed (R55, R307). -/
def Wait.accesses (w : Wait) : Option (BitVec 48) :=
  match w.wake with
  | .access _ _ oid _ _ _ => if w.progress.isOpen then some oid else none
  | _ => none

/-- The objects of the task's accesses that have been resolved and have not completed, fetch requests aside: of its word or of the word that a
handler has interrupted, of its writes in the background and of its ports (R55, R240). -/
def Task.accesses (t : Task) : List (BitVec 48) :=
  (t.c.wait.bind Wait.accesses).toList ++ (t.x.kept.wait.bind Wait.accesses).toList ++ t.c.stores.map (·.oid)
    ++ (t.f.ports.toList.filter (·.res)).map (·.oid)

/-- Requests of the task are in flight: a save is complete once they have finished (R307, R309). -/
def Task.inFlight (t : Task) : Bool :=
  t.asksMason || !t.accesses.isEmpty || t.f.open_.any fun a => !a.outst.isEmpty || a.asked.isSome

/-- A command that is saved in its issue phase repeats its checks from its position when it goes on (R126, R129). -/
def FCmd.saved (a : FCmd) : FCmd := if a.ended then a else { a with ok := false }

/-- A binding likewise, from its own position on (R126, R129). -/
def Port.saved (p : Port) : Port := if p.bound then { p with again := true } else p

/-- A binding that halted goes on under RETRY: every check is made again from its position (R126). -/
def Port.retry (p : Port) : Port := if p.halted then { p with halted := false, again := true } else p

/-- The task under execution leaves its partition in state st with its state captured (R277, R307, R308): results in flight put the
vector engine in scoreboard mode until the last has landed (R170), requests in flight are to complete (R309). -/
def State.leavePart (s : State) (st : TaskSt) (forced : Bool) : State :=
  let t := s.t
  let last := (t.v.flights.map (·.land)).foldl max 0
  let t := { t with st := st, readyAt := s.clk, ranClk := 0, wasForced := forced, saving := t.inFlight, eligAt := none,
                    c := { t.c with wait := t.c.wait.map fun w => { w with clk := 0 } },
                    f := { t.f with act := t.f.act.map FCmd.saved, run := t.f.run.map FCmd.saved, ports := t.f.ports.map Port.saved },
                    v := { t.v with score := if t.v.flights.isEmpty then t.v.score else some last } }
  ({ s with t := Task.idle, others := s.others ++ [t] }).settle

/-- A request enters the intake queue (R291); its age counts from this clk (R289). -/
def State.toMason (s : State) (r : Req) : State := { s with intake := s.intake ++ [(s.clk, r)] }

/-- An event record (R324). -/
def eventRec (info : Option TrapInfo) (x2 x3 : Word) (xcode : BitVec 24) (chain : List Nat) (task : BitVec 64) (xpc : BitVec 32)
    (part cls cause kind : Nat) : BitVec 512 :=
  let (a, b, c, d) := match info with
    | some i => (i.x0, i.x1, i.x2, i.x3)
    | none => (0, 0, x2, x3)
  let ch := ((chain.take 8).zipIdx.map fun p => p.1 * 2 ^ (12 * p.2)).sum
  BitVec.ofNat 512 (packFields
    [(8, kind), (8, cause), (3, cls), (9, part), (4, min chain.length 8), (32, xpc.toNat), (64, task.toNat), (96, ch), (4, 0),
     (24, xcode.toNat), (4, 0), (64, a.toNat), (64, b.toNat), (64, c.toNat), (64, d.toNat)])

/-- The nearest context, from c upward, whose ring is usable, and the contexts passed (R323). -/
def State.findRing (s : State) : Nat → Nat → List Nat → Option Nat × List Nat
  | 0, _, acc => (none, acc)
  | fuel + 1, c, acc =>
    match s.ctx c with
    | none => (none, acc)
    | some x =>
      if x.ring ≠ 0 ∧ (s.ringObj c x.ring.toNat 16 32).isSome then (some c, acc)
      else s.findRing fuel x.parent (acc ++ [c])

/-- What the search for a usable ring, from c upward, leaves behind at the rings that it passes (R49, R97); s is the machine as the search
finds it. -/
def State.noteRings (s : State) : Nat → Nat → State → State
  | 0, _, t => t
  | fuel + 1, c, t =>
    match s.ctx c with
    | none => t
    | some x =>
      if x.ring = 0 then s.noteRings fuel x.parent t
      else if (s.ringObj c x.ring.toNat 16 32).isSome then t
      else s.noteRings fuel x.parent (t.noteRing c x.ring.toNat 16 32)

/-- An event appended to the ring of c when it has room and none waits before it (R324); false when it does not fit. -/
def State.appendEvent (s : State) (c : Nat) (ev : BitVec 512) : State × Bool :=
  match s.ctx c with
  | none => (s, false)
  | some x => match s.ringObj c x.ring.toNat 16 32 with
    | none => (s, false)
    | some (oid, o) =>
      if s.ringRoom oid (eventN o) && !o.moving then (s.ringAppend oid o (eventN o) 8 ev.toNat, true) else (s, false)

/-- The ring of a context is frozen by a move (R56). -/
def State.ringMoving (s : State) (c : Nat) : Bool :=
  match s.ctx c with
  | none => false
  | some x => match s.ringObj c x.ring.toNat 16 32 with
    | some (_, o) => o.moving
    | none => false

/-- A KIND 2 or 3 event delivered from the parent of ctx on; a full ring drops it and counts, and one with room takes it, whether or not a
KIND 1 event still waits to be appended there (R323). At a ring that is moving it waits for the thaw (R56), and then finds the ring full or
not. -/
def State.deliverEvent (s : State) (ctx : Nat) (task : BitVec 64) (mk : List Nat → BitVec 512) : State :=
  let t := s.noteRings 8 (s.parent ctx) s
  match s.findRing 8 (s.parent ctx) [ctx] with
  | (some c, chain) =>
    let (s', ok) := t.appendEvent c (mk chain)
    if t.ringMoving c then { t with events := t.events ++ [{ ctx := c, ev := mk chain }] }
    else if ok then s' else t.count c 0x0003 1
  | (none, chain) => t.toMason (.event ctx task (mk chain))

/-- A trap whose engine takes its checks again, as under RETRY: the engine halts no longer (R319, R323). -/
def Task.unhalt (t : Task) (eng : Nat) : Task :=
  match eng with
  | 0 => t
  | 3 => { t with mhalted := false }
  | 4 => { t with
      imageHalt := false
      f := { t.f with act := t.f.act.map fun a => { a with halted := false }, run := t.f.run.map fun a => { a with halted := false },
                      ports := t.f.ports.map Port.retry } }
  | _ => { t with v := { t.v with halted := false } }

/-- A reflected trap (R323): the partition is captured with the trapping point as its resume point, the task parks until it is
resumed or killed, and a KIND 1 event goes to the nearest usable ring, waiting for room, or to Mason. `eng` is the engine whose halting
trap it is, 0 for any other; the other engines' traps and halts are captured as they stand. -/
def State.reflect (s : State) (info : TrapInfo) (xpc : Word) (kept : Kept) (eng : Nat) : State :=
  let t := s.t
  let s := s.modT fun t => { t with
    c := { t.c with pc := xpc, phase := if kept.ending then .ending else .boundary, wait := kept.wait, xfer := kept.xfer, pfx := none } }
  let s := ((s.modT fun t => t.unhalt eng).leavePart .reflected true).count t.ctx 0x0002 1
  let mk := fun chain => eventRec (some info) 0 0 t.c.codeH chain t.id (xpc.setWidth 32) t.part info.cause.cls info.cause.code 1
  let ring := s.findRing 8 (s.parent t.ctx) [t.ctx]
  let s := s.noteRings 8 (s.parent t.ctx) s
  match ring with
  | (some c, chain) =>
    let s := s.modTask t.id fun t => { t with told := c }
    let (s', ok) := s.appendEvent c (mk chain)
    if ok && !(s.events.any fun e => e.ctx == c) then s' else { s with events := s.events ++ [{ ctx := c, ev := mk chain }] }
  | (none, chain) => (s.modTask t.id fun t => { t with told := 0 }).toMason (.event t.ctx t.id (mk chain))

/-- Control enters a code object at a word: its handle passes R55 with READ for that element (R245). `past` says that a word beyond the last
passes here, as it raises its trap as a truncated group. The rule names no check of the object's kind, and none is made (DESIGN CHOICE, log
entry 104). DEDUCED, log entry 32. -/
def State.codeObj (s : State) (ctx : Nat) (h : BitVec 24) (off : Nat) (past : Bool) : Chk (BitVec 48) :=
  let w : Who := { eng := 0, op := 0 }
  (s.dataChecked ctx (h.setWidth 64) rREAD w).bind fun a =>
    if past && decide (a.o.extent 0 ≤ off) then .ok a.oid
    else match boundsChecked a (a.o.tuple off) (fun _ => 1) w [0, 1, 2, 3] with
      | some t => .trap t
      | none =>
        if s.shardStalls a.o (a.o.locate (a.o.tuple off)).1 rREAD then .stall
        else if a.o.res = 3 then .trap (missingTrap w a.h a.oid.toNat (4 * off / 65536)) else .ok a.oid

/-- The handler word of a class in the context at hand (R312): its code handle and offset; none when unset. -/
def State.handlerOf (s : State) (cause : Cause) : Option (BitVec 24 × Nat) :=
  let hnd := s.ctxField s.t.ctx (1280 + 64 * cause.cls) 64
  if hnd < 2 ^ 63 then none else some (BitVec.ofNat 24 (hnd / 2 ^ 32), hnd % 2 ^ 32)

/-- The entry to a cause's handler stalls, its code object being frozen by a move (R56, R245). -/
def State.entryWaits (s : State) (cause : Cause) : Bool :=
  match s.handlerOf cause with
  | none => false
  | some (code, off) => match s.codeObj s.t.ctx code off false with
    | .stall => true
    | _ => false

/-- A trap taken now would wait for its handler's code object. -/
def State.handlerWaits (s : State) (cause : Cause) : Bool := !s.t.x.hmode && s.entryWaits cause

/-- The current code is written to `XCODE` (R296), also where no handler can be entered; R323 holds back the other trap registers. -/
def State.saveCode (s : State) : State := s.modT fun t => { t with x := { t.x with xcode := t.c.codeH } }

/-- Taking a trap (R296): while a handler runs, or with no handler set or none that can be entered, the trap is reflected; otherwise the
trap registers are written, HMODE is set and control continues at the class handler. `xpc` is the point of resumption,
`kept` what the interrupted group keeps, `eng` the engine that the trap halted. Of an offset beyond 32 bits `XPC` keeps the low 32 (DESIGN
CHOICE, log entry 105). A malformed handler object is reported (R49). DEDUCED, log entry 13. DEDUCED, log entry 33. -/
def State.takeTrap (s : State) (info : TrapInfo) (xpc : Word) (kept : Kept) (eng : Nat := 0) : State :=
  let s := s.reportTrap info
  if s.t.x.hmode then s.reflect info xpc kept eng
  else match s.handlerOf info.cause with
    | none => s.saveCode.reflect info xpc kept eng
    | some (code, off) => match s.codeObj s.t.ctx code off false with
      | .ok oid => s.modT fun t => { t with
          x := { t.x with xcause := BitVec.ofNat 11 (info.cause.cls * 256 + info.cause.code), xpc := xpc.setWidth 32, xcode := t.c.codeH,
                          x0 := info.x0, x1 := info.x1, x2 := info.x2, x3 := info.x3, hmode := true, kept := kept },
          c := { t.c with pc := BitVec.ofNat 64 off, codeH := code, codeO := oid, grp := BitVec.ofNat 64 off, phase := .boundary,
                          xfer := .none, pfx := none, wait := none, gseq := t.c.gseq + 1 } }
      | .trap i => (s.reportTrap i).saveCode.reflect info xpc kept eng
      | .stall => s.saveCode.reflect info xpc kept eng

/-- A trap that is precise at the word at hand (R33): the earlier words of its group keep their effects and their transfer. While the
handler's code object is frozen, the word waits and raises the trap anew (R56; log entry 32). -/
def State.trapWord (s : State) (info : TrapInfo) : State :=
  if s.handlerWaits info.cause then s.block (match s.t.c.wait with | some w => w.wake | none => .other) s.progress
  else s.takeTrap info s.wordOff { wait := none, xfer := s.t.c.xfer, ending := false }

/-- The scalar or condition register that a vector word delivers (R30, R171). -/
def deliversOf : Instr → Option Reg
  | .vany _ c _ _ _ => some (.c c)
  | .vall _ c _ _ _ => some (.c c)
  | .vmpop _ d _ _ _ => some (.s d)
  | .vext _ d _ _ _ => some (.s d)
  | .vflg _ d _ => some (.s d)
  | _ => none

/-- A delivering word is discarded (R30): its register is no longer pending and holds again the value and poison that it held when the word
was dispatched. -/
def Ctl.unpendOne (c : Ctl) (e : QEntry) : Ctl :=
  match deliversOf e.w, e.was with
  | some r, some x =>
    if !c.pend.contains r then c
    else
      let c := { c with pend := c.pend.filter (· != r) }
      match r with
      | .s n => c.setS n x
      | .c n => c.setCr n { val := x.val != 0, poison := x.poison }
      | _ => c
  | _, _ => c

/-- The registers of discarded words (R30). -/
def Ctl.unpend (c : Ctl) (es : List QEntry) : Ctl := es.foldl Ctl.unpendOne c

/-- The drain that `END` or `YIELD` has placed in the vector queue (R172). -/
def QEntry.isDrain (e : QEntry) : Bool := match e.w with | .taskEnd _ => true | .yield _ => true | _ => false

/-- The entries of the vector queue's first group, the words that form its next step (R165) before a drain among them. -/
def headGroup (q : List QEntry) : List QEntry :=
  match q with
  | [] => []
  | e :: _ =>
    let g := q.takeWhile fun x => x.gseq == e.gseq
    g.filter (fun x => !x.isDrain) ++ g.filter (·.isDrain)

/-- The queue behind its first group. -/
def tailGroups (q : List QEntry) : List QEntry :=
  match q with
  | [] => []
  | e :: _ => q.dropWhile fun x => x.gseq == e.gseq

/-- The slot number that a fetch word names. -/
def fetSlotOf : Instr → Option (BitVec 7)
  | .fill _ o _ _ => some o
  | .fillc _ o _ => some o
  | .fsts _ o _ => some o
  | _ => none

/-- A fetch command ends under ABANDON (R126) after a trap of a cause and subcode: a fill's slot becomes FAULTED with them (R139), a drained
slot returns to FULL unless an error has made it FAULTED meanwhile (R217), a binding stays without a walk. -/
def State.abandonCmd (why : BitVec 8 × BitVec 8) (s : State) (a : FCmd) : State :=
  match fetSlotOf a.e.w with
  | none => match a.e.w with
    | .fbind _ q _ x o =>
      let late := (vget s.t.f.ports q.toNat Port.unbound).late
      let p : Port := { Port.unbound with bound := true, out := o, wrap := x, no := vget a.e.ports q.toNat 0, pc := a.e.pc, dead := true, late := late }
      s.modF fun f => { f with ports := vset f.ports q.toNat p }
    | _ => s
  | some o =>
    let x := s.slot s.core o.toNat
    if !a.begun then s
    else match a.e.w with
      | .fsts .. => if x.st = .draining then s.setSlot s.core o.toNat { x with st := .full } else s
      | _ => if x.st = .filling then s.setSlot s.core o.toNat { x with st := .faulted, fcause := why.1, fsub := why.2 } else s

/-- An outbound port whose accepted elements have not all been written (R118). -/
def Port.draining (p : Port) : Bool := p.out && !(p.fifo.isEmpty && p.buf.isEmpty)

/-- The FUNB words whose port has drained are complete (R118). -/
def State.settleFunb (s : State) : State :=
  let over1 := fun (a : FCmd) => match a.e.w with | .funb _ q => !(vget s.t.f.ports q.toNat Port.unbound).draining | _ => false
  s.modF fun f => { f with run := f.run.filter fun a => !over1 a }

/-- A binding that halted ends under ABANDON (R126): of an outbound one the elements accepted from its position on are discarded. -/
def Port.abandon (p : Port) : Port :=
  if p.halted then { p with halted := false, dead := true, fifo := if p.out then [] else p.fifo } else p

/-- The fetch engine after `ERET` (R126): RETRY repeats the checks from the recorded position, ABANDON ends what halted. A command whose
issued requests have not all completed leaves the queue and ends once they have (R125). -/
def State.resumeFetch (s : State) (abandon : Bool) : State :=
  let gone := (match s.t.f.act with | some a => [a] | none => []) ++ s.t.f.run
  let gone := gone.filter (·.halted)
  let left := fun (a : FCmd) => !a.outst.isEmpty || a.asked.isSome
  let why := (s.t.x.xcause.setWidth 8, s.t.x.x0.setWidth 8)
  let quit := fun (a : FCmd) => { a with halted := false, quit := some why, ended := true, ok := true, err := true }
  if abandon then
    let s := (gone.filter fun a => !left a).foldl (State.abandonCmd why) s
    let s := s.modF fun f => { f with
      act := match f.act with | some a => if a.halted then none else some a | none => none,
      run := (f.run.filter fun a => !(a.halted && !left a)).map (fun a => if a.halted then quit a else a)
        ++ (match f.act with | some a => if a.halted && left a then [quit a] else [] | none => []),
      errs := f.errs ++ (gone.filter fun a => !left a).map (·.seq),
      ports := f.ports.map Port.abandon }
    s.settleFunb.modT fun t => if t.imageHalt then { t with imageHalt := false, image := false } else t
  else
    let go := fun (a : FCmd) => { a with halted := false }
    let s := s.modF fun f => { f with act := f.act.map go, run := f.run.map go, ports := f.ports.map Port.retry }
    s.modT fun t => { t with imageHalt := false }

/-- The vector engine after `ERET` (R174): RETRY, SKIP of the trapping word, or FLUSH. A step whose only word is skipped still takes its
step number, and a drain that `END` or `YIELD` has placed is no word and stays. DEDUCED, log entry 41. DEDUCED, log entry 42. -/
def State.resumeVector (s : State) (act : Nat) : State :=
  let s := s.modV fun v => { v with halted := false }
  let q := s.t.v.q
  match act with
  | 1 =>
    let i := (s.t.x.vqcmd.extractLsb' 8 1).toNat
    let g := headGroup q
    let nop := fun (e : QEntry) => { e with w := .vnop false 0, caps := [] }
    let g' := if countIf (fun e => !e.isDrain) g = 1 then (g.take 1).map nop ++ g.drop 1 else g.eraseIdx i
    (s.modC fun c => c.unpend ((g.drop i).take 1)).modV fun v => { v with q := g' ++ tailGroups q }
  | 2 => (s.modC fun c => c.unpend q).modV fun v => { v with q := q.filter (·.isDrain), step := v.step + (if q.isEmpty then 0 else 1) }
  | _ => s

/-- The matrix queue after `ERET` (R228): RETRY, SKIP, or FLUSH. -/
def State.resumeMatrix (s : State) (act : Nat) : State :=
  s.modT fun t => { t with mhalted := false, mq := match act with | 1 => t.mq.drop 1 | 2 => [] | _ => t.mq }

/-- The engine whose trap the handler served acts on its ACT field (R298). -/
def State.resumeEngine (s : State) : State :=
  match s.t.x.taken with
  | some 4 => s.resumeFetch s.t.x.fqact
  | some 3 => s.resumeMatrix s.t.x.mqact.toNat
  | some _ => s.resumeVector s.t.x.vqact.toNat
  | none => s

/-- A trap becomes pending (R296): behind those that became pending in an earlier clk, and among those of one clk in ascending engine code. -/
def Trp.addTrap (x : Trp) (p : PTrap) : Trp :=
  let first := fun (q : PTrap) => decide (q.clk < p.clk) || decide (q.clk = p.clk ∧ q.eng ≤ p.eng)
  { x with pending := x.pending.filter first ++ [p] ++ x.pending.filter fun q => !first q }

/-- An engine trap becomes pending at the die's present clk (R124, R173, R228, R296). -/
def State.pendTrap (s : State) (eng : Nat) (info : TrapInfo) (cmd pos : Word) (halting : Bool) : State :=
  s.modX fun x => x.addTrap { eng := eng, info := info, cmd := cmd, pos := pos, halting := halting, clk := (s.dieOf s.die).count }

/-- The running handler serves a fetch trap, as `XINFO_0` tells (R124). -/
def State.servesFetch (s : State) : Bool := s.t.x.hmode && s.t.x.x0.extractLsb' 16 8 == 4

/-- Fetch traps that are pending or being handled (R124). -/
def State.fetTraps (s : State) : Nat := countIf (fun p : PTrap => p.eng == 4) s.t.x.pending + s.servesFetch.toNat

/-- Fetch traps that wait beyond eight, behind the one that is pending or being handled, stall the partition's fetch issue (R124). -/
def State.fetStalled (s : State) : Bool := decide (9 ≤ s.fetTraps)

/-- A register built from fields, each with its place. -/
def csrFields (l : List (Nat × Nat)) : Word := BitVec.ofNat 64 ((l.map fun p => p.2 * 2 ^ p.1).sum)

/-- BOUNDS, PORT-END, of a binding: a non-halting fetch trap (R117, R123, R142). -/
def State.portEndTrap (s : State) (p : Past) : State :=
  let w := whoOf (.fbind false 0 0 false true)
  s.pendTrap 4 (boundsTrap w 9 p.handle.toNat p.oid.toNat 0 0 0) (csrFields [(32, p.pc.toNat % 2 ^ 32), (0, w.op)])
    (BitVec.ofNat 64 p.pos) false

/-- A binding reports PORT-END; beyond eight fetch traps that wait, or behind a report that waits, the report waits too, since no push freezes for
it (R124, R142). -/
def State.portEnd (s : State) (p : Past) : State :=
  if s.fetStalled || !s.t.f.ends.isEmpty then s.modF fun f => { f with ends := f.ends ++ [p] } else s.portEndTrap p

/-- Reports of PORT-END that waited become pending as far as there is room (R124). -/
def State.payEnds (s : State) : State :=
  let n := 9 - s.fetTraps
  (s.t.f.ends.take n).foldl State.portEndTrap (s.modF fun f => { f with ends := f.ends.drop n })

/-- An engine trap is taken: the engine's command registers are written, its ACT field cleared when it halted (R124, R173, R228). A trap that
is reflected leaves no handler that serves it, and room for a report that waited (R124). -/
def State.takeEngine (s : State) (p : PTrap) (xpc : Word) (kept : Kept) : State :=
  let s := s.modX fun x =>
    let x := { x with pending := x.pending.drop 1 }
    match p.eng with
    | 4 => { x with fqcmd := p.cmd, fqpos := p.pos, fqact := if p.halting then false else x.fqact }
    | 3 => { x with mqcmd := p.cmd, mqact := 0 }
    | 0 => x
    | _ => { x with vqcmd := p.cmd, vqact := 0 }
  let s1 := s.takeTrap p.info xpc kept (if p.halting then p.eng else 0)
  if s1.t.x.hmode then s1.modX fun x => { x with taken := if p.halting then some p.eng else none } else s1.asTask s.t.id State.payEnds

/-- A trap taken at a group boundary or at a waiting word (R124); a wait that it interrupts counts its clk anew (R278). -/
def State.boundaryKept (s : State) : Kept :=
  { wait := s.t.c.wait.map fun w => { w with clk := 0 }, xfer := s.t.c.xfer, ending := s.t.c.phase == .ending }

/-- The word offset that a trap at a boundary records: the waiting word, or the first group not admitted (R124). -/
def State.boundaryOff (s : State) : Word := match s.t.c.phase with | .running => s.wordOff | .checked => s.t.c.grp | _ => s.t.c.pc

/-- A return from a handler waits while the code that it enters, or the handler of the trap that it meets, is frozen by a move (R56, R245). -/
def State.eretWaits (s : State) : Bool :=
  match s.t.x.pending with
  | p :: _ => s.entryWaits p.info.cause
  | [] => if !s.t.f.ends.isEmpty then s.entryWaits .bounds else match s.codeObj s.t.ctx s.t.x.xcode s.t.x.xpc.toNat true with
    | .stall => true
    | .trap i => s.entryWaits i.cause
    | .ok _ => false

/-- Return from a handler (R298): the engine acts, HMODE ends, the code is `XCODE` again; a pending trap, or one that waited for room, is taken now, and otherwise
control continues at `XPC` with what the interrupted group kept. -/
def State.doEret (s : State) : State :=
  let k := s.t.x.kept
  let s := s.resumeEngine
  let xpc := s.t.x.xpc.setWidth 64
  let s := s.modX fun x => { x with hmode := false, taken := none, kept := { wait := none, xfer := .none, ending := false } }
  let s := s.payEnds
  let s := s.modC fun c => { c with codeH := s.t.x.xcode, pc := xpc, grp := xpc, phase := if k.ending then .ending else .boundary,
                                    wait := k.wait, xfer := k.xfer, pfx := none, gseq := c.gseq + 1 }
  match s.t.x.pending with
  | p :: _ => s.takeEngine p xpc k
  | [] => match s.codeObj s.t.ctx s.t.c.codeH xpc.toNat true with
    | .trap i => s.takeTrap i xpc k
    | .ok oid => s.modC fun c => { c with codeO := oid }
    | .stall => s

/-- Whether every earlier word of the task has drained: `END` and `YIELD` take effect only then (R172, R276). -/
def State.vecDrained (s : State) : Bool := s.t.v.q.isEmpty && s.t.v.flights.isEmpty

/-- No fetch command, released command or completion value of the task is outstanding, nor a write in the background (R240, R276, R278). -/
def State.fetDrained (s : State) : Bool :=
  let f := s.t.f
  f.q.isEmpty && f.act.isNone && f.run.isEmpty && f.rel.isEmpty && f.fdone.isEmpty && f.ftks.isEmpty && s.t.c.stores.isEmpty
    && f.ports.toList.all fun p => !p.out || (p.fifo.isEmpty && p.buf.isEmpty)

/-- `END` takes effect once the task has drained (R276). -/
def State.endEffect (s : State) : State :=
  if s.vecDrained && s.t.mq.isEmpty && s.fetDrained then s.finishTask s.t.id
  else s

/-- `YIELD` takes effect once its drain has (R277). -/
def State.yieldEffect (s : State) : State :=
  if s.vecDrained then
    (s.modC fun c => { c with phase := .boundary, xfer := .none, wait := none }).leavePart .ready false
  else s

/-- The transfer of a group whose words have all taken effect (R27, R257). -/
def State.endGroup (s : State) : State :=
  let x := s.t.c.pc
  let s' := s.modC fun c => { c with phase := .boundary, xfer := .none, gseq := c.gseq + 1 }
  let loops := fun (c : Ctl) => if s.t.x.hmode then { c with pc := x + 1 } else Ctl.loopBack x c.stack c
  match s.t.c.xfer with
  | .none => s'.modC loops
  | .jump a => s'.modC fun c => { (if s.t.x.hmode then c else Ctl.leaveLoops a c.stack c) with pc := a }
  | .goto a => s'.modC fun c => { c with pc := a }
  | .taskEnd => (s.modC fun c => { c with phase := .ending, pc := x + 1, gseq := c.gseq + 1 }).endEffect
  | .yield => (s.modC fun c => { c with phase := .ending, pc := x + 1, gseq := c.gseq + 1 }).yieldEffect
  | .eret => if s.eretWaits then s.modC fun c => { c with phase := .ending, gseq := c.gseq + 1 } else s'.doEret

/-- A word of the control engine's stream has taken its effect: control goes on to the next word of the group, or past the group. -/
def State.advance (s : State) (S : Bool) : State :=
  let s := s.modC fun c => { c with pfx := none, wait := none }
  if S then s.endGroup else s.modC fun c => { c with pc := c.pc + 1 }

/-- A word that must not pass a poisoned operand (R247): the first poisoned register of the list raises POISON. DEDUCED, log entry 23. -/
def State.poisoned (_s : State) (w : Who) (regs : List (Bool × Nat × Option Deferral)) : Option TrapInfo :=
  match regs.find? fun r => r.2.2.isSome with
  | some (cond, n, _) => some (poisonTrap w cond n)
  | none => none

/-- A scalar operand for the poison checks. -/
def State.pS (s : State) (n : BitVec 5) : Bool × Nat × Option Deferral := (false, n.toNat, (s.rs n).poison)

/-- A condition operand for the poison checks. -/
def State.pC (s : State) (n : BitVec 3) : Bool × Nat × Option Deferral := (true, n.toNat, (s.rc n).poison)

/-- A word of the control engine with checks: a trap is taken precisely at the word, otherwise it goes on. -/
def State.guard (s : State) (t : Option TrapInfo) (k : State) : Res :=
  match t with
  | some i => .next (s.trapWord i)
  | none => .next k

end Sys2Proof.Machine
end

