-- ==== Sys2Proof/Machine/Hazard.lean ====
section
/-!
DEFINITION. Which registers a word names, captures and writes (R25, R29, R30, R31), which engine takes it (R16), and the group check
(R28) with the loop rules that belong to it (R255, R257).
-/

namespace Sys2Proof.Machine

/-- The unit that executes a word (R16): 0 the control engine, 1 vector, 3 matrix, 4 fetch, 6 a prefix. -/
def engineOf (i : Instr) : Nat :=
  match (whoOf i).eng with
  | 2 => 1 | 5 => 0 | e => e

/-- The rounding code of SR (R20). -/
def srCode : BitVec 3 := 4

/-- Registers that a vector operation of Form P names: its sources and mask, and its destination, which it writes. -/
def usesP (d : BitVec 5) (srcs : List (BitVec 5)) (m : BitVec 3) : List (Reg × Bool) :=
  (.v d, true) :: (.m m, false) :: srcs.map fun x => (.v x, false)

/-- Scalar registers that a word reads. -/
def usesS (l : List (BitVec 5)) : List (Reg × Bool) := l.map fun x => (.s x, false)

/-- d := a op b on scalar registers. -/
def usesD (d : BitVec 5) (l : List (BitVec 5)) : List (Reg × Bool) := (.s d, true) :: usesS l

/-- The SR generator, read and advanced (R152). -/
def usesSr (r : BitVec 3) : List (Reg × Bool) := if r = srCode then [(.sr, true)] else []

/-- The registers that a word names, each with whether the word writes it (R25). A vector, matrix or fetch word also names the scalar
registers it captures and the register it delivers. DEDUCED, log entry 84. -/
def usesOf : Instr → List (Reg × Bool)
  | .add _ d a b | .sub _ d a b | .mul _ d a b | .and _ d a b | .or _ d a b | .xor _ d a b | .shl _ d a b | .shr _ d a b
  | .sra _ d a b | .madd _ d a b => usesD d [a, b]
  | .mulh _ d a b _ | .div _ d a b _ | .rem _ d a b _ | .min _ d a b _ | .max _ d a b _ => usesD d [a, b]
  | .clz _ d a | .popc _ d a => usesD d [a]
  | .sel _ d a b c => (.c c, false) :: usesD d [a, b]
  | .addi _ d a _ | .muli _ d a _ | .andi _ d a _ | .ori _ d a _ | .xori _ d a _ | .lds _ d a _ => usesD d [a]
  | .shli _ d a _ | .shri _ d a _ | .srai _ d a _ => usesD d [a]
  | .li _ d _ | .time _ d => usesD d []
  | .cmp _ c a b _ => (.c c, true) :: usesS [a, b]
  | .cmpi _ c a _ _ => (.c c, true) :: usesS [a]
  | .clog _ d a b _ => [(.c d, true), (.c a, false), (.c b, false)]
  | .ptb _ b _ => [(.b b, true)]
  | .ptbs _ d a => (.b d, true) :: usesS [a]
  | .brt _ b c _ | .brf _ b c _ => [(.b b, false), (.c c, false)]
  | .jmp _ b => [(.b b, false)]
  | .loop _ l r _ => (.l l, true) :: usesS [r]
  | .loopi _ l _ _ => [(.l l, true)]
  | .lexit _ c => [(.c c, false)]
  | .sts _ d a _ => usesS [d, a]
  | .mbrd _ d m => (.mb m, false) :: usesD d []
  | .mbwr _ d m => (.mb m, true) :: usesS [d]
  | .csrr _ d n => (.csr n, false) :: usesD d []
  | .csrw _ d n => (.csr n, true) :: usesS [d]
  | .chkScalar _ a => usesS [a]
  | .chkCondition _ c => [(.c c, false)]
  | .xld _ d a b _ _ _ => usesD d [a, b]
  | .xst _ d a b _ => usesS [d, a, b]
  | .spawn _ d a _ | .mclaim _ d a _ => usesD d [a]
  | .pub _ a _ => usesS [a]
  | .subscribe _ a b => usesS [a, b]
  | .subt _ c a b => (.c c, true) :: usesS [a, b]
  | .gjoin _ _ a b => usesS [a, b]
  | .barr _ d _ _ => usesD d []
  | .bwait _ a _ => usesS [a]
  | .waitw _ d a b _ => usesD d [a, b]
  | .ald _ d a b _ _ _ => usesD d [a, b]
  | .ast _ d a b _ _ => usesS [d, a, b]
  | .aadd _ d a b _ _ _ _ | .amax _ d a b _ _ _ _ | .amin _ d a b _ _ _ _ | .aand _ d a b _ _ _ _ | .aor _ d a b _ _ _ _
  | .axchg _ d a b _ _ _ _ => usesD d [a, b]
  | .acas _ d a b _ _ _ _ => usesD ((d.setWidth 5) <<< 1) [((d.setWidth 5) <<< 1) ||| 1, a, b]
  | .afadd _ d a b _ _ => usesD d [a, b]
  | .hqry _ d a b _ => usesD d [a, b]
  | .hdup _ d a b _ => usesD d [a, b]
  | .hdrop _ a => usesS [a]
  | .omcall _ d a b _ => usesD d [a, b]
  | .notify _ d a b _ => usesD d [a, b]
  | .ctxnew _ d a | .ctxrun _ d a | .ctxstop _ d a | .ctxdel _ d a | .logarmOff _ d a => usesD d [a]
  | .ctxrevoke _ d a _ => usesD d [a]
  | .ctxgrant _ d a b _ | .ctxset _ d a b _ => usesD d [a, b]
  | .ctxrunResume _ d a b | .ctxrunKill _ d a b | .logarm _ d a b => usesD d [a, b]
  | .perfr _ d a b _ => usesD d [a, b]
  | .vadd _ d a b m _ | .vsub _ d a b m _ | .vmul _ d a b m _ | .vfma _ d a b m _ | .vfms _ d a b m _ | .vfnma _ d a b m _
  | .vmax _ d a b m _ | .vmin _ d a b m _ | .vsel _ d a b m _ | .vscale _ d a b m _ | .viadd _ d a b m _ | .visub _ d a b m _
  | .vimul _ d a b m _ | .vimulh _ d a b m _ | .vand _ d a b m _ | .vor _ d a b m _ | .vxor _ d a b m _ | .vshl _ d a b m _
  | .vshr _ d a b m _ | .vsra _ d a b m _ | .vimin _ d a b m _ | .vimax _ d a b m _ | .vperm _ d a b m _ => usesP d [a, b] m
  | .vabs _ d a m _ | .vneg _ d a m _ | .vclass _ d a m _ | .vrcp _ d a m _ | .vrsq _ d a m _ | .vexp2 _ d a m _ | .vlog2 _ d a m _
  | .viabs _ d a m _ | .vrsum _ d a m _ | .vrmax _ d a m _ | .vrmin _ d a m _ | .vscan _ d a m _ => usesP d [a] m
  | .vmov _ d a m => usesP d [a] m
  | .viota _ d m _ => usesP d [] m
  | .vtbl _ d a n m _ => (.tab n, false) :: usesP d [a] m
  | .vcmp _ d a b _ _ | .vicmp _ d a b _ _ => [(.m d, true), (.v a, false), (.v b, false)]
  | .vcvt _ d a _ _ r | .vcvts _ d a _ _ r => (.v d, true) :: (.v a, false) :: usesSr r
  | .vqmx _ d a _ _ r _ _ =>
    (.v ((d.setWidth 5) <<< 1), true) :: (.v (((d.setWidth 5) <<< 1) ||| 1), true) :: (.v a, false) :: usesSr r
  | .vdqmx _ d a _ _ _ => [(.v d, true), (.v ((a.setWidth 5) <<< 1), false), (.v (((a.setWidth 5) <<< 1) ||| 1), false)]
  | .vrng _ d m => (.sr, true) :: usesP d [] m
  | .vseed _ a b => (.sr, true) :: usesS [a, b]
  | .vany _ c a m _ | .vall _ c a m _ => [(.c c, true), (.m a, false), (.m m, false)]
  | .vmpop _ d a m _ => [(.s d, true), (.m a, false), (.m m, false)]
  | .vmlog _ d a b m _ => [(.m d, true), (.m a, false), (.m b, false), (.m m, false)]
  | .vbcst _ d a m _ => (.s a, false) :: usesP d [] m
  | .vext _ d a b _ => [(.s d, true), (.v a, false), (.s b, false)]
  | .vld _ d a _ => (.v d, true) :: usesS [a]
  | .vst _ d a _ => (.v d, false) :: usesS [a]
  | .vlds _ d a b _ => (.v d, true) :: usesS [a, b]
  | .vsts _ d a b _ => (.v d, false) :: usesS [a, b]
  | .vgth _ d a b m _ => (.s a, false) :: usesP d [b] m
  | .vsct _ d a b m _ => [(.s a, false), (.v d, false), (.v b, false), (.m m, false)]
  | .vtrw _ t v r _ _ => [(.t t, true), (.v v, false), (.s r, false)]
  | .vtcr _ d t c _ _ => [(.v d, true), (.t t, false), (.s c, false)]
  | .vtz _ t => [(.t t, true)]
  | .vacr _ d _ r _ => [(.v d, true), (.s r, false)]
  | .vtld _ n a b => (.tab n, true) :: usesS [a, b]
  | .vmld _ d a => (.m d, true) :: usesS [a]
  | .vmst _ d a => (.m d, false) :: usesS [a]
  | .vchk _ a k => [if k then (.m (a.setWidth 3), false) else (.v a, false)]
  | .vflg _ d _ => [(.s d, true)]
  | .mma _ a _ _ _ | .mmat _ a _ _ _ => [(.a a, true)]
  | .mzero _ a => [(.a a, true)]
  | .mlda _ a r => (.a a, true) :: usesS [r]
  | .mdrn _ a r _ o _ _ _ => (.a a, false) :: usesS [r] ++ usesSr o
  | .mdrs _ a _ _ r _ _ _ => (.a a, false) :: usesSr r
  | .mwait _ a _ => [(.a a, false)]
  | .mscal _ a r _ => (.a a, true) :: usesS [r]
  | .fview _ w a _ | .fshape _ w a | .fadv _ w a _ => (.w w, true) :: usesS [a]
  | .fdim _ w a b _ | .fidx _ w a b _ => (.w w, true) :: usesS [a, b]
  | .fill _ _ w _ => [(.w w, false)]
  | .fillc _ _ w => [(.w w, false)]
  | .fld _ w a b | .fst _ w a b => (.w w, false) :: usesS [a, b]
  | .fsts _ _ w => [(.w w, false)]
  | .fbind _ _ w _ _ => [(.w w, false)]
  | .fcopy _ d s => [(.w d, false), (.w s, false)]
  | .fgth _ w a b _ => (.w w, false) :: usesS [a, b]
  | .fpre _ w _ => [(.w w, false)]
  | .frel _ a => usesS [a]
  | .fdone _ a b _ => usesS [a, b]
  | _ => []

/-- The scalar registers that a word captures, in the order of its entry (R31). -/
def capturesOf (i : Instr) : List (BitVec 5) :=
  if engineOf i = 0 ∨ engineOf i = 6 then []
  else (usesOf i).filterMap fun p => match p with | (.s n, false) => some n | _ => none

/-- Whether a register belongs to an engine under R25. -/
def ownReg (e : Nat) : Reg → Bool
  | .s _ | .c _ | .b _ | .l _ | .mb _ | .csr _ => e == 0
  | .v _ | .m _ | .t _ | .tab _ | .sr => e == 1
  | .a _ => e == 3
  | .w _ => e == 4

/-- Writes to `s0`, `c0` and `m0` are discarded and exempt (R19, R25). -/
def exemptReg : Reg → Bool
  | .s n => n == 0
  | .c n => n == 0
  | .m n => n == 0
  | _ => false

/-- Registers of its own engine that a word names. -/
def ownUses (i : Instr) : List (Reg × Bool) := (usesOf i).filter fun p => ownReg (engineOf i) p.1

/-- Registers of its own engine that a word writes, exempt ones aside. -/
def ownWrites (i : Instr) : List Reg := ((ownUses i).filter fun p => p.2 && !exemptReg p.1).map (·.1)

/-- The words of R27's set, `LOOP` and `LOOPI` standing for their loop-back (R255). -/
def isFlow : Instr → Bool
  | .brt .. | .brf .. | .jmp .. | .lexit .. | .loop .. | .loopi .. | .taskEnd .. | .yield .. | .eret .. => true
  | _ => false

/-- The word at an offset of a code object (R15): its element of that index, in whichever shard and layout it lies (R50, R52). -/
def State.codeWord (s : State) (oid : BitVec 48) (off : Nat) : IWord :=
  match s.obj oid with
  | none => 0
  | some o =>
    let (sh, i) := o.locate (o.tuple off)
    BitVec.ofNat 32 (leNat ((List.range 4).map fun k => s.objByte oid o sh (o.bitOff sh i / 8 + k)))

/-- Words of a code object; element i of it is word i (R268). -/
def State.codeLen (s : State) (oid : BitVec 48) : Nat := match s.obj oid with | some o => o.extent 0 | none => 0

/-- The words that control would read as one group from offset a on: at most eight, up to a stop bit or the end (R24). -/
def State.groupWords (s : State) (oid : BitVec 48) (len : Nat) : Nat → Nat → List IWord
  | 0, _ => []
  | n + 1, a =>
    if len ≤ a then []
    else
      let w := s.codeWord oid a
      w :: (if w.getLsbD 31 then [] else s.groupWords oid len n (a + 1))

/-- What the group check has seen of the earlier words (R24, R25, R27). -/
structure Seen where
  vec : Nat
  ctl : Nat
  flow : Nat
  writes : List Reg

/-- Engine codes and op values of the words that accept a prefix, whatever their fields hold (R23). DEDUCED, log entry 86. -/
def joinsPfx (w : IWord) : Bool :=
  let op := (w.extractLsb' 21 7).toNat
  match (w.extractLsb' 28 3).toNat with
  | 0 => (0x18 ≤ op && op ≤ 0x1C) || op == 0x20 || op == 0x29 || op == 0x30 || op == 0x36 || op == 0x40 || op == 0x41
  | 2 => op ≤ 1
  | 3 => op ≤ 1
  | _ => false

/-- The violations of a PFX: a bad field that it carries for the word it joins (R18, R20, R209), or R22. -/
def pfxViolation (w : IWord) (p : BitVec 28) (k : Nat) (next : Option IWord) : Option Illegal :=
  if w.getLsbD 31 ∨ k = 7 then some .prefixOrphan
  else match next with
    | none => some .prefixOrphan
    | some x =>
      if !joinsPfx x then some .prefixOrphan
      else match decode x with
        | .ok i => i.pfxCheck p
        | .error _ => none

/-- The check of the words of a group in word order: the first violation with its index (R28). `last` is the offset of the group's
last word when an active loop ends there, for R257. -/
def checkWords (full : Nat) (loopEnd : Bool) : List IWord → Nat → Seen → Option (Nat × Illegal × IWord)
  | [], _, _ => none
  | w :: ws, k, sn =>
    match decode w with
    | .error e => some (k, e, w)
    | .ok (.pfx p) => match pfxViolation w p k ws.head? with
      | some e => some (k, e, w)
      | none => checkWords full loopEnd ws (k + 1) sn
    | .ok i =>
      let v := sn.vec + (if engineOf i = 1 then 1 else 0)
      let c := sn.ctl + (if engineOf i = 0 then 1 else 0)
      let f := sn.flow + (if isFlow i then 1 else 0)
      let clash := (ownUses i).any fun p => sn.writes.contains p.1
      if (engineOf i = 1 ∧ 2 < v) ∨ (engineOf i = 0 ∧ 2 < c) ∨ (isFlow i ∧ (1 < f ∨ loopEnd)) ∨ clash
          ∨ (k = 7 ∧ !w.getLsbD 31) then some (k, .groupConflict, w)
      else checkWords full loopEnd ws (k + 1) { vec := v, ctl := c, flow := f, writes := sn.writes ++ ownWrites i }

/-- Some active loop ends at offset x. -/
def Ctl.endsAt (c : Ctl) (x : Word) : Bool := c.stack.any fun l => (c.loop l).last == x

/-- Trap information of ILLEGAL-ENCODING (R28). -/
def illegalTrap (k : Nat) (e : Illegal) (w : IWord) : TrapInfo :=
  { cause := .illegalEncoding, x0 := BitVec.ofNat 64 (k * 256 + e.code), x1 := w.setWidth 64, x2 := 0, x3 := 0 }

/-- LOOP (R259). -/
def loopTrap (w : Who) (sub : Nat) (l : Nat) : TrapInfo := mkTrap .loop w sub l 0 0

/-- The check of the group at an offset (R28, R255, R257). The loop rules concern the task's own stream and not a handler's (R296), and a violation of
R28 comes before theirs (DESIGN CHOICE, log entry 106). -/
def State.groupViolation (s : State) (a : Word) : Option TrapInfo :=
  let c := s.t.c
  let len := s.codeLen c.codeO
  let ws := if len ≤ a.toNat then [] else s.groupWords c.codeO len 8 a.toNat
  let lastOff := a + BitVec.ofNat 64 (ws.length - 1)
  let stops := match ws.getLast? with | some w => w.getLsbD 31 | none => false
  let loopEnd := stops && !s.t.x.hmode && c.endsAt lastOff
  match checkWords ws.length loopEnd ws 0 { vec := 0, ctl := 0, flow := 0, writes := [] } with
  | some (k, e, w) => some (illegalTrap k e w)
  | none =>
    if !stops then some (illegalTrap ws.length .groupTruncated 0)
    else if s.t.x.hmode then none
    else match c.stack with
      | [] => none
      | l :: _ =>
        let e := (c.loop l).last
        if a ≤ e && e < lastOff then some (loopTrap { eng := 0, op := 0 } 3 l.toNat) else none

/-- The words of the group at hand, decoded; a checked group holds no other. -/
def State.groupInstrs (s : State) : List Instr := s.t.c.words.filterMap fun w => (decode w).toOption

/-- Entries that a group's words take in the queue of an engine; `END` and `YIELD` place a drain in the vector queue (R29, R172), but in a
handler, where no word enters a queue: `END` discards what is queued and `YIELD` traps (R297). -/
def queueNeed (e : Nat) (hmode : Bool) (l : List Instr) : Nat :=
  countIf (fun i => !hmode && (engineOf i == e || (e == 1 && (match i with | .taskEnd _ => true | .yield _ => true | _ => false)))) l

/-- A checked group is admitted: its queues have room and no register it names is pending (R29). A register that an earlier word of the same
group makes pending holds back nothing of its own group: a later CTL or SYN word there reads the value it still has (R30 speaks of later
groups; DESIGN CHOICE, log entry 96). -/
def State.canAdmit (s : State) : Bool :=
  let l := s.groupInstrs
  let h := s.t.x.hmode
  s.t.v.q.length + queueNeed 1 h l ≤ Config.vecDepth
    && s.t.mq.length + queueNeed 3 h l ≤ Config.subDepth
    && s.t.f.q.length + queueNeed 4 h l ≤ Config.subDepth
    && l.all fun i => (usesOf i).all fun p => match p.1 with
      | .s _ => !s.t.c.pend.contains p.1
      | .c _ => !s.t.c.pend.contains p.1
      | _ => true

/-- A prefix's payload above an immediate of its word (R23), sign-extended to 64 bits. -/
def State.immS (s : State) {n : Nat} (i : BitVec n) : Word :=
  match s.t.c.pfx with
  | some p => (p ++ i).signExtend 64
  | none => i.signExtend 64

/-- As `immS`, zero-extended. -/
def State.immZ (s : State) {n : Nat} (i : BitVec n) : Word :=
  match s.t.c.pfx with
  | some p => (p ++ i).setWidth 64
  | none => i.setWidth 64

/-- Word k after the one at hand in the group (R26). -/
def State.wordAhead (s : State) (k : Nat) : Option IWord := s.t.c.words[(s.t.c.pc - s.t.c.grp).toNat + k]?

/-- The word that a running group has at hand, decoded: what the control engine executes next (R26). -/
def State.wordAtPc (s : State) : Option Instr := (s.wordAhead 0).bind fun w => (decode w).toOption

end Sys2Proof.Machine
end

