-- ==== Sys2Proof/Machine/Control.lean ====
section
/-!
DEFINITION. The CTL words (chapter 12, R239, R240): arithmetic, comparison, branches, loops, scratchpad, mailbox, control registers,
`CHK`, `XLD` and `XST`; PFX, the group check and admission.
-/

namespace Sys2Proof.Machine

/-- A word that computes d from scalar operands, with the poison of the first poisoned one (R246), and goes on. -/
def State.compute (s : State) (S : Bool) (d : BitVec 5) (v : Word) (ps : List (Option Deferral)) : Res :=
  .next ((s.wrSP d v (firstPoison ps)).advance S)

/-- d := f a b for two registers. -/
def State.alu (s : State) (S : Bool) (d a b : BitVec 5) (f : Word → Word → Word) : Res :=
  s.compute S d (f (s.sv a) (s.sv b)) [(s.rs a).poison, (s.rs b).poison]

/-- d := f a for one register. -/
def State.alu1 (s : State) (S : Bool) (d a : BitVec 5) (f : Word → Word) : Res :=
  s.compute S d (f (s.sv a)) [(s.rs a).poison]

/-- Bits [127:64] of the product (R250). -/
def mulHigh (u : Bool) (x y : Word) : Word :=
  if u then BitVec.ofNat 64 (x.toNat * y.toNat / 2 ^ 64) else BitVec.ofInt 64 (x.toInt * y.toInt / 2 ^ 64)

/-- Quotient and remainder (R250, `div_rem`). -/
def divRem (a b : Word) (u : Bool) : Word × Word :=
  if b = 0 then (BitVec.allOnes 64, a)
  else if u then (BitVec.ofNat 64 (a.toNat / b.toNat), BitVec.ofNat 64 (a.toNat % b.toNat))
  else if a.toInt = -(2 ^ 63) ∧ b.toInt = -1 then (a, 0)
  else (BitVec.ofInt 64 (a.toInt.tdiv b.toInt), BitVec.ofInt 64 (a.toInt - a.toInt.tdiv b.toInt * b.toInt))

/-- Smaller of two values (R250). -/
def minVal (u : Bool) (x y : Word) : Word := if (if u then x.ult y else x.slt y) then x else y

/-- Larger of two values (R250). -/
def maxVal (u : Bool) (x y : Word) : Word := if (if u then x.ult y else x.slt y) then y else x

/-- Leading zero bits (R250). -/
def clzVal (x : Word) : Word :=
  BitVec.ofNat 64 ((((List.range 64).find? fun k => x.getLsbD (63 - k))).getD 64)

/-- One bits (R250). -/
def popcVal (x : Word) : Word := BitVec.ofNat 64 (countIf (fun k => x.getLsbD k) (List.range 64))

/-- Shift amount b[5:0] (R250). -/
def shAmt (b : Word) : Nat := b.toNat % 64

/-- A comparison of R252. -/
def ccVal (k : Nat) (x y : Word) : Bool :=
  match k with
  | 0 => x == y | 1 => x != y | 2 => x.slt y | 3 => !x.slt y | 4 => x.ult y | _ => !x.ult y

/-- `CLOG`'s operations (R252). -/
def clogVal (p : Nat) (x y : Bool) : Bool :=
  match p with
  | 0 => x && y | 1 => x || y | 2 => x != y | _ => x && !y

/-- ADD. -/
def execAdd (S : Bool) (d a b : BitVec 5) (s : State) : Res := s.alu S d a b (· + ·)
/-- SUB_SUBTRACT. -/
def execSub (S : Bool) (d a b : BitVec 5) (s : State) : Res := s.alu S d a b (· - ·)
/-- MUL. -/
def execMul (S : Bool) (d a b : BitVec 5) (s : State) : Res := s.alu S d a b (· * ·)
/-- MULH. -/
def execMulh (S : Bool) (d a b : BitVec 5) (u : Bool) (s : State) : Res := s.alu S d a b (mulHigh u)
/-- DIV. -/
def execDiv (S : Bool) (d a b : BitVec 5) (u : Bool) (s : State) : Res := s.alu S d a b fun x y => (divRem x y u).1
/-- REM. -/
def execRem (S : Bool) (d a b : BitVec 5) (u : Bool) (s : State) : Res := s.alu S d a b fun x y => (divRem x y u).2
/-- AND. -/
def execAnd (S : Bool) (d a b : BitVec 5) (s : State) : Res := s.alu S d a b (· &&& ·)
/-- OR. -/
def execOr (S : Bool) (d a b : BitVec 5) (s : State) : Res := s.alu S d a b (· ||| ·)
/-- XOR. -/
def execXor (S : Bool) (d a b : BitVec 5) (s : State) : Res := s.alu S d a b (· ^^^ ·)
/-- SHL. -/
def execShl (S : Bool) (d a b : BitVec 5) (s : State) : Res := s.alu S d a b fun x y => x <<< shAmt y
/-- SHR. -/
def execShr (S : Bool) (d a b : BitVec 5) (s : State) : Res := s.alu S d a b fun x y => x >>> shAmt y
/-- SRA. -/
def execSra (S : Bool) (d a b : BitVec 5) (s : State) : Res := s.alu S d a b fun x y => x.sshiftRight (shAmt y)
/-- MIN. -/
def execMin (S : Bool) (d a b : BitVec 5) (u : Bool) (s : State) : Res := s.alu S d a b (minVal u)
/-- MAX. -/
def execMax (S : Bool) (d a b : BitVec 5) (u : Bool) (s : State) : Res := s.alu S d a b (maxVal u)
/-- CLZ. -/
def execClz (S : Bool) (d a : BitVec 5) (s : State) : Res := s.alu1 S d a clzVal
/-- POPC. -/
def execPopc (S : Bool) (d a : BitVec 5) (s : State) : Res := s.alu1 S d a popcVal
/-- SEL: a when the condition is 1, otherwise b; the condition's poison comes last (R246). -/
def execSel (S : Bool) (d a b : BitVec 5) (c : BitVec 3) (s : State) : Res :=
  s.compute S d (if (s.rc c).val then s.sv a else s.sv b) [(s.rs a).poison, (s.rs b).poison, (s.rc c).poison]
/-- MADD: d is read and written. -/
def execMadd (S : Bool) (d a b : BitVec 5) (s : State) : Res :=
  s.compute S d (s.sv d + s.sv a * s.sv b) [(s.rs a).poison, (s.rs b).poison, (s.rs d).poison]
/-- ADDI. -/
def execAddi (S : Bool) (d a : BitVec 5) (i : BitVec 11) (s : State) : Res := s.alu1 S d a (· + s.immS i)
/-- MULI. -/
def execMuli (S : Bool) (d a : BitVec 5) (i : BitVec 11) (s : State) : Res := s.alu1 S d a (· * s.immS i)
/-- ANDI. -/
def execAndi (S : Bool) (d a : BitVec 5) (i : BitVec 11) (s : State) : Res := s.alu1 S d a (· &&& s.immZ i)
/-- ORI. -/
def execOri (S : Bool) (d a : BitVec 5) (i : BitVec 11) (s : State) : Res := s.alu1 S d a (· ||| s.immZ i)
/-- XORI. -/
def execXori (S : Bool) (d a : BitVec 5) (i : BitVec 11) (s : State) : Res := s.alu1 S d a (· ^^^ s.immZ i)
/-- SHLI. -/
def execShli (S : Bool) (d a : BitVec 5) (i : BitVec 6) (s : State) : Res := s.alu1 S d a (· <<< i.toNat)
/-- SHRI. -/
def execShri (S : Bool) (d a : BitVec 5) (i : BitVec 6) (s : State) : Res := s.alu1 S d a (· >>> i.toNat)
/-- SRAI. -/
def execSrai (S : Bool) (d a : BitVec 5) (i : BitVec 6) (s : State) : Res := s.alu1 S d a fun x => x.sshiftRight i.toNat
/-- LI. -/
def execLi (S : Bool) (d : BitVec 5) (i : BitVec 16) (s : State) : Res := s.compute S d (s.immS i) []

/-- A word that writes one condition register (R252). -/
def State.condition (s : State) (S : Bool) (c : BitVec 3) (v : Bool) (ps : List (Option Deferral)) : Res :=
  .next ((s.wrC c v (firstPoison ps)).advance S)

/-- CMP. -/
def execCmp (S : Bool) (c : BitVec 3) (a b : BitVec 5) (k : BitVec 3) (s : State) : Res :=
  s.condition S c (ccVal k.toNat (s.sv a) (s.sv b)) [(s.rs a).poison, (s.rs b).poison]
/-- CMPI. -/
def execCmpi (S : Bool) (c : BitVec 3) (a : BitVec 5) (k : BitVec 3) (i : BitVec 8) (s : State) : Res :=
  s.condition S c (ccVal k.toNat (s.sv a) (s.immS i)) [(s.rs a).poison]
/-- CLOG. -/
def execClog (S : Bool) (d a b : BitVec 3) (p : BitVec 2) (s : State) : Res :=
  s.condition S d (clogVal p.toNat (s.rc a).val (s.rc b).val) [(s.rc a).poison, (s.rc b).poison]

/-- A branch register written. -/
def State.wrB (s : State) (b : BitVec 3) (v : Word) : State := s.modC fun c => { c with b := vset c.b b.toNat v }

/-- A branch register. -/
def State.rb (s : State) (b : BitVec 3) : Word := vget s.t.c.b b.toNat 0

/-- A transfer that waits for the end of the group (R27). -/
def State.transfer (s : State) (x : Xfer) : State := s.modC fun c => { c with xfer := x }

/-- PTB: the offset counts from the PTB word itself (R253). -/
def execPtb (S : Bool) (b : BitVec 3) (i : BitVec 16) (s : State) : Res :=
  .next ((s.wrB b (s.t.c.pc + s.immS i)).advance S)
/-- PTBS. -/
def execPtbs (S : Bool) (d : BitVec 3) (a : BitVec 5) (s : State) : Res :=
  s.guard (s.poisoned (whoOf (.ptbs S d a)) [s.pS a]) ((s.wrB d (s.sv a)).advance S)

/-- BRT (R254). -/
def execBrt (S : Bool) (b c : BitVec 3) (l : Bool) (s : State) : Res :=
  s.guard (s.poisoned (whoOf (.brt S b c l)) [s.pC c])
    ((if (s.rc c).val then s.transfer (.jump (s.rb b)) else s).advance S)
/-- BRF (R254). -/
def execBrf (S : Bool) (b c : BitVec 3) (l : Bool) (s : State) : Res :=
  s.guard (s.poisoned (whoOf (.brf S b c l)) [s.pC c])
    ((if (s.rc c).val then s else s.transfer (.jump (s.rb b))).advance S)
/-- JMP (R254). -/
def execJmp (S : Bool) (b : BitVec 3) (s : State) : Res := .next ((s.transfer (.jump (s.rb b))).advance S)

/-- A word that a handler may not hold raises PRIVILEGE, HANDLER-WORD while one runs (R297). -/
def State.handlerWord (s : State) (w : Who) : Option TrapInfo := if s.t.x.hmode then some (privTrap w 3 0) else none

/-- The offset after the group at hand. -/
def State.afterGroup (s : State) (S : Bool) : Word :=
  if S then s.t.c.pc + 1
  else s.t.c.grp + BitVec.ofNat 64 s.t.c.words.length

/-- The execution of `LOOP` and `LOOPI` (R256). -/
def State.startLoop (s : State) (S : Bool) (w : Who) (l : BitVec 2) (count : Word) (len : Nat) : Res :=
  let c := s.t.c
  let start := s.afterGroup S
  let last := start + BitVec.ofNat 64 len - 1
  let nest := match c.stack with
    | [] => false
    | i :: _ => (c.loop i).last < last
  if (c.loop l).count ≠ 0 then .next (s.trapWord (loopTrap w 1 l.toNat))
  else if nest then .next (s.trapWord (loopTrap w 2 l.toNat))
  else if count = 0 then .next ((s.transfer (.goto (last + 1))).advance S)
  else .next ((s.modC fun c =>
    { c with loops := vset c.loops l.toNat { start := start, last := last, count := count }, stack := l :: c.stack }).advance S)

/-- LOOP: the count is the unsigned value of the register (R256). In a handler its privilege comes before poison (DESIGN CHOICE, log entry 106). -/
def execLoop (S : Bool) (l : BitVec 2) (r : BitVec 5) (n : BitVec 14) (s : State) : Res :=
  let w := whoOf (.loop S l r n)
  match s.handlerWord w with
  | some i => .next (s.trapWord i)
  | none => match s.poisoned w [s.pS r] with
    | some i => .next (s.trapWord i)
    | none => s.startLoop S w l (s.sv r) n.toNat
/-- LOOPI: the count is the immediate, widened by a prefix (R23, R256). -/
def execLoopi (S : Bool) (l : BitVec 2) (c : BitVec 10) (n : BitVec 9) (s : State) : Res :=
  let w := whoOf (.loopi S l c n)
  match s.handlerWord w with
  | some i => .next (s.trapWord i)
  | none => s.startLoop S w l (s.immZ c) n.toNat

/-- LEXIT pops the innermost loop and leaves it after the group (R258). In a handler its privilege comes before poison (DESIGN CHOICE, log entry
106). -/
def execLexit (S : Bool) (c : BitVec 3) (s : State) : Res :=
  let w := whoOf (.lexit S c)
  match s.handlerWord w with
  | some i => .next (s.trapWord i)
  | none => match s.poisoned w [s.pC c] with
    | some i => .next (s.trapWord i)
    | none =>
      if !(s.rc c).val then .next (s.advance S)
      else match s.t.c.stack with
        | [] => .next (s.trapWord (loopTrap w 4 0))
        | l :: ls =>
          let r := s.t.c.loop l
          .next (((s.modC fun c => { c with loops := vset c.loops l.toNat { r with count := 0 }, stack := ls }).transfer
            (.goto (r.last + 1))).advance S)

/-- NOP (R249). -/
def execNop (S : Bool) (s : State) : Res := .next (s.advance S)

/-- The checks of an 8-byte scratchpad access of the control engine (R260): the offset as computed in 64 bits, its alignment before the window
(DESIGN CHOICE, log entry 106). -/
def State.spadCheck (s : State) (w : Who) (off : Word) : Option TrapInfo :=
  if off.toNat % 8 ≠ 0 then some (alignTrap w 1 off 3)
  else if s.t.window < off.toNat + 8 then some (boundsPlain w 0x0A)
  else none

/-- LDS (R260). -/
def execLds (S : Bool) (d a : BitVec 5) (i : BitVec 11) (s : State) : Res :=
  let w := whoOf (.lds S d a i)
  let off := s.sv a + s.immS i * 8
  match s.poisoned w [s.pS a] with
  | some t => .next (s.trapWord t)
  | none => s.guard (s.spadCheck w off) ((s.wrS d (bitsOfBytes 64 (s.spad off.toNat 8))).advance S)

/-- STS (R260). -/
def execSts (S : Bool) (d a : BitVec 5) (i : BitVec 11) (s : State) : Res :=
  let w := whoOf (.sts S d a i)
  let off := s.sv a + s.immS i * 8
  match s.poisoned w [s.pS a, s.pS d] with
  | some t => .next (s.trapWord t)
  | none => s.guard (s.spadCheck w off) ((s.setSpad off.toNat (leBytes 8 (s.sv d).toNat)).advance S)

/-- MBRD (R261). -/
def execMbrd (S : Bool) (d : BitVec 5) (m : BitVec 3) (s : State) : Res :=
  .next ((s.wrS d (vget s.t.c.mb m.toNat 0)).advance S)
/-- MBWR (R261). -/
def execMbwr (S : Bool) (d : BitVec 5) (m : BitVec 3) (s : State) : Res :=
  s.guard (s.poisoned (whoOf (.mbwr S d m)) [s.pS d])
    ((s.modC fun c => { c with mb := vset c.mb m.toNat (s.sv d) }).advance S)

/-- A tile register of R206: zero unless the task holds the tile. -/
def State.accReg (s : State) (n : Nat) : Word :=
  let a := (n - 0x200) / 8
  let x := s.tile s.core a
  if !s.t.ownsAcc a then 0
  else match n % 8 with
    | 0 => csrFields [(16, x.kind.toNat), (0, x.ver.toNat)]
    | 1 => x.nans | 2 => x.infs | 3 => x.wraps | 4 => x.mmas | 5 => x.ecc
    | _ => 0

/-- Control register n as it stands (R263 and the tables it names). -/
def State.csr (s : State) (n : Nat) : Word :=
  let x := s.t.x
  let c := s.t.c
  let some1 := x.slice || x.stop || x.system
  match n with
  | 0x010 => x.flags.setWidth 64
  | 0x020 | 0x021 | 0x022 | 0x023 => (c.loop (BitVec.ofNat 2 n)).count
  | 0x024 | 0x025 | 0x026 | 0x027 =>
    let r := c.loop (BitVec.ofNat 2 n)
    csrFields [(32, r.last.toNat % 2 ^ 32), (0, r.start.toNat % 2 ^ 32)]
  | 0x028 => csrFields ((8, c.stack.length) :: c.stack.zipIdx.map fun p => (2 * p.2, p.1.toNat))
  | 0x030 => x.qwm
  | 0x031 => x.chkorg
  | 0x040 => s.t.id
  | 0x041 => csrFields [(24, s.t.prio), (12, s.t.ctx), (0, s.t.part)]
  | 0x042 => csrFields (s.t.tok.toList.zipIdx.map fun p => (5 * p.2, p.1))
  | 0x0C0 => csrFields [(0, x.fqact.toNat)]
  | 0x0C1 => x.fqpos
  | 0x0C2 => x.fqcmd
  | 0x0D0 => csrFields [(0, s.spn s.core)]
  | 0x0D1 => csrFields [(0, s.t.window)]
  | 0x0D2 => csrFields [(8, s.heldSlots s.t), (0, s.t.quota)]
  | 0x0E0 => csrFields [(0, x.vqact.toNat)]
  | 0x0E1 => x.vqcmd
  | 0x0F0 => csrFields [(0, x.mqact.toNat)]
  | 0x0F1 => x.mqcmd
  | 0x100 => x.xcause.setWidth 64
  | 0x101 => x.xpc.setWidth 64
  | 0x102 => x.xcode.setWidth 64
  | 0x103 => x.x0
  | 0x104 => x.x1
  | 0x105 => x.x2
  | 0x106 => x.x3
  | 0x107 => csrFields [(8, x.pending.length), (2, s.t.v.score.isSome.toNat), (1, x.forced.toNat), (0, x.hmode.toNat)]
  | 0x108 | 0x109 | 0x10A | 0x10B => vget x.scr (n - 0x108) 0
  | 0x10C => x.fscnt
  | 0x110 => csrFields [(32, if some1 then x.remain.toNat else 0), (2, x.system.toNat), (1, x.stop.toNat), (0, x.slice.toNat)]
  | 0x111 => x.limit.setWidth 64
  | 0x180 => csrFields [(24, (match s.ctx s.t.ctx with | some k => k.depth | none => 0)), (12, s.parent s.t.ctx), (0, s.t.ctx)]
  | 0x181 => csrFields [(32, s.own s.t.ctx 608 7), (0, s.freeFrames s.t.ctx)]
  | _ => if 0x200 ≤ n ∧ n < 0x280 then s.accReg n else 0

/-- CSRR (R263). -/
def execCsrr (S : Bool) (d : BitVec 5) (n : BitVec 12) (s : State) : Res := .next ((s.wrS d (s.csr n.toNat)).advance S)

/-- A tile counter written (R206); VERSION and KIND are read-only. -/
def State.wrAcc (s : State) (n : Nat) (v : Word) : State :=
  let a := (n - 0x200) / 8
  let x := s.tile s.core a
  if !s.t.ownsAcc a then s
  else match n % 8 with
    | 1 => s.setTile s.core a { x with nans := v }
    | 2 => s.setTile s.core a { x with infs := v }
    | 3 => s.setTile s.core a { x with wraps := v }
    | 4 => s.setTile s.core a { x with mmas := v }
    | 5 => s.setTile s.core a { x with ecc := v }
    | _ => s

/-- Control register n written, field by field under its access codes (R7, R263). Writing `XPC` discards the progress that the
interrupted word had kept (R124). -/
def State.wrCsr (s : State) (n : Nat) (v : Word) : State :=
  match n with
  | 0x030 => s.modX fun x => { x with qwm := v &&& 0x1FF7F7F }
  | 0x0C0 => s.modX fun x => { x with fqact := v.getLsbD 0 }
  | 0x0E0 => s.modX fun x => { x with vqact := if v.extractLsb' 0 2 = 3 then x.vqact else v.extractLsb' 0 2 }
  | 0x0F0 => s.modX fun x => { x with mqact := if v.extractLsb' 0 2 = 3 then x.mqact else v.extractLsb' 0 2 }
  | 0x101 =>
    let keep := fun (k : Kept) => { k with wait := none, xfer := if k.ending then .none else k.xfer, ending := false }
    (s.giveUp s.t.x.kept.wait).modX fun x => { x with xpc := v.setWidth 32, kept := keep x.kept }
  | 0x102 => s.modX fun x => { x with xcode := v.setWidth 24 }
  | 0x108 | 0x109 | 0x10A | 0x10B => s.modX fun x => { x with scr := vset x.scr (n - 0x108) v }
  | _ => if 0x200 ≤ n ∧ n < 0x280 then s.wrAcc n v else s

/-- Registers that only a handler may write (R295). -/
def handlerCsr (n : Nat) : Bool := n == 0x101 || n == 0x102 || n == 0x0C0 || n == 0x0E0 || n == 0x0F0

/-- CSRW (R263, R295): poison comes before the privilege of a register (DESIGN CHOICE, log entry 106). -/
def execCsrw (S : Bool) (d : BitVec 5) (n : BitVec 12) (s : State) : Res :=
  let w := whoOf (.csrw S d n)
  match s.poisoned w [s.pS d] with
  | some i => .next (s.trapWord i)
  | none =>
    if handlerCsr n.toNat && !s.t.x.hmode then .next (s.trapWord (privTrap w 2 0))
    else .next ((s.wrCsr n.toNat (s.sv d)).advance S)

/-- TIME (R262). -/
def execTime (S : Bool) (d : BitVec 5) (s : State) : Res := .next ((s.wrS d s.ticks).advance S)

/-- `CHK` of a register with a deferral record raises the recorded cause with DEFERRED set, and `CHKORG` receives the origin (R248). -/
def State.chk (s : State) (S : Bool) (cond : Bool) (reg : Nat) (p : Option Deferral) : Res :=
  match p with
  | none => .next (s.advance S)
  | some d =>
    let s := s.modX fun x => { x with chkorg := csrFields [(32, d.org.toNat), (5, cond.toNat), (0, reg)] }
    .next (s.trapWord { d.info with x0 := d.info.x0 ||| (1 <<< 24) })

/-- CHK_SCALAR (R248). -/
def execChkScalar (S : Bool) (a : BitVec 5) (s : State) : Res := s.chk S false a.toNat (s.rs a).poison
/-- CHK_CONDITION (R248). -/
def execChkCondition (S : Bool) (a : BitVec 3) (s : State) : Res := s.chk S true a.toNat (s.rc a).poison

/-- A fault request to Mason (R300): the word waits, and Mason's answer repeats its checks or raises the trap. -/
def State.askMason (s : State) (i : TrapInfo) : Res :=
  .next ((s.tickFresh.toMason (.fault s.reqNo s.t.ctx s.t.part i)).block .other (.sent s.reqNo))

/-- A word whose fault request is with Mason waits; a failed one traps (R300). -/
def State.afterMason (s : State) (k : Res) : Res :=
  match s.progress with
  | .sent _ => .next s
  | .failed i => .next (s.trapWord i)
  | _ => k

/-- Runs of consecutive bytes within shards. -/
def runsOf : List (Nat × Nat) → List (Nat × Nat × Nat)
  | [] => []
  | (sh, o) :: r => match runsOf r with
    | (sh2, o2, n) :: rs => if sh = sh2 ∧ o + 1 = o2 then (sh, o, n + 1) :: rs else (sh, o, 1) :: (sh2, o2, n) :: rs
    | [] => [(sh, o, 1)]

/-- The bytes of a scalar access of n bytes: from the element of the index tuple on (R52, R240). -/
def Obj.scalarRuns (o : Obj) (i : Nat → Nat) (n : Nat) : List (Nat × Nat × Nat) :=
  let eb := o.width / 8
  runsOf ((List.range n).map fun k =>
    let (sh, j) := o.locate fun q => if q = 0 then i 0 + k / eb else i q
    (sh, o.bitOff sh j / 8 + k % eb))

/-- The first trap of a scalar access up to its residency check, or the access with its byte runs (R240, R242); `al` is the alignment
that an atomic requires. -/
def State.xacc (s : State) (w : Who) (h x : Word) (n : Nat) (need : BitVec 6) (al : Nat) : Chk (Acc × List (Nat × Nat × Nat)) :=
  (s.dataChecked s.t.ctx h need w).bind fun a =>
    if a.o.layout ≠ 0 ∨ a.o.width < 8 then .trap (boundsTrap w 8 a.h a.oid.toNat 0 0 0)
    else
      let i := a.o.tuple x.toNat
      let cnt := fun j => if j = 0 then cdiv (8 * n) a.o.width else 1
      match boundsChecked a i cnt w [0, 1, 2, 3] with
      | some t => .trap t
      | none =>
        let (sh0, j0) := a.o.locate i
        let off := a.o.bitOff sh0 j0 / 8
        if off % al ≠ 0 then .trap (alignTrap w 3 x (Nat.log2 al))
        else
          let rs := a.o.scalarRuns i n
          if rs.any fun r => s.shardStalls a.o r.1 need then .stall
          else if rs.any fun r => s.placeOf a.o r.1 = 3 then .trap (missingTrap w a.h a.oid.toNat (off / 65536))
          else .ok (a, rs)

/-- Reads of byte runs through the L1 (R131); the subcode of a FETCH-ERROR with the shard where it arose. -/
def State.readRuns (s : State) (a : Acc) (l1 : Bool) : List (Nat × Nat × Nat) → State × Except (Nat × Nat) (List Byte)
  | [] => (s, .ok [])
  | (sh, off, n) :: rs => match s.readObj s.core s.t.ctx a.oid a.o sh off n false l1 with
    | (s1, .error e) => (s1, .error (e, sh))
    | (s1, .ok bs) => match s1.readRuns a l1 rs with
      | (s2, .ok more) => (s2, .ok (bs ++ more))
      | r => r

/-- Writes of byte runs; the subcode of the first FETCH-ERROR with the shard where it arose (R74, R99). -/
def State.writeRuns (s : State) (a : Acc) : List (Nat × Nat × Nat) → List Byte → State × Option (Nat × Nat)
  | [], _ => (s, none)
  | (sh, off, n) :: rs, bs =>
    let (s1, e1) := s.writeObj s.core s.t.ctx a.oid a.o sh off (bs.take n) false
    let (s2, e2) := s1.writeRuns a rs (bs.drop n)
    (s2, match e1 with | some e => some (e, sh) | none => e2)

/-- FETCH-ERROR of an access to an object, its subcode given with the shard where it arose: the tier or the peer that served it (R58, R73). -/
def State.fetchTrap (s : State) (w : Who) (a : Acc) (e : Nat × Nat) : TrapInfo :=
  let place := s.readPlace a.o e.2
  fetchErrTrap w e.1 a.h a.oid.toNat place (if place < 2 then s.boot.ep.toNat else (s.nearest a.o e.2).toNat)

/-- A request that has had no reply is waited for until the time that its place allows is over (R73): the moment from which it counts, or
none when it is over. -/
def State.unanswered (s : State) (p : Progress) (sub : Nat) : Option Word :=
  let t := match p with | .asked t => t | _ => s.ticks
  if (sub = 2 ∨ sub = 3) ∧ (s.ticks - t).toNat < Config.replyTicks (sub == 3) then some t else none

/-- A word whose request has no reply yet waits with its access resolved; otherwise its error has its effect (R55, R73). -/
def State.orNoReply (s : State) (wake : Wake) (e : Nat × Nat) (k : Res) : Res :=
  match s.unanswered s.progress e.1 with
  | some t => .next (s.block wake (.asked t))
  | none => k

/-- An object as the access to it that has been resolved knows it (R55). -/
def resolvedAcc (h : Nat) (oid : BitVec 48) (o : Obj) : Acc := { h := h, oid := oid, e := HEntry.free, o := o }

/-- The access that the word at hand has resolved: it completes whatever later happens to its entry, and the word makes no check again (R55).
With it its runs and the operands that it has read. -/
def State.resolved (s : State) : Option (Acc × List (Nat × Nat × Nat) × Word × Word) :=
  match s.t.c.wait with
  | some w => match w.wake with
    | .access _ h oid rs v v2 => (s.obj oid).map fun o => (resolvedAcc h oid o, rs, v, v2)
    | _ => none
  | none => none

/-- A read of byte runs awaits a line from its tier (R88). -/
def State.runsMiss (s : State) (a : Acc) (l1 : Bool) (rs : List (Nat × Nat × Nat)) : Bool :=
  (runLines rs).any fun l => (s.missOf s.core l1 a.oid a.o l.1 l.2).isSome

/-- The lines of byte runs that their request awaits are reserved for it (R88). -/
def State.reserveRuns (s : State) (a : Acc) (l1 : Bool) (rs : List (Nat × Nat × Nat)) : State :=
  (runLines rs).foldl (fun s l => s.reserveLine s.core s.t.ctx l1 a.oid a.o l.1 l.2) s

/-- A resolved access that holds the control engine reads its bytes: one that misses sends its requests first, its lines being reserved, and reads
when it goes on (R88). -/
def State.onceRead (s : State) (i : Instr) (a : Acc) (l1 : Bool) (rs : List (Nat × Nat × Nat)) (v v2 : Word) (k : Res) : Res :=
  match s.progress with
  | .asked _ => k
  | _ => if s.runsMiss a l1 rs then .next ((s.reserveRuns a l1 rs).block (.access i a.h a.oid rs v v2) (.asked s.ticks)) else k

/-- A write of the task goes on in the background before which an access to an object may not come: one to the same object, or both to coherent
objects (R230, R237, R240). -/
def State.storesHold (s : State) (a : Acc) : Bool :=
  s.t.c.stores.any fun p => p.oid == a.oid || (a.o.coherent && match s.obj p.oid with | some o => o.coherent | none => false)

/-- The frames and dirty-log entries of the runs of a write, before any byte is written (R301, R303). -/
def State.prepRuns (s : State) (a : Acc) : List (Nat × Nat × Nat) → WPrep
  | [] => .ready s
  | (sh, off, n) :: rs => match State.prepPages s.die s.t.ctx a.oid a.o sh (pagesOf off n) s with
    | .ready s1 => s1.prepRuns a rs
    | r => r

/-- The code object of the words in a task's queues: a handler queues none, so it is the interrupted code while one runs (R296, R297). -/
def State.queueCode (s : State) : BitVec 24 := if s.t.x.hmode then s.t.x.xcode else s.t.c.codeH

/-- The first write stalled on a full ring in an episode delivers DIRTY-LOG-FULL to the parent (R303, R323, R324). -/
def State.tellLogFull (s : State) (c : Nat) (oid : BitVec 48) (page : Nat) (code : BitVec 24) (xpc : BitVec 32) : State :=
  match s.newEpisode c with
  | none => s
  | some s1 => s1.deliverEvent c s.t.id fun chain =>
      eventRec none (oid.setWidth 64) (BitVec.ofNat 64 page) code chain s.t.id xpc s.t.part 0 0x0F 3

/-- XLD's failed check: a trap at the word, a request to Mason, or, when speculative, a poisoned zero (R240, R300). -/
def State.xldFail (s : State) (S : Bool) (d : BitVec 5) (spec : Bool) (i : TrapInfo) : Res :=
  if spec then .next (((s.reportTrap i).wrSP d 0 (some { info := i, org := s.wordOff.setWidth 32 })).advance S)
  else if i.cause = .missingObject then s.askMason i
  else .next (s.trapWord i)

/-- The value of n bytes read by XLD, sign-extended under x (R240). -/
def xldVal (x : Bool) (n v : Nat) : Word := if x then (BitVec.ofNat (8 * n) v).signExtend 64 else BitVec.ofNat 64 v

/-- A resolved XLD: its bytes are read through the L1, or it waits (R55, R73, R88, R131, R240). -/
def State.load (s : State) (S : Bool) (i : Instr) (d : BitVec 5) (x p : Bool) (n : Nat) (a : Acc) (rs : List (Nat × Nat × Nat)) : Res :=
  let wake := Wake.access i a.h a.oid rs 0 0
  if s.storesHold a then .next (s.block wake .plain)
  else s.onceRead i a true rs 0 0 <| match s.readRuns a true rs with
    | (s1, .error e) => s.orNoReply wake e ((s1.unpendRuns a.oid rs).xldFail S d p (s1.fetchTrap (whoOf i) a e))
    | (s1, .ok bs) => .next ((s1.wrS d (xldVal x n (leNat bs))).advance S)

/-- XLD (R240). `x` sign-extends, `p` is the speculative flag. A value that arrived while the task was saved is delivered now (R307). -/
def execXld (S : Bool) (d a b : BitVec 5) (x p : Bool) (n : BitVec 2) (s : State) : Res :=
  let i := Instr.xld S d a b x p n
  let len := 2 ^ n.toNat
  match s.progress with
  | .sent _ => .next s
  | .failed t => if p then s.xldFail S d p t else .next (s.trapWord t)
  | .answered v => .next ((s.wrS d (xldVal x len v.toNat)).advance S)
  | _ => match s.resolved with
    | some (acc, rs, _) => s.load S i d x p len acc rs
    | none => match s.poisoned (whoOf i) [s.pS a, s.pS b] with
      | some t => if p then .next ((s.wrSP d 0 (firstPoison [(s.rs a).poison, (s.rs b).poison])).advance S) else .next (s.trapWord t)
      | none => match s.xacc (whoOf i) (s.sv a) (s.sv b) len rREAD 1 with
        | .stall => .next (s.block .other .plain)
        | .trap t => s.xldFail S d p t
        | .ok (acc, rs) => s.load S i d x p len acc rs

/-- A write by the control engine that ended in FETCH-ERROR after it was resolved: a non-halting trap (R240). -/
def State.lateTrap (s : State) (i : Option TrapInfo) : State :=
  match i with
  | none => s
  | some t => s.pendTrap 0 t 0 0 false

/-- The preparation of a word's write: with its pages ready it goes on; without a frame it asks Mason; at a full or moving ring it waits
(R300, R301, R303). -/
def State.whenPrepared (s : State) (w : Who) (a : Acc) (rs : List (Nat × Nat × Nat)) (k : State → Res) : Res :=
  match s.prepRuns a rs with
  | .noFrame sub page => s.askMason (frameTrap w sub a.h a.oid.toNat page)
  | .logFull c =>
    let page := match rs with | (_, off, _) :: _ => off / 65536 | [] => 0
    .next ((s.tellLogFull c a.oid page s.t.c.codeH (s.wordOff.setWidth 32)).block .other .plain)
  | .stall => .next (s.block .other .plain)
  | .ready s1 => k s1

/-- A write joins those that the task has in the background, its lines being reserved (R88, R240). -/
def State.storeLater (s : State) (a : Acc) (p : PStore) : State :=
  (s.reserveRuns a false p.runs).modC fun c => { c with stores := c.stores ++ [p] }

/-- A resolved XST: its pages are prepared, and its bytes are written, at once or in the background, where they keep the stream's order (R240,
R300, R301, R303; DEDUCED, log entry 100). -/
def State.xstore (s : State) (S : Bool) (w : Who) (a : Acc) (rs : List (Nat × Nat × Nat)) (bs : List Byte) : Res :=
  s.whenPrepared w a rs fun s1 =>
    let p : PStore := { eng := w.eng, op := w.op, h := a.h, oid := a.oid, runs := rs, bytes := bs, since := s.ticks }
    if !s1.t.c.stores.isEmpty then .next ((s1.storeLater a p).advance S)
    else match s1.writeRuns a rs bs with
      | (s2, none) => .next (s2.advance S)
      | (s2, some e) => match s.unanswered .plain e.1 with
        | some _ => .next ((s1.storeLater a p).advance S)
        | none => .next ((s2.lateTrap (some (s.fetchTrap w a e))).advance S)

/-- The writes of the task under execution that go on in the background are performed in their order, at most n of them, up to one whose place
still sends no reply (R73, R240). -/
def State.runStores : Nat → State → State
  | 0, s => s
  | n + 1, s => match s.t.c.stores with
    | [] => s
    | p :: ps =>
      let rest := fun (s : State) => s.modC fun c => { c with stores := ps }
      match s.obj p.oid with
      | none => State.runStores n (rest s)
      | some o =>
        let a := resolvedAcc p.h p.oid o
        match s.writeRuns a p.runs p.bytes with
        | (s1, none) => State.runStores n (rest s1)
        | (s1, some e) => match s.unanswered (.asked p.since) e.1 with
          | some _ => s
          | none => State.runStores n ((rest (s1.unpendRuns p.oid p.runs)).lateTrap (some (s.fetchTrap { eng := p.eng, op := p.op } a e)))

/-- The same for every task that runs, as time passes or a place answers again. -/
def State.storesGo (s : State) : State :=
  ((s.tasks.filter fun t => t.st == .running && !t.c.stores.isEmpty).map (·.id)).foldl
    (fun s id => s.asTask id fun s => State.runStores s.t.c.stores.length s) s

/-- XST (R240). -/
def execXst (S : Bool) (d a b : BitVec 5) (n : BitVec 2) (s : State) : Res :=
  let w := whoOf (.xst S d a b n)
  let len := 2 ^ n.toNat
  s.afterMason <|
    match s.poisoned w [s.pS a, s.pS b, s.pS d] with
    | some i => .next (s.trapWord i)
    | none => match s.xacc w (s.sv a) (s.sv b) len rWRITE 1 with
      | .stall => .next (s.block .other .plain)
      | .trap i => if i.cause = .missingObject then s.askMason i else .next (s.trapWord i)
      | .ok (acc, rs) => s.xstore S w acc rs (leBytes len (s.sv d).toNat)

/-- PFX joins the next word of its group (R21). In a handler it raises PRIVILEGE with the engine and op of the word it joins
(R297, R352). -/
def execPfx (p : BitVec 28) (s : State) : Res :=
  if s.t.x.hmode then
    let w := (s.wordAhead 1).getD 0
    .next (s.trapWord (privTrap { eng := (w.extractLsb' 28 3).toNat, op := (w.extractLsb' 21 7).toNat } 3 0))
  else .next (s.modC fun c => { c with pfx := some p, pc := c.pc + 1 })

/-- A trap to be taken at the boundary or an image still to be copied comes before the group (R124, R270, R272). In a handler only the code that
a placement could not enter holds it (R245). -/
def State.held (s : State) : Bool :=
  s.t.entryTrap.isSome || (!s.t.x.hmode && (!s.t.starts.isEmpty || !s.t.x.pending.isEmpty || s.t.image))

/-- The lines that hold n words of a code object from a word on, by shard and byte offset. -/
def Obj.codeLines (o : Obj) (off n : Nat) : List (Nat × Nat) :=
  ((List.range n).map fun k =>
    let (sh, i) := o.locate (o.tuple (off + k))
    (sh, o.bitOff sh i / 512 * 64)).eraseDups

/-- The code of a task as an access of its control engine. -/
def State.codeAcc (s : State) : Option Acc :=
  (s.obj s.t.c.codeO).map fun o => { h := s.t.c.codeH.toNat, oid := s.t.c.codeO, e := HEntry.free, o := o }

/-- The flits that the reads of lines of a code object send to other packages (R71). -/
def State.askCode (s : State) (o : Obj) (ls : List (Nat × Nat)) : State :=
  ls.foldl (fun s l => if s.elsewhere o l.1 then s.askEp s.t.ctx (s.nearest o l.1) else s) s

/-- The words of the next group are read, or the read of one of their lines fails (R73, R74, R97): the group then waits for a reply as long as
its place allows, and afterwards FETCH-ERROR is precise at the group (DESIGN CHOICE, log entry 111). -/
def State.readCode (s : State) (n : Nat) (k : State → Res) : Res :=
  match s.codeAcc with
  | none => k s
  | some a =>
    let ls := a.o.codeLines s.t.c.pc.toNat n
    match ls.find? fun l => (s.lineFault a.oid a.o l.1 l.2).isSome with
    | none => k ((s.askCode a.o ls).modT fun t => { t with startAsk := .plain })
    | some l =>
      let e := (s.lineFault a.oid a.o l.1 l.2).getD 1
      match s.unanswered s.t.startAsk e with
      | some t => .next (s.modT fun u => { u with startAsk := .asked t })
      | none =>
        let i := s.fetchTrap { eng := 0, op := 0 } a (e, l.1)
        if s.handlerWaits i.cause then .next s
        else .next (((s.failLine s.t.ctx a.oid a.o l.1 l.2 e).modT fun t => { t with startAsk := .plain }).takeTrap i s.t.c.pc s.boundaryKept)

/-- GROUP_CHECK: the next group is checked whole before any word of it takes effect (R28). -/
def execGroupCheck (s : State) : Res :=
  if s.t.st ≠ .running ∨ s.t.c.phase ≠ .boundary ∨ s.held then .next s
  else s.readCode (s.groupWords s.t.c.codeO (s.codeLen s.t.c.codeO) 8 s.t.c.pc.toNat).length fun s =>
    let ws := s.groupWords s.t.c.codeO (s.codeLen s.t.c.codeO) 8 s.t.c.pc.toNat
    let s := s.modC fun c => { c with grp := c.pc, words := ws }
    match s.groupViolation s.t.c.pc with
    | some i =>
      .next (if s.handlerWaits i.cause then s else s.takeTrap i s.t.c.pc { wait := none, xfer := s.t.c.xfer, ending := false })
    | none => .next (s.modC fun c => { c with phase := .checked })

/-- GROUP_ADMIT: a checked group is admitted whole, or the control engine stalls (R29). -/
def execGroupAdmit (s : State) : Res :=
  if s.t.st ≠ .running ∨ s.t.c.phase ≠ .checked then .next s
  else if s.canAdmit then .next (s.modC fun c => { c with phase := .running })
  else .next s

end Sys2Proof.Machine
end

