-- ==== Sys2Proof/Machine/Mason.lean ====
section
/-!
DEFINITION. Mason's services (R62, R65 to R70, R77): creation, deletion, sealing, replicas, moves, residency triggers and host
windows; the handle sweep (R322) and the answers to requests (R300).
-/

namespace Sys2Proof.Machine

/-- The statuses of a service (R62). -/
def stUNKNOWN : Word := -1
/-- BAD-ARGUMENT (R62). -/
def stBAD : Word := -2
/-- NO-RIGHTS (R62). -/
def stRIGHTS : Word := -3
/-- NO-SPACE (R62). -/
def stSPACE : Word := -4
/-- BUSY (R62). -/
def stBUSY : Word := -5

/-- The smallest number from lo up to and excluding hi that is not used. -/
def lowestFree (used : List Nat) (lo hi : Nat) : Option Nat :=
  ((List.range (used.length + 1)).map (lo + ·)).find? fun n => n < hi && !used.contains n

/-- The lowest free handle of a context (R60). -/
def State.freeHandle (s : State) (ctx : Nat) : Option Nat :=
  lowestFree ((s.handles.filter fun p => p.1 / 2 ^ 24 == ctx && p.2.st != .free).map fun p => p.1 % 2 ^ 24) 1 (s.tableSize ctx)

/-- A handle-table entry written. -/
def State.setH (s : State) (ctx h : Nat) (e : HEntry) : State := { s with handles := alSet s.handles (hkey ctx h) e }

/-- Whether the chain of derivation links of an entry reaches entry (ctx, h), itself excluded (R322). -/
def State.derives (s : State) (ctx h : Nat) : Nat → HEntry → Bool
  | 0, _ => false
  | n + 1, e =>
    e.pctx != 0xFFF && ((e.pctx.toNat == ctx && e.phandle.toNat == h) || s.derives ctx h n (s.hentry e.pctx.toNat e.phandle.toNat))

/-- A trigger whose target's handle is among those that have gone (R70). -/
def Trigger.lose (keys : List Nat) (t : Trigger) : Trigger :=
  if keys.contains (hkey t.ctx (t.tg.extractLsb' 64 24).toNat) then { t with gone := true } else t

/-- A request of a trigger likewise. -/
def Req.lose (keys : List Nat) (r : Req) : Req :=
  match r with
  | .trigger t => .trigger (t.lose keys)
  | r => r

/-- Handles have been revoked, dropped or freed: the triggers that name them, installed or fired, are to be discarded (R70). -/
def State.loseHandles (s : State) (keys : List Nat) : State :=
  { s with trigs := s.trigs.map (Trigger.lose keys), fired := s.fired.map (Trigger.lose keys), intake := s.intake.map fun p => (p.1, p.2.lose keys),
           mason := s.mason.map (Req.lose keys) }

/-- The sweep of R322: every LIVE entry derived from (ctx, h), and that entry too unless `kids`, becomes REVOKED, and host windows of
revoked handles close (R77). The number counts the revoked. -/
def State.sweep (s : State) (ctx h : Nat) (kids : Bool) : State × Nat :=
  let hit := fun (p : Nat × HEntry) => (p.2.st == .live && s.derives ctx h s.handles.length p.2) || (!kids && p.1 == hkey ctx h)
  let gone := (s.handles.filter hit).map (·.1)
  ({ s with handles := s.handles.map fun p => if hit p then (p.1, { p.2 with st := .revoked }) else p,
            wins := s.wins.filter fun w => !gone.contains (hkey w.ctx w.handle.toNat) }.loseHandles gone, gone.length)

/-- Requests that were resolved to an object and have not completed (R55, R66), of every engine. Line writes that wait for the rest of their lines are sent
before a move copies the object (`State.sendWaiting`). DEDUCED, log entry 97. -/
def State.objBusy (s : State) (oid : BitVec 48) : Bool :=
  s.tasks.any fun t => t.accesses.contains oid || t.f.open_.any fun a => a.outst.any fun r => r.oid == oid || r.oid2 == oid

/-- A task runs from a code object (R245). -/
def State.codeBusy (s : State) (oid : BitVec 48) : Bool := s.tasks.any fun t => t.st == .running && t.c.codeO == oid

/-- Lines of an object leave every L1 (R91, R131, R234). -/
def State.dropL1 (s : State) (oid : BitVec 48) : State := { s with l1 := s.l1.filter fun x => x.oid != oid }

/-- Page keys of an object that hold a frame. -/
def State.pagesHeld (s : State) (oid : BitVec 48) : List Nat := (s.pages.filter fun p => p.1 / 2 ^ 35 == oid.toNat).map (·.1)

/-- Page keys of an object that hold a written or a poisoned byte outside this package's tiers. -/
def State.remotePages (s : State) (oid : BitVec 48) : List Nat :=
  (((s.remote.map (·.1) ++ s.remoteBad).filter fun a => a / 2 ^ 52 == oid.toNat).map fun a =>
    a / 2 ^ 41 * 2 ^ 24 + a % 2 ^ 41 / 2 ^ 16).eraseDups

/-- The key of the first byte of a page held elsewhere. -/
def remOfPage (key : Nat) : Nat := key / 2 ^ 24 * 2 ^ 41 + key % 2 ^ 24 * 2 ^ 16

/-- An object is deleted (R62): its frames, lines, windows and moves go, and entries that name it take OBJECT-GONE. Its home map goes
with it. -/
def State.removeObj (s : State) (oid : BitVec 48) : State :=
  let one := fun (s : State) (oid : BitVec 48) =>
    let s := ((s.pagesHeld oid).foldl State.freePage s).dropL1 oid
    { s with objs := alDel s.objs oid.toNat, remote := s.remote.filter fun c => c.1 / 2 ^ 52 != oid.toNat,
             replBad := s.replBad.filter fun a => a % 2 ^ 100 / 2 ^ 52 != oid.toNat,
             wins := s.wins.filter fun w => w.oid != oid }
  match s.obj oid with
  | none => s
  | some o => ((if o.shcnt = 0 then s else one s o.hmap) |> fun s => one s oid).settle

/-- Every index tuple of a box of counts. -/
def boxTuples (cnt : Nat → Nat) : List (Nat → Nat) :=
  (List.range (cnt 0 * cnt 1 * cnt 2 * cnt 3)).map fun k j => match j with
    | 0 => k % cnt 0
    | 1 => k / cnt 0 % cnt 1
    | 2 => k / (cnt 0 * cnt 1) % cnt 2
    | _ => k / (cnt 0 * cnt 1 * cnt 2)

/-- The lines, by shard and byte offset, that hold the elements of a list of tuples and their scales. -/
def Obj.linesOf (o : Obj) (is : List (Nat → Nat)) : List (Nat × Nat) :=
  (is.flatMap fun i =>
    let (sh, j) := o.locate i
    let p := o.bitOff sh j
    [(sh, p / 512 * 64), (sh, (p + o.width - 1) / 512 * 64)] ++
      (if o.layout = 3 then [(sh, o.scaleOff sh j / 64 * 64)] else [])).eraseDups

/-- A line prefetched into the L2 for a context, or its superblock pinned (R70, R119). A line of another package is filled there, and the
egress weir charges the context (R71); a page without a frame takes nothing. -/
def State.prefetchLine (s : State) (ctx : Nat) (oid : BitVec 48) (o : Obj) (pin : Bool) (sh off : Nat) : State :=
  if s.elsewhere o sh then s.askEp ctx (s.nearest o sh)
  else match s.frameOf oid sh (off / 65536) with
    | none => s
    | some f => if pin then s.l2pin ctx (physAddr f off) else (s.l2fill ctx (physAddr f off) false false).1

/-- Lines prefetched for a trigger (R70): it never traps, and one that cannot be read takes nothing. -/
def State.prefetch (s : State) (ctx : Nat) (oid : BitVec 48) (o : Obj) (ls : List (Nat × Nat)) : State :=
  ls.foldl (fun s l => match s.lineFault oid o l.1 l.2 with
    | some e => s.failLine ctx oid o l.1 l.2 e
    | none => s.prefetchLine ctx oid o false l.1 l.2) s

/-- A request is answered (R62). Number 0 awaits none. -/
def State.reply (s : State) (no : Nat) (v : Word) : State :=
  if no = 0 then s else { s with replies := s.replies ++ [(no, v)] }

/-- Whether a tier target names the place where the object lies already, for a sharded object that of its shards here; an absent object lies
in none (R52, R65). -/
def Obj.atTier (o : Obj) (tier : Nat) : Bool := o.res != 3 && (if o.shcnt = 0 then o.res.toNat else o.res.toNat % 2) == tier

/-- n frames of a tier, from the pool of the given die first and then from those after it (DESIGN CHOICE, log entry 19); none when the tier
has fewer. -/
def State.takeFrames (s : State) (die tier n : Nat) : Option (List (BitVec 32) × State) :=
  let r := (List.range 4).foldl (fun (acc : List (BitVec 32) × State) k =>
    let d := (die + k) % 4
    let p := acc.2.pool d tier
    let m := n - acc.1.length
    (acc.1 ++ p.take m, { acc.2 with pools := alSet acc.2.pools (d * 2 + tier) (p.drop m) })) ([], s)
  if r.1.length = n then some r else none

/-- A context has set an object as its event ring or as a dirty-log ring: every page of it holds a frame (R324, R325). -/
def State.isRing (s : State) (oid : BitVec 48) : Bool :=
  s.ctxs.any fun p => (p.2.ring != 0 && (s.hentry p.1 p.2.ring.toNat).oid == oid)
    || p.2.log.any fun l => (s.hentry l.rctx l.ring.toNat).oid == oid

/-- Page keys of all pages of an object that is not sharded. -/
def Obj.allPages (o : Obj) (oid : BitVec 48) : List Nat := (List.range (cdiv (o.shardBytes 0) 65536)).map (pageKey oid 0)

/-- A page is of a shard that is homed here (R52). -/
def State.homedHere (s : State) (o : Obj) (key : Nat) : Bool := s.shardEp o (key / 2 ^ 24 % 2 ^ 11) == s.boot.ep

/-- The pages of an object that a move to this package's tiers gives frames: those of its home that hold one here; or what a peer or Mason's
store holds of it, of a ring every page (R324), of a sharded object that is absent the shards that are homed here (R52, R68). -/
def State.movePages (s : State) (oid : BitVec 48) (o : Obj) : List Nat :=
  if o.shcnt = 0 then
    if o.res.toNat < 2 then s.pagesHeld oid else if s.isRing oid then o.allPages oid else s.remotePages oid
  else (if o.res = 3 then s.remotePages oid else s.pagesHeld oid).filter (s.homedHere o)

/-- A move to a peer finds the frames there that it needs, which is the peer's matter (R65; DESIGN CHOICE, log entry 123). -/
def State.peerTakes (s : State) (oid : BitVec 48) (o : Obj) : Bool :=
  (if o.res.toNat < 2 then s.pagesHeld oid else s.remotePages oid).isEmpty || Config.peerRoom s.fresh

/-- n frames of a tier for pages that an object newly holds here, within its owner's quota (R65, R301). -/
def State.moveFrames (s : State) (die : Nat) (o : Obj) (res : BitVec 2) (fresh n : Nat) : Option (List (BitVec 32) × State) :=
  if o.ownerEp == s.boot.ep && o.ownerCtx != 0 && decide (s.freeFrames o.ownerCtx.toNat < fresh) then none
  else s.takeFrames die res.toNat n

/-- A move begins (R66): its frames are taken, and the object freezes. None when the target tier lacks frames within the owner's
quota (R65). -/
def State.beginMove (s : State) (no die : Nat) (oid : BitVec 48) (o : Obj) (res : BitVec 2) (ep : BitVec 12) : Option State :=
  let keys := if res = 2 then [] else s.movePages oid o
  let fresh := countIf (fun k => (alGet s.pages k).isNone) keys
  if res = 2 ∧ !s.peerTakes oid o then none else (s.moveFrames die o res fresh keys.length).map fun r =>
    let m : Move := { oid := oid, res := res, ep := ep, die := die, frames := keys.zip r.1, copied := false, no := no }
    { (r.2.setObj oid { o with moving := true }) with moves := s.moves ++ [m] }

/-- The frame of a page of which this package is the home (R51); a replica's frame is none (R58). -/
def State.homeFrame (s : State) (key : Nat) : Option (BitVec 32) :=
  match s.obj (BitVec.ofNat 48 (key / 2 ^ 35)) with
  | some o => if s.placeOf o (key / 2 ^ 24 % 2 ^ 11) < 2 then alGet s.pages key else none
  | none => alGet s.pages key

/-- The bytes of a page as its present home holds them, once the L2 has written them back. -/
def State.pageBytes (s : State) (key : Nat) : Mem :=
  match s.homeFrame key with
  | some f => (s.mem.filter fun c => c.1 / 65536 == f.toNat).map fun c => (c.1 % 65536, c.2)
  | none => (s.remote.filter fun c => remOfPage key ≤ c.1 && c.1 < remOfPage key + 65536).map fun c => (c.1 - remOfPage key, c.2)

/-- The offsets of a page's poisoned lines at its present home (R74). -/
def State.pageBad (s : State) (key : Nat) : List Nat :=
  match s.homeFrame key with
  | some f => (s.bad.filter fun a => a / 65536 == f.toNat).map (· % 65536)
  | none => (s.remoteBad.filter fun a => remOfPage key ≤ a && a < remOfPage key + 65536).map (· - remOfPage key)

/-- A move is abandoned (R66): the frames taken return, what a local object had left at the peer goes, the object thaws in its old home, and
Mason logs the fault. -/
def State.abandonMove (s : State) (m : Move) : State :=
  match s.obj m.oid with
  | none => s
  | some o =>
    let s := m.frames.foldl (fun s p => s.freeFrame p.2) s
    let s := if m.res = 2 ∧ o.res.toNat < 2 then { s with
        remote := s.remote.filter fun c => c.1 / 2 ^ 52 != m.oid.toNat
        remoteBad := s.remoteBad.filter fun a => a / 2 ^ 52 != m.oid.toNat } else s
    (({ s with moves := s.moves.filter fun x => x.oid != m.oid, reports := s.reports ++ [Report.copyFailed m.oid] }.setObj m.oid
      { o with moving := false }).reply m.no stBUSY).settle

/-- The pages of an object copied for a move, each as it stands, a poisoned line remaining one (R66, R74), once the slices have written back
and invalidated the lines of its frames (R91). -/
def State.copyPages (s : State) (m : Move) : State :=
  let frames := (s.pagesHeld m.oid).filterMap fun k => alGet s.pages k
  let s := (frames.foldl (fun s f => s.l2invalidate f.toNat true) s).dropL1 m.oid
  let s := if m.res = 2 then
      (s.pagesHeld m.oid).foldl (fun s k =>
        { s with remote := (s.pageBytes k).foldl (fun r c => r.write (remOfPage k + c.1) [c.2]) s.remote,
                 remoteBad := s.remoteBad ++ (s.pageBad k).map (remOfPage k + ·) }) s
    else m.frames.foldl (fun (s : State) p =>
      let old := s.pageBytes p.1
      let moved := (s.pageBad p.1).map (p.2.toNat * 65536 + ·)
      let s := s.zeroFrame p.2
      { s with mem := old.foldl (fun r c => r.write (p.2.toNat * 65536 + c.1) [c.2]) s.mem, bad := s.bad ++ moved }) s
  { s with moves := s.moves.map fun x => if x.oid == m.oid then { m with copied := true } else x }

/-- MOVE_COPY of a move (R66): pages that requests resolved before the freeze have written since then get their frames too; where they lack them
the copy fails. -/
def State.copyMove (s : State) (m : Move) : State :=
  match s.obj m.oid with
  | none => s
  | some o =>
    let keys := if m.res = 2 then [] else (s.movePages m.oid o).filter fun k => !(m.frames.any fun p => p.1 == k)
    match s.moveFrames m.die o m.res (countIf (fun k => (alGet s.pages k).isNone) keys) keys.length with
    | none => s.abandonMove m
    | some r => r.2.copyPages { m with frames := m.frames ++ keys.zip r.1 }

/-- The frames that the home gives up are a replica's from now on: a sealed object leaves a package that REPL names too (R67). -/
def State.keepsReplica (s : State) (m : Move) (o : Obj) : Bool := m.res == 2 && o.sealed && o.repl.contains s.boot.ep

/-- The object thaws in its new home (R66): XMAP, RES and HOME change at once, the cached extents go, the old frames return. -/
def State.commitMove (s : State) (m : Move) : State :=
  match s.obj m.oid with
  | none => s
  | some o =>
    let old := s.pages.filter fun p => p.1 / 2 ^ 35 == m.oid.toNat && !s.keepsReplica m o && (m.res == 2 || m.frames.any fun q => q.1 == p.1)
    let kept := s.pages.filter fun p => !(old.any fun q => q.1 == p.1)
    let gone := fun (a : Nat) => m.frames.any fun p => p.1 == a / 2 ^ 41 * 2 ^ 24 + a % 2 ^ 41 / 2 ^ 16
    let s1 := { s with
      pages := m.frames.foldl (fun l (q : Nat × BitVec 32) => alSet l q.1 q.2) kept,
      remote := s.remote.filter fun c => !gone c.1,
      remoteBad := s.remoteBad.filter fun a => !gone a,
      xcache := s.xcache.filter fun p => p.1 / 2 ^ 35 != m.oid.toNat,
      moves := s.moves.filter fun x => x.oid != m.oid }
    let s2 := old.foldl (fun s p => s.freeFrame p.2) s1
    let o' := { o with moving := false, res := m.res, home := if m.res = 2 then m.ep else s.boot.ep,
                       xmap := Config.extentRoot s.fresh }
    ((s2.tickFresh.setObj m.oid o').reply m.no 0).settle

/-- Bits of a record. -/
def recBits (bs : List Byte) (lo w : Nat) : Nat := leNat bs / 2 ^ lo % 2 ^ w

/-- What a service comes to: it waits for a frozen object, or it answers. -/
inductive Served where
  | waits
  | done (s : State) (v : Word)
  | begun (s : State)

/-- The object of a creation record (R62). -/
def recObj (bs : List Byte) (ep ctx hmap xmap : Nat) : Obj :=
  let f := recBits bs
  { rank := BitVec.ofNat 3 (f 0 3), coherent := f 3 1 == 1, sealed := false, hostsh := f 4 1 == 1, fmt := BitVec.ofNat 4 (f 5 4),
    mxk := BitVec.ofNat 2 (f 9 2), layout := BitVec.ofNat 2 (f 11 2), ext := Vector.ofFn fun j => BitVec.ofNat 32 (f (64 + 32 * j.val) 32),
    shsize := BitVec.ofNat 32 (f 192 32), shcnt := BitVec.ofNat 11 (f 224 11), split := BitVec.ofNat 2 (f 235 2),
    home := BitVec.ofNat 12 ep, res := BitVec.ofNat 2 (f 13 2), moving := false, version := 0, keyslot := BitVec.ofNat 13 (f 16 13),
    hmap := BitVec.ofNat 48 hmap, ownerEp := BitVec.ofNat 12 ep, ownerCtx := BitVec.ofNat 12 ctx, repl := [],
    xmap := BitVec.ofNat 32 xmap, rsv := 0, pubs := [] }

/-- The home map of a new sharded object: a coherent rank-1 U16 object of Mason's, under a key slot of Mason's own (R52, R329). Every shard
starts on this package (DESIGN CHOICE, log entry 21). -/
def homeMap (ep n xmap : Nat) : Obj :=
  { rank := 1, coherent := true, sealed := false, hostsh := false, fmt := 13, mxk := 0, layout := 0,
    ext := Vector.ofFn fun j => if j.val = 0 then BitVec.ofNat 32 n else 1, shsize := BitVec.ofNat 32 n, shcnt := 0, split := 0,
    home := BitVec.ofNat 12 ep, res := 0, moving := false, version := 0, keyslot := Config.masonSlot, hmap := 0,
    ownerEp := BitVec.ofNat 12 ep, ownerCtx := 0, repl := [], xmap := BitVec.ofNat 32 xmap, rsv := 0, pubs := [] }

/-- Whether a context holds a key slot (R312). -/
def State.holdsKey (s : State) (ctx k : Nat) : Bool :=
  s.ctxField ctx 595 13 ≤ k && k < s.ctxField ctx 595 13 + s.ctxField ctx 581 14

/-- CREATE (R62, R68). Sequence numbers are never reused: once they are spent it answers NO-SPACE (R45). The home map of a sharded object takes
its frame at once, from the fast pool of the caller's die, and NO-SPACE is the answer when that has none (DESIGN CHOICE, log entry 21).
DESIGN CHOICE, log entry 6. DEDUCED, log entry 46. -/
def State.svcCreate (s : State) (ctx die : Nat) (bs : List Byte) : Served :=
  let f := recBits bs
  let ep := s.boot.ep.toNat
  let oid := ep * 2 ^ 36 + s.nextObj
  let sharded := f 224 11 != 0
  let o := recObj bs ep ctx (if sharded then oid + 1 else 0) (Config.extentRoot s.fresh).toNat
  let frames := ((List.range (o.shcnt.toNat + 1)).map fun sh => cdiv (o.shardBytes sh) 65536).sum
  if f 237 275 ≠ 0 ∨ f 29 35 ≠ 0 ∨ f 15 1 ≠ 0 ∨ 2 ≤ f 13 2 ∨ !s.holdsKey ctx (f 16 13) ∨ !o.wf then .done s stBAD
  else if s.freeFrames ctx < frames ∨ 2 ^ 36 < s.nextObj + (if sharded then 2 else 1) then .done s stSPACE
  else match s.freeHandle ctx with
    | none => .done s stSPACE
    | some h =>
      let s1 := s.tickFresh.tickFresh
      let s1 := ({ s1 with nextObj := s1.nextObj + (if sharded then 2 else 1) }.setObj (BitVec.ofNat 48 oid) o).setH ctx h
        (HEntry.full (BitVec.ofNat 48 oid))
      if !sharded then .done s1 (BitVec.ofNat 64 h)
      else
        let m := homeMap ep (o.shcnt.toNat + 1) (Config.extentRoot (s.fresh + 1)).toNat
        let mid := BitVec.ofNat 48 (oid + 1)
        match (s1.setObj mid m).ensureFrame die mid m 0 0 with
        | .error _ => .done s stSPACE
        | .ok s2 => .done (s2.poke mid m 0 (((List.range (o.shcnt.toNat + 1)).map fun _ => leBytes 2 ep).flatten)) (BitVec.ofNat 64 h)

/-- A service goes on with a checked handle, waits for the object to thaw, or answers NO-RIGHTS, a malformed object being reported
(R49, R62). -/
def State.served (s : State) (c : Chk Acc) (k : Acc → Served) : Served :=
  match c with
  | .stall => .waits
  | .trap i => .done (s.reportTrap i) stRIGHTS
  | .ok acc => k acc

/-- A handle argument of a service: the checks of R55 with a need, or with none (R62). -/
def State.svcHandle (s : State) (ctx : Nat) (a : Word) (need : BitVec 6) (k : Acc → Served) : Served :=
  s.served (s.classChecked ctx a need { eng := 0, op := 0 } true) k

/-- DELETE (R62, R245): resolved requests complete first, and tasks that run from the object leave it first. -/
def State.svcDelete (s : State) (ctx : Nat) (a : Word) : Served :=
  s.svcHandle ctx a 0 fun acc =>
    if acc.o.ownerCtx.toNat ≠ ctx ∨ acc.o.ownerEp ≠ s.boot.ep then .done s stRIGHTS
    else if s.objBusy acc.oid || s.codeBusy acc.oid then .waits
    else .done (s.removeObj acc.oid) 0

/-- SEAL (R58, R62). -/
def State.svcSeal (s : State) (ctx : Nat) (a : Word) : Served :=
  s.svcHandle ctx a rGRANT fun acc =>
    if acc.o.coherent then .done s stBAD
    else .done (s.setObj acc.oid { acc.o with sealed := true }) (acc.o.version.setWidth 64)

/-- The pages of a sealed object that a replica on this package holds copies of: what the homes elsewhere hold (R52, R58). -/
def State.replicaPages (s : State) (oid : BitVec 48) (o : Obj) : List Nat :=
  (s.remotePages oid).filter fun k => !s.homedHere o k

/-- A replica on this package (R58): frames of the bulk tier, the pages copied as their homes hold them, a poisoned line remaining one; none when
frames are lacking within the owner's quota (DESIGN CHOICE, log entry 122). -/
def State.copyHere (s : State) (die : Nat) (oid : BitVec 48) (o : Obj) : Option State :=
  let keys := s.replicaPages oid o
  (s.moveFrames die o 1 keys.length keys.length).map fun r =>
    (keys.zip r.1).foldl (fun (s : State) p =>
      let old := s.pageBytes p.1
      let bad := (s.pageBad p.1).map (p.2.toNat * 65536 + ·)
      let s := s.zeroFrame p.2
      { s with mem := old.foldl (fun m c => m.write (p.2.toNat * 65536 + c.1) [c.2]) s.mem, bad := s.bad ++ bad,
               pages := alSet s.pages p.1 p.2 }) r.2

/-- REPLICATE (R58, R62). The spec names no status for an object that is not sealed or an endpoint outside the domain, BAD-ARGUMENT here, nor
for a ninth replica or a package without the frames, NO-SPACE here (DESIGN CHOICE, log entry 99). What another package answers is its own
matter (DESIGN CHOICE, log entry 123). -/
def State.svcReplicate (s : State) (ctx die : Nat) (a b : Word) : Served :=
  s.svcHandle ctx a rGRANT fun acc =>
    let ep := b.setWidth 12
    if !acc.o.sealed ∨ 0xFFF ≤ b.toNat ∨ !s.boot.members.contains ep then .done s stBAD
    else if ep = acc.o.home ∨ acc.o.repl.contains ep then .done s 0
    else if 8 ≤ acc.o.repl.length then .done s stSPACE
    else match (if ep = s.boot.ep then s.copyHere die acc.oid acc.o else if Config.peerRoom s.fresh then some s.tickFresh else none) with
      | none => .done s.tickFresh stSPACE
      | some s1 => .done (s1.setObj acc.oid { acc.o with repl := acc.o.repl ++ [ep] }) 0

/-- A checked object is moved to a target (R65). A peer target that names this package or no member of the domain is BAD-ARGUMENT (DESIGN
CHOICE, log entry 99). -/
def State.moveTo (s : State) (no die : Nat) (acc : Acc) (b : Word) : Served :=
  let tier := b.toNat % 4
  let ep := b.extractLsb' 2 12
  if 2 ^ 14 ≤ b.toNat ∨ tier = 3 ∨ (tier < 2 ∧ ep ≠ 0) ∨ (tier = 2 ∧ acc.o.shcnt ≠ 0)
      ∨ (tier = 2 ∧ (ep = s.boot.ep ∨ !s.boot.members.contains ep)) then .done s stBAD
  else if (tier < 2 ∧ acc.o.atTier tier) ∨ (tier = 2 ∧ acc.o.res = 2 ∧ acc.o.home = ep) then .done s 0
  else match s.beginMove no die acc.oid acc.o (BitVec.ofNat 2 tier) ep with
    | none => .done s.tickFresh stSPACE
    | some s' => .begun s'.tickFresh

/-- MOVE (R62, R65): the checks of R55 with WRITE refuse a sealed object (DEDUCED, log entry 98). -/
def State.svcMove (s : State) (no ctx die : Nat) (a b : Word) : Served :=
  s.svcHandle ctx a rWRITE fun acc => s.moveTo no die acc b

/-- A trigger's move is served (R70): an action whose handle has gone since installation, or that fails its checks, is discarded and
counted, a sealed object's among them (DESIGN CHOICE, log entry 20). -/
def State.svcTrigger (s : State) (t : Trigger) : Served :=
  let drop := Served.done (s.count t.ctx 0x0004 1) 0
  if t.gone then drop
  else match s.classChecked t.ctx ((t.tg.extractLsb' 64 24).setWidth 64) rWRITE { eng := 0, op := 0 } true with
    | .stall => .waits
    | .trap i => .done ((s.count t.ctx 0x0004 1).reportTrap i) 0
    | .ok acc => s.moveTo 0 0 acc ((t.tg.extractLsb' 96 2).setWidth 64 - 1)

/-- A trigger's version condition (R70). A trigger whose watched object has been deleted stays installed and never fires; the spec does not say
what becomes of it (DESIGN CHOICE, log entry 20). -/
def State.trigMet (s : State) (t : Trigger) : Bool :=
  match s.obj t.watch with
  | some o => 0 ≤ (o.version - t.tg.extractLsb' 32 32).toInt
  | none => false

/-- First index and count of the range that a trigger acts on, within the effective box (R69). -/
def trigRange (tg : BitVec 256) (e : HEntry) (o : Obj) : Nat × Nat :=
  let d := o.rank.toNat - 1
  let first := (tg.extractLsb' 128 32).toNat
  let n := (tg.extractLsb' 160 32).toNat
  (first, if n = 0 then e.hiEff o d + 1 - first else n)

/-- The prefetch of a trigger (R70); one that can no longer be made is discarded and counted, a malformed object being reported (R49). A
prefetch of an object that is moving waits until it thaws (R56). -/
def State.firePrefetch (s : State) (t : Trigger) : State :=
  let drop := s.count t.ctx 0x0004 1
  if t.gone then drop
  else match s.dataChecked t.ctx ((t.tg.extractLsb' 64 24).setWidth 64) rREAD { eng := 0, op := 0 } with
    | .stall => { s with fired := s.fired ++ [t] }
    | .trap i => drop.reportTrap i
    | .ok a =>
      if a.o.res = 3 then drop
      else
        let d := a.o.rank.toNat - 1
        let r := trigRange t.tg a.e a.o
        let lo := fun j => if j = d then r.1 else a.e.lo j
        let cnt := fun j => if j = d then r.2 else if j < d then a.e.hiEff a.o j + 1 - a.e.lo j else 1
        let ls := a.o.linesOf ((boxTuples cnt).map fun i j => lo j + i j)
        if ls.any fun l => s.shardStalls a.o l.1 rREAD then { s with fired := s.fired ++ [t] } else s.prefetch t.ctx a.oid a.o ls

/-- The prefetches that wait for an object to thaw are made again (R56). -/
def State.refire (s : State) : State := s.fired.foldl State.firePrefetch { s with fired := [] }

/-- A trigger fires (R70): a prefetch, or the request of a move, which goes to Mason by the intake weir (R291); it never traps. DESIGN CHOICE, log
entry 20. -/
def State.fire (s : State) (t : Trigger) : State :=
  let s := { s with trigs := s.trigs.filter fun x => x.num != t.num }
  if (t.tg.extractLsb' 96 2).toNat = 0 then s.firePrefetch t else s.toMason (.trigger t)

/-- Every trigger whose version has been reached fires (R70). -/
def State.fireTriggers (s : State) : State := (s.trigs.filter s.trigMet).foldl State.fire s

/-- Triggers that a context may hold beside its children's (R69, R313). -/
def State.trigRoom (s : State) (ctx : Nat) : Bool :=
  countIf (fun t : Trigger => t.ctx == ctx) s.trigs < s.own ctx 551 13 && s.trigs.length < 8192

/-- PLAN (R69). -/
def State.svcPlan (s : State) (ctx : Nat) (bs : List Byte) : Served :=
  let f := recBits bs
  let act := f 96 2
  if f 192 64 ≠ 0 ∨ f 98 30 ≠ 0 ∨ f 88 8 ≠ 0 ∨ f 24 8 ≠ 0 ∨ act = 3 then .done s stBAD
  else s.svcHandle ctx (BitVec.ofNat 64 (f 0 24)) rREAD fun w =>
    let h := BitVec.ofNat 64 (f 64 24)
    s.svcHandle ctx h (if act = 0 then rREAD else rWRITE) fun tg =>
      let d := tg.o.rank.toNat - 1
      let first := f 128 32
      let last := if f 160 32 = 0 then tg.e.hiEff tg.o d else first + f 160 32 - 1
      if w.o.coherent ∨ first < tg.e.lo d ∨ tg.e.hiEff tg.o d < first ∨ tg.e.hiEff tg.o d < last then .done s stBAD
      else if !s.trigRoom ctx then .done s stSPACE
      else
        let free := (List.range 8192).filter fun n => !(s.trigs.any fun t => t.num == n)
        let n := (free[Config.triggerPick s.fresh % free.length]?).getD 0
        let t : Trigger := { num := n, ctx := ctx, watch := w.oid, tg := bitsOfBytes 256 bs, oid := tg.oid, gone := false }
        .done ({ s.tickFresh with trigs := s.trigs ++ [t] }.fireTriggers) (BitVec.ofNat 64 n)

/-- The notify list of a context; none for an unset entry (R79, R312). -/
def State.notifyEp (s : State) (ctx t : Nat) : Option Nat :=
  let e := s.ctxField ctx (464 + 12 * t) 12
  if e = 0xFFF then none else some e

/-- WINDOW (R77). -/
def State.svcWindow (s : State) (ctx : Nat) (a b : Word) : Served :=
  let ep := b.toNat % 4096
  let ask : BitVec 6 := (if b.getLsbD 12 then rREAD else 0) ||| (if b.getLsbD 13 then rWRITE else 0)
  if (List.range 4).all fun t => s.notifyEp ctx t != some ep then .done s stRIGHTS
  else s.svcHandle ctx a ask fun acc =>
    if ask = 0 ∨ 2 ^ 14 ≤ b.toNat ∨ !acc.o.hostsh ∨ acc.o.layout ≠ 0 ∨ acc.o.shcnt ≠ 0 ∨ 2 ^ 36 < acc.o.bytes then .done s stBAD
    else match lowestFree (s.wins.map (·.num)) 0 4096 with
      | none => .done s stSPACE
      | some w =>
        let x : Window := { num := w, ctx := ctx, handle := a.setWidth 24, oid := acc.oid, ep := BitVec.ofNat 12 ep, rights := ask }
        .done { s with wins := s.wins ++ [x] } (BitVec.ofNat 64 w)

/-- UNWINDOW (R77). -/
def State.svcUnwindow (s : State) (ctx : Nat) (a : Word) : Served :=
  if s.wins.any fun w => w.num == a.toNat && w.ctx == ctx then
    .done { s with wins := s.wins.filter fun w => w.num != a.toNat } 0
  else .done s stRIGHTS

/-- Mason serves the oldest request that f takes and that need not wait (R62); f answers none for a request that it does not take, and is given
the machine without the request. One that waits holds up no other (DEDUCED, log entry 46). -/
def State.serveReq (s : State) (f : State → Req → Option (Nat × Served)) : List Req → List Req → Res
  | _, [] => .next s
  | before, r :: rs =>
    match f { s with mason := before ++ rs } r with
    | none | some (_, .waits) => s.serveReq f (before ++ [r]) rs
    | some (no, .done s' v) => .next ((s'.reply no v).settle)
    | some (_, .begun s') => .next s'

/-- Mason serves a request for service n (R62). -/
def State.serve (s : State) (n : Nat) (f : State → Nat → Nat → Nat → Word → Word → List Byte → Served) : Res :=
  s.serveReq (fun s r => match r with
    | .omcall no ctx part k a b bs => if k.toNat = n then some (no, f s no ctx (dieOfCore (coreOfPart part)) a b bs) else none
    | _ => none) [] s.mason

/-- CREATE (R62). -/
def execCreate (s : State) : Res := s.serve 0 fun s _ ctx die _ _ bs => s.svcCreate ctx die bs
/-- DELETE (R62). -/
def execDelete (s : State) : Res := s.serve 1 fun s _ ctx _ a _ _ => s.svcDelete ctx a
/-- SEAL (R62). -/
def execSeal (s : State) : Res := s.serve 2 fun s _ ctx _ a _ _ => s.svcSeal ctx a
/-- REPLICATE (R62). -/
def execReplicate (s : State) : Res := s.serve 3 fun s _ ctx die a b _ => s.svcReplicate ctx die a b
/-- MOVE (R65), also as a trigger asks for it (R70). -/
def execMove (s : State) : Res :=
  s.serveReq (fun s r => match r with
    | .omcall no ctx part k a b _ => if k = 4 then some (no, s.svcMove no ctx (dieOfCore (coreOfPart part)) a b) else none
    | .trigger t => some (0, s.svcTrigger t)
    | _ => none) [] s.mason
/-- PLAN (R69). -/
def execPlan (s : State) : Res := s.serve 5 fun s _ ctx _ _ _ bs => s.svcPlan ctx bs
/-- WINDOW (R77). -/
def execWindow (s : State) : Res := s.serve 6 fun s _ ctx _ a b _ => s.svcWindow ctx a b
/-- UNWINDOW (R77). -/
def execUnwindow (s : State) : Res := s.serve 7 fun s _ ctx _ a _ _ => s.svcUnwindow ctx a

/-- A task's wait under request number `no` advances. -/
def Wait.answer (no : Nat) (p : Progress) (w : Wait) : Wait := if w.progress = .sent no then { w with progress := p } else w

/-- A fetch command that waits for Mason under request number `no` goes on (R300). -/
def FCmd.answer (no : Nat) (p : Progress) (a : FCmd) : FCmd :=
  if a.mason = some no then { a with mason := none, fail := match p with | .failed i => some i | _ => none } else a

/-- A binding that waits for Mason under request number `no` goes on (R300). -/
def Port.answer (no : Nat) (p : Progress) (a : Port) : Port :=
  if a.mason = some no then { a with mason := none, fail := match p with | .failed i => some i | _ => none } else a

/-- A request of a task is answered: its waiting word, kept or at hand, its fetch command or its binding goes on (R300). -/
def Task.answer (t : Task) (no : Nat) (p : Progress) : Task :=
  { t with
    c := { t.c with wait := t.c.wait.map (Wait.answer no p) },
    startAsk := if t.startAsk = .sent no then p else t.startAsk,
    x := { t.x with kept := { t.x.kept with wait := t.x.kept.wait.map (Wait.answer no p) } },
    f := { t.f with act := t.f.act.map (FCmd.answer no p), run := t.f.run.map (FCmd.answer no p),
                    ports := t.f.ports.map (Port.answer no p) } }

/-- Where an absent object's contents come to lie when Mason brings it back: the bulk tier of this package (DESIGN CHOICE, log entry 22). -/
def State.bringBack (s : State) (die : Nat) (oid : BitVec 48) : State :=
  match s.obj oid with
  | none => s
  | some o =>
    if o.res ≠ 3 then s
    else match s.beginMove 0 die oid o 1 s.boot.ep with
      | none => s
      | some s' => match s'.moves.find? fun m => m.oid == oid with
        | some m => (s'.copyMove m).commitMove m
        | none => s'

end Sys2Proof.Machine
end

