-- ==== Sys2Proof/Machine/Sync.lean ====
section
/-!
DEFINITION. The SYN words of tasks, publication, groups, tokens, slots, traps and notification (R79, R138, R143, R232 to R234, R267 to R285,
R298, R299).
-/

namespace Sys2Proof.Machine

/-- RECORD-VALUE with the byte offset of the failing field (R268). -/
def valueTrap (w : Who) (byte : Nat) : TrapInfo := mkTrap .bounds w 0x0B 0 0 byte

/-- The largest SPN among the cores of a die (R268). -/
def State.maxSpn (s : State) (die : Nat) : Nat := ((List.range 12).map fun k => s.spn (12 * die + k)).foldl max 0

/-- A field of a task record (R267). -/
def trField (r : BitVec 1024) (lo w : Nat) : Nat := (r.extractLsb' lo w).toNat

/-- The context that a record names, for a creator of context `own` (R268). -/
def State.recCtx (s : State) (own : Nat) (r : BitVec 1024) : Option Nat :=
  let c := trField r 124 12
  let c := if c = 0 then own else c
  if c = own ∨ s.isBelow own c then
    match s.ctx c with
    | some x => if x.st = .deleting then none else some c
    | none => none
  else none

/-- The checks of a record's code, image and subscriptions in the context it names (R268). -/
def State.recObjs (s : State) (c : Nat) (r : BitVec 1024) (w : Who) : Chk Unit :=
  let image : Chk Unit :=
    let h := trField r 64 24
    let n := trField r 32 32
    if h = 0 then if n = 0 then .ok () else .trap (valueTrap w 4)
    else (s.classChecked c (BitVec.ofNat 64 h) rREAD w true).bind fun a =>
      if a.o.rank ≠ 1 ∨ a.o.fmt ≠ 11 ∨ a.o.layout ≠ 0 then .trap (valueTrap w 8)
      else if a.o.extent 0 < n ∨ trField r 224 32 < n then .trap (valueTrap w 4)
      else .ok ()
  let sub := fun (acc : Chk Unit) (n : Nat) => acc.bind fun _ =>
    if r.getLsbD (256 + 64 * n + 63) then
      (s.classChecked c (BitVec.ofNat 64 (trField r (256 + 64 * n + 32) 24)) rREAD w true).bind fun _ => .ok ()
    else .ok ()
  (s.classChecked c (BitVec.ofNat 64 (trField r 136 24)) rREAD w true).bind fun a =>
    if a.o.rank ≠ 1 ∨ a.o.fmt ≠ 14 then .trap (valueTrap w 17)
    else if a.o.extent 0 ≤ trField r 160 32 then .trap (valueTrap w 20)
    else image.bind fun _ => (List.range 4).foldl sub (.ok ())

/-- The checks of a task record, in order (R268): the context it is created in. -/
def State.recordChecked (s : State) (own die : Nat) (r : BitVec 1024) (w : Who) : Chk Nat :=
  let resv := trField r 192 8 + trField r 115 9 + trField r 88 24 + trField r 0 32
    + ((List.range 4).map fun n => trField r (256 + 64 * n + 56) 7).sum
  if resv ≠ 0 then .trap (boundsPlain w 6)
  else if 128 < trField r 200 8 then .trap (valueTrap w 25)
  else if s.maxSpn die * 524288 < trField r 224 32 then .trap (valueTrap w 28)
  else match s.recCtx own r with
    | none => .trap (privTrap w 1 (trField r 124 12))
    | some c => (s.recObjs c r w).bind fun _ => .ok c

/-- A task from its record: mailbox, code and entry (R244, R267, R271). -/
def newTask (id : BitVec 64) (r : BitVec 1024) (c : Nat) : Task :=
  { Task.idle with
    st := .waiting, id := id, tr := r, ctx := c, image := trField r 64 24 != 0,
    c := { Ctl.reset with mb := Vector.ofFn fun n => r.extractLsb' (512 + 64 * n.val) 64, codeH := r.extractLsb' 136 24,
                          pc := BitVec.ofNat 64 (trField r 160 32) } }

/-- The lowest free entry of a die's pool is filled (R269): its filling is counted, and the task that the ID names stands in it; none when the
pool is full. -/
def State.enter (s : State) (die : Nat) (t : BitVec 64 → Task) : Option (State × BitVec 64) :=
  (s.freeEntry die).map fun e =>
    let inc := (alGet s.incs (die * 4096 + e)).getD 0 + 1
    let id : BitVec 64 := inc.setWidth 64 <<< 16 ||| BitVec.ofNat 64 (die * 4096 + e)
    ({ s with incs := alSet s.incs (die * 4096 + e) inc, others := s.others ++ [t id] }, id)

/-- A checked record fills an entry of a die's pool (R269, R275): the task's ID, or none when the pool is full. -/
def State.fillEntry (s : State) (die : Nat) (r : BitVec 1024) (c : Nat) : Option (State × BitVec 64) :=
  (s.enter die fun id => newTask id r c).map fun p => (p.1.settle, p.2)

/-- SPAWN's last step: place, give up, or wait for an entry (R275). A waiting SPAWN keeps its checked record. -/
def State.spawnInto (s : State) (S : Bool) (d : BitVec 5) (try_ : Bool) (r : BitVec 1024) (c : Nat) : Res :=
  match s.fillEntry s.die r c with
  | some (s', id) => .next ((s'.wrS d id).advance S)
  | none => if try_ then .next ((s.wrS d (-1)).advance S) else .next (s.block (.pool r c) .plain)

/-- What the word at hand waits for, when it waits. -/
def State.wakeOf (s : State) : Wake := match s.t.c.wait with | some w => w.wake | none => .other

/-- A record of n bytes in the window, aligned to 2^log2 (R275, R316). -/
def State.recordAt (s : State) (w : Who) (a : Word) (n log2 : Nat) : Option TrapInfo :=
  if a.toNat % 2 ^ log2 ≠ 0 then some (alignTrap w 2 a log2)
  else if s.t.window < a.toNat + n then some (boundsPlain w 0x0A)
  else none

/-- SPAWN (R275). DEDUCED, log entry 35. -/
def execSpawn (S : Bool) (d a : BitVec 5) (t : Bool) (s : State) : Res :=
  let w := whoOf (.spawn S d a t)
  match s.wakeOf with
  | .pool r c =>
    match s.recCtx c r with
    | none => .next (s.trapWord (privTrap w 1 (trField r 124 12)))
    | some _ => s.spawnInto S d t r c
  | _ =>
    match s.poisoned w [s.pS a] with
    | some i => .next (s.trapWord i)
    | none => match s.recordAt w (s.sv a) 128 7 with
      | some i => .next (s.trapWord i)
      | none =>
        let r := bitsOfBytes 1024 (s.spad (s.sv a).toNat 128)
        match s.recordChecked s.t.ctx s.die r w with
        | .trap i => .next (s.trapWord i)
        | .stall => .next (s.block .other .plain)
        | .ok c => s.spawnInto S d t r c

/-- The drain that END and YIELD place in the vector queue (R172). DESIGN CHOICE, log entry 39. -/
def State.pushDrain (s : State) (i : Instr) : State :=
  let e : QEntry :=
    { w := i, pfx := none, caps := [], pc := s.t.c.pc, gseq := s.t.c.gseq, sr := s.t.v.sr, ports := s.t.c.ports, was := none }
  s.modV fun v => { v with q := v.q ++ [e] }

/-- In a handler, END first discards pending traps and held queue words, as FLUSH would; halted commands end as under ABANDON (R297). -/
def State.discardAll (s : State) : State :=
  let s := (s.resumeFetch true).modC fun c => c.unpend s.t.v.q
  s.modT fun t => { t with
    x := { t.x with pending := [], taken := none }, mq := [], mhalted := false, v := { t.v with q := [], halted := false },
    f := { t.f with q := [], frel := none, ends := [] }, starts := [] }

/-- END (R276): the transfer waits for the end of the group, and the effect for the drain. -/
def execTaskEnd (S : Bool) (s : State) : Res :=
  if s.t.c.phase = .ending then .next s.endEffect
  else
    let s := if s.t.x.hmode then s.discardAll else s
    .next (((s.pushDrain (.taskEnd S)).transfer .taskEnd).advance S)

/-- YIELD (R277). -/
def execYield (S : Bool) (s : State) : Res :=
  if s.t.c.phase = .ending then .next s.yieldEffect
  else match s.handlerWord (whoOf (.yield S)) with
    | some i => .next (s.trapWord i)
    | none => .next (((s.pushDrain (.yield S)).transfer .yield).advance S)

/-- The views that a fetch word names, in the order of its fields. -/
def fetViews : Instr → List (BitVec 4)
  | .fill _ _ w _ | .fillc _ _ w | .fsts _ _ w => [w]
  | .fld _ w _ _ | .fst _ w _ _ => [w]
  | .fbind _ _ w _ _ => [w]
  | .fcopy _ d x => [d, x]
  | .fgth _ w _ _ _ => [w]
  | .fpre _ w _ => [w]
  | _ => []

/-- Whether a fetch word writes the object of its first view. -/
def fetWrites : Instr → Bool
  | .fst .. | .fsts .. | .fcopy .. => true
  | .fbind _ _ _ _ o => o
  | _ => false

/-- The handle of view w once the words of the queue before it have run: the last FVIEW of it decides. -/
def handleAfter (f : Fet) (before : List QEntry) (w : BitVec 4) : BitVec 24 :=
  match (before.filter fun e => match e.w with | .fview _ v _ _ => v == w | _ => false).getLast? with
  | some e => (e.caps.headD 0).setWidth 24
  | none => (vget f.w w.toNat View.zero).handle

/-- The queued fetch words with the handles of the views that they will name. -/
def queuedViews (f : Fet) : List (QEntry × List (BitVec 24)) :=
  f.q.zipIdx.map fun p => (p.1, (fetViews p.1.w).map fun w => handleAfter f (f.q.take p.2) w)

/-- Fetch commands that have left the queue and are not complete. -/
def Fet.live (f : Fet) : List FCmd := (match f.act with | some a => [a] | none => []) ++ f.run ++ f.rel

/-- A handle names an object, as its entry stands. -/
def State.names (s : State) (h : BitVec 24) (oid : BitVec 48) : Bool :=
  let e := s.hentry s.t.ctx h.toNat
  e.st != .free && e.oid == oid

/-- Whether a vector word writes the register that port q aliases (R140). -/
def pushesTo (i : Instr) (q : Nat) : Bool := (usesOf i).contains (.v (BitVec.ofNat 5 (28 + q)), true)

/-- A dispatched vector word has still to push to a port under a binding (R141). -/
def State.pushesOpen (s : State) (q : Nat) : Bool :=
  (s.t.v.q.any fun e => vget e.ports q 0 != 0 && pushesTo e.w q) ||
    s.t.v.flights.any fun x => match x.dst with | .port p _ => p.toNat == q | _ => false

/-- A write to an object by a word of the task dispatched earlier has not been performed (R232): a queued or active command, a push
to an outbound port, or a write of the control engine that goes on in the background. -/
def State.writesOpen (s : State) (oid : BitVec 48) : Bool :=
  let f := s.t.f
  let queued := (queuedViews f).any fun p => fetWrites p.1.w && (p.2.head?.any fun h => s.names h oid)
  let live := f.live.any fun a => fetWrites a.e.w && (s.names a.v.handle oid || a.outst.any fun r => r.oid == oid)
  let port := (List.range 4).any fun q =>
    let p := vget f.ports q Port.unbound
    p.out && p.oid == oid && (!p.fifo.isEmpty || p.lands || (p.bound && !p.dead && s.pushesOpen q))
  queued || live || port || s.t.c.stores.any fun p => p.oid == oid

/-- A PUB is counted (R232): the version advances, triggers fire, and tasks that waited for it become READY. -/
def State.countPub (s : State) (oid : BitVec 48) (scope : BitVec 2) : State :=
  match s.obj oid with
  | none => s
  | some o =>
    let r : PubRec := { ver := o.version + 1, scope := scope, core := s.core }
    ((s.setObj oid { o with version := o.version + 1, pubs := o.pubs ++ [r] }).fireTriggers).settle

/-- PUB once its checks have passed. -/
def State.pubWait (s : State) (S : Bool) (oid : BitVec 48) (scope : BitVec 2) : Res :=
  if s.writesOpen oid then .next (s.block (.writes oid) .plain) else .next ((s.countPub oid scope).advance S)

/-- PUB (R232). -/
def execPub (S : Bool) (a : BitVec 5) (p : BitVec 2) (s : State) : Res :=
  let w := whoOf (.pub S a p)
  match s.wakeOf with
  | .writes oid => s.pubWait S oid p
  | _ => match s.poisoned w [s.pS a] with
    | some i => .next (s.trapWord i)
    | none => match s.classChecked s.t.ctx (s.sv a) rPUBLISH w true with
      | .trap i => .next (s.trapWord i)
      | .stall => .next (s.block .other .plain)
      | .ok acc => s.pubWait S acc.oid p

/-- The L1 of the core drops its lines of an object (R131, R234). -/
def State.dropCoreL1 (s : State) (oid : BitVec 48) : State :=
  { s with l1 := s.l1.filter fun x => !(x.core == s.core && x.oid == oid) }

/-- Whether the version awaited has been reached, in 32 bits (R234). DEDUCED, log entry 88. -/
def State.reached (s : State) (oid : BitVec 48) (v : BitVec 32) : Bool :=
  match s.obj oid with
  | some o => 0 ≤ (o.version - v).toInt
  | none => false

/-- SUB once its checks have passed. -/
def State.subWait (s : State) (S : Bool) (oid : BitVec 48) (v : BitVec 32) : Res :=
  if s.reached oid v then .next ((s.dropCoreL1 oid).advance S) else .next (s.block (.version oid v) .plain)

/-- SUB (R234). -/
def execSubscribe (S : Bool) (a b : BitVec 5) (s : State) : Res :=
  let w := whoOf (.subscribe S a b)
  match s.wakeOf with
  | .version oid v => s.subWait S oid v
  | _ => match s.poisoned w [s.pS a, s.pS b] with
    | some i => .next (s.trapWord i)
    | none => match s.classChecked s.t.ctx (s.sv a) rREAD w true with
      | .trap i => .next (s.trapWord i)
      | .stall => .next (s.block .other .plain)
      | .ok acc => s.subWait S acc.oid ((s.sv b).setWidth 32)

/-- SUBT (R234). -/
def execSubt (S : Bool) (c : BitVec 3) (a b : BitVec 5) (s : State) : Res :=
  let w := whoOf (.subt S c a b)
  match s.poisoned w [s.pS a, s.pS b] with
  | some i => .next (s.trapWord i)
  | none => match s.classChecked s.t.ctx (s.sv a) rREAD w true with
    | .trap i => .next (s.trapWord i)
    | .stall => .next (s.block .other .plain)
    | .ok acc =>
      if s.reached acc.oid ((s.sv b).setWidth 32) then .next (((s.dropCoreL1 acc.oid).wrC c true none).advance S)
      else .next ((s.wrC c false none).advance S)

/-- QUOTA of a group word (R280, R282). -/
def groupQuota (w : Who) (sub : Nat) (gid : BitVec 32) : TrapInfo := mkTrap .quota w sub gid.toNat 0 0

/-- GROUP-UNBOUND (R282). -/
def unboundTrap (w : Who) (g : Nat) : TrapInfo := mkTrap .handleInvalid w 7 g 0 0

/-- Group slot g of the task. -/
def State.gslot (s : State) (g : BitVec 2) : Option GSlot := vget s.t.grp g.toNat none

/-- A group of the task's context. -/
def State.group (s : State) (gid : BitVec 32) : Option Group := alGet s.groups (gkey s.t.ctx gid)

/-- A group of the task's context replaced. -/
def State.setGroup (s : State) (gid : BitVec 32) (x : Group) : State := { s with groups := alSet s.groups (gkey s.t.ctx gid) x }

/-- Slot g bound to a group, with the generation of its last arrival. -/
def State.bindSlot (s : State) (g : BitVec 2) (x : GSlot) : State := s.modT fun t => { t with grp := vset t.grp g.toNat (some x) }

/-- Groups held by a context (R279). -/
def State.groupsOf (s : State) (ctx : Nat) : Nat := countIf (fun (p : Nat × Group) => p.1 / 2 ^ 32 == ctx) s.groups

/-- GJOIN (R280). -/
def execGjoin (S : Bool) (g : BitVec 2) (a b : BitVec 5) (s : State) : Res :=
  let w := whoOf (.gjoin S g a b)
  match s.poisoned w [s.pS a, s.pS b] with
  | some i => .next (s.trapWord i)
  | none =>
    let gid : BitVec 32 := (s.sv a).setWidth 32
    let n := (s.sv b).toNat % 65536
    let s := (s.leaveGroup s.t g.toNat).settle
    match s.group gid with
    | some x =>
      if x.limit ≠ 0 ∧ x.limit ≤ x.members then .next (s.trapWord (groupQuota w 3 gid))
      else .next (((s.setGroup gid { x with members := x.members + 1 }).bindSlot g { gid := gid, arrived := none }).advance S)
    | none =>
      if 4096 ≤ s.groups.length ∨ s.own s.t.ctx 564 12 ≤ s.groupsOf s.t.ctx then .next (s.trapWord (groupQuota w 4 gid))
      else .next (((s.setGroup gid { limit := n, members := 1, arrived := 0, gen := 0 }).bindSlot g
        { gid := gid, arrived := none }).advance S)

/-- GLEAVE (R281). -/
def execGleave (S : Bool) (g : BitVec 2) (s : State) : Res := .next ((s.leaveGroup s.t g.toNat).settle.advance S)

/-- A member arrives in the phase at hand, unless it has arrived already (R282). -/
def State.arrive (s : State) (g : BitVec 2) (x : GSlot) (r : Group) : State :=
  if x.arrived = some r.gen then s
  else ((s.setGroup x.gid ({ r with arrived := r.arrived + 1 } : Group).complete).bindSlot g { x with arrived := some r.gen }).settle

/-- Waiting for a generation (R282). -/
def State.genWait (s : State) (S : Bool) (gid target : BitVec 32) (p : Progress) : Res :=
  let met := match s.group gid with
    | some r => decide (0 ≤ (r.gen - target).toInt)
    | none => true
  if met then .next (s.advance S) else .next (s.block (.gen gid target) p)

/-- BARR (R282): the arrival is taken once, whatever interrupts the wait. -/
def execBarr (S : Bool) (d : BitVec 5) (w : Bool) (g : BitVec 2) (s : State) : Res :=
  let who := whoOf (.barr S d w g)
  match s.progress, s.wakeOf with
  | .arrived g0, .gen gid target => s.genWait S gid target (.arrived g0)
  | _, _ =>
    match s.gslot g with
    | none => .next (s.trapWord (unboundTrap who g.toNat))
    | some x => match s.group x.gid with
      | none => .next (s.trapWord (unboundTrap who g.toNat))
      | some r =>
        let s := (s.arrive g x r).wrS d (r.gen.setWidth 64)
        if w then s.genWait S x.gid (r.gen + 1) (.arrived r.gen) else .next (s.advance S)

/-- BWAIT (R282). -/
def execBwait (S : Bool) (a : BitVec 5) (g : BitVec 2) (s : State) : Res :=
  let w := whoOf (.bwait S a g)
  match s.wakeOf with
  | .gen gid target => s.genWait S gid target .plain
  | _ => match s.poisoned w [s.pS a] with
    | some i => .next (s.trapWord i)
    | none => match s.gslot g with
      | none => .next (s.trapWord (unboundTrap w g.toNat))
      | some x => s.genWait S x.gid ((s.sv a).setWidth 32) .plain

/-- WAITW's condition (R143). -/
def waitwMet (k : Nat) (x b : Word) : Bool :=
  match k with
  | 0 => x != b
  | 1 => 0 ≤ (x - b).toInt
  | _ => x == b

/-- WAITW once its checks have passed. -/
def State.waitwOn (s : State) (S : Bool) (d : BitVec 5) (k : Nat) (a b : Word) : Res :=
  let x : Word := bitsOfBytes 64 (s.spad a.toNat 8)
  if waitwMet k x b then .next ((s.wrS d x).advance S) else .next (s.block (.chunk a b) .plain)

/-- WAITW (R143). -/
def execWaitw (S : Bool) (d a b : BitVec 5) (k : BitVec 2) (s : State) : Res :=
  let w := whoOf (.waitw S d a b k)
  match s.wakeOf with
  | .chunk x y => s.waitwOn S d k.toNat x y
  | _ => match s.poisoned w [s.pS a, s.pS b] with
    | some i => .next (s.trapWord i)
    | none => match s.spadCheck w (s.sv a) with
      | some i => .next (s.trapWord i)
      | none => s.waitwOn S d k.toNat (s.sv a) (s.sv b)

/-- Tokens in FIFO k (R284). -/
def State.tokens (s : State) (k : BitVec 3) : Nat := vget s.t.tok k.toNat 0

/-- FIFO k with n tokens. -/
def State.setTokens (s : State) (k : BitVec 3) (n : Nat) : State := s.modT fun t => { t with tok := vset t.tok k.toNat n }

/-- Tokens popped from FIFO k in the clk at hand of the die. -/
def State.popsNow (s : State) (k : BitVec 3) : Nat := if s.t.popClk = (s.dieOf s.die).count then vget s.t.pops k.toNat 0 else 0

/-- n pushes to FIFO k may take effect: within one clk they come before its pops, and the count may not exceed 16 (R284). -/
def State.pushFits (s : State) (k : BitVec 3) (n : Nat) : Bool := s.tokens k + s.popsNow k + n ≤ Config.tokMax

/-- A token pushed to FIFO k. -/
def State.pushToken (s : State) (k : BitVec 3) : State := s.setTokens k (s.tokens k + 1)

/-- A token popped from FIFO k, as the clk at hand counts it. -/
def State.popToken (s : State) (k : BitVec 3) : State :=
  let now := (s.dieOf s.die).count
  (s.setTokens k (s.tokens k - 1)).modT fun t => { t with
    popClk := now, pops := vset (if t.popClk = now then t.pops else Vector.replicate 8 0) k.toNat (s.popsNow k + 1) }

/-- TKS (R285): the control engine's own writes are performed as its words execute. -/
def execTks (S : Bool) (k : BitVec 3) (s : State) : Res :=
  if s.pushFits k 1 then .next ((s.pushToken k).advance S) else .next (s.block .other .plain)

/-- TKW (R285). -/
def execTkw (S : Bool) (k : BitVec 3) (s : State) : Res :=
  if 0 < s.tokens k then .next ((s.popToken k).advance S) else .next (s.block .other .plain)

/-- The partition number of a slot's owner as R139 reports it; of one that is on no partition now, the one that it ran on last (DESIGN CHOICE,
log entry 115). -/
def State.ownerPart (s : State) (x : Slot) : Nat :=
  if x.st = .free then 0x3FF else match s.taskById x.owner with
    | some t => t.part
    | none => 0x3FF

/-- SLOT-OWNER, SLOT-FAULTED and QUOTA of a slot (R139). -/
def State.slotTrap (s : State) (cause : Cause) (w : Who) (sub n : Nat) : TrapInfo :=
  let x := s.slot s.core n
  mkTrap cause w sub (n + 256 * s.ownerPart x) (if cause = .slotFaulted then x.fcause.toNat * 256 + x.fsub.toNat else 0) 0

/-- MCLAIM of slot n once its register has been checked (R138). -/
def State.claim (s : State) (S : Bool) (w : Who) (d : BitVec 5) (try_ : Bool) (n : Nat) : Res :=
  let x := s.slot s.core n
  let held := s.heldSlots s.t
  let done := fun (s : State) => Host.Outcome.next ((s.wrS d (BitVec.ofNat 64 n)).advance S)
  let releases := s.t.mq.any fun e => match e.w with | .mrel _ _ k => !k | _ => false
  if x.ownedBy s.t then done s
  else if x.st = .free ∧ held < s.t.quota then done (s.setSlot s.core n { x with st := .empty, owner := s.t.id })
  else if try_ then .next ((s.wrS d (-1)).advance S)
  else if s.t.quota ≤ held ∧ !releases then .next (s.trapWord (s.slotTrap .quota w 2 n))
  else .next (s.block (.slot (s.core * 128 + n) x.st x.owner held) .plain)

/-- MCLAIM (R138). DEDUCED, log entry 47. -/
def execMclaim (S : Bool) (d a : BitVec 5) (t : Bool) (s : State) : Res :=
  let w := whoOf (.mclaim S d a t)
  match s.wakeOf with
  | .slot key _ _ _ => s.claim S w d t (key % 128)
  | _ => match s.poisoned w [s.pS a] with
    | some i => .next (s.trapWord i)
    | none =>
      if 127 < (s.sv a).toNat then .next (s.trapWord (mkTrap .slotOwner w 2 (0x3FF * 256 + (s.sv a).toNat % 128) 0 0))
      else s.claim S w d t (s.sv a).toNat

/-- TRAP (R299): SOFTWARE with the word after it as the point of resumption; at the end of its group the loop-back and the group's
transfer come first. -/
def execTrap (S : Bool) (i : BitVec 16) (s : State) : Res :=
  let info : TrapInfo := { cause := .software, x0 := i.setWidth 64, x1 := 0, x2 := 0, x3 := 0 }
  let c := s.t.c
  let after : Kept := { wait := none, xfer := c.xfer, ending := false }
  if s.handlerWaits .software then .next (s.block .other .plain)
  else if !S then .next (s.takeTrap info (c.pc + 1) after)
  else match c.xfer with
    | .none | .jump _ | .goto _ =>
      let s := s.endGroup
      .next (s.takeTrap info s.t.c.pc { after with xfer := .none })
    | _ => .next (s.takeTrap info (c.pc + 1) { after with ending := true })

/-- ERET (R298). Where the code that it returns to is absent, a fault request to Mason goes first (R300; log entry 32). -/
def execEret (S : Bool) (s : State) : Res :=
  let go : Res := .next ((s.transfer .eret).advance S)
  if s.t.c.phase = .ending then .next (if s.eretWaits then s else s.doEret)
  else if !s.t.x.hmode then .next (s.trapWord (privTrap (whoOf (.eret S)) 2 0))
  else match s.progress, s.codeObj s.t.ctx s.t.x.xcode s.t.x.xpc.toNat true with
    | .sent _, _ => .next s
    | .plain, .trap i => if i.cause = .missingObject ∧ s.t.x.pending.isEmpty then s.askMason i else go
    | _, _ => go

/-- Every FST of the task is complete, and every XST performed (R79). -/
def State.fstDone (s : State) : Bool :=
  let isFst := fun (i : Instr) => match i with | .fst .. => true | _ => false
  s.t.c.stores.isEmpty && !(s.t.f.q.any fun e => isFst e.w) && !(s.t.f.live.any fun a => isFst a.e.w)

/-- NOTIFY (R79): the target is taken before the wait. -/
def execNotify (S : Bool) (d a b : BitVec 5) (t : BitVec 2) (s : State) : Res :=
  let target := match s.progress with | .begun v => some v.toNat | _ => s.notifyEp s.t.ctx t.toNat
  match s.poisoned (whoOf (.notify S d a b t)) [s.pS a, s.pS b] with
  | some i => .next (s.trapWord i)
  | none => match target with
    | none => .next ((s.wrS d (-1)).advance S)
    | some ep =>
      if !s.fstDone then .next (s.block .other (.begun (BitVec.ofNat 64 ep)))
      else
        let ring := (alGet s.hosts ep).getD []
        if Config.hostRingFull ep ring.length then .next ((s.wrS d (-2)).advance S)
        else
          let m : HostMsg := { ctx := s.t.ctx, part := s.t.part, time := s.ticks, a := s.sv a, b := s.sv b }
          .next (({ s with hosts := alSet s.hosts ep (ring ++ [m]) }.wrS d 0).advance S)

end Sys2Proof.Machine
end

