-- ==== Sys2Proof/Machine/Operands.lean ====
section
/-!
DEFINITION. Operand forms of queue words: the capture of scalars and the dispatch into a queue (R31, R140, R152), elements and masks
(R163), vector registers and stream ports as operands (R140 to R142, R201), poison (R164), results in flight and their landing
(R166, R167), scratchpad as the vector engine sees it (R168), and the steps of the vector engine (R165, R169, R173).
-/

namespace Sys2Proof.Machine

/-- A vector, matrix or fetch word that takes a value of the SR generator when it is dispatched (R152). -/
def takesSr (i : Instr) : Bool :=
  match i with
  | .vseed .. => false
  | _ => (usesOf i).contains (.sr, true)

/-- The generator after the dispatch of a word (R152, R189). -/
def srAfter (i : Instr) (caps : List Word) (g : Sr) : Sr :=
  match i with
  | .vseed _ _ _ => { seed := caps.getD 0 0, stream := caps.getD 1 0, count := 0 }
  | _ => if takesSr i then { g with count := g.count + 1 } else g

/-- The bindings in force after a word of the fetch queue has been dispatched (R140): FBIND numbers a new one, odd when it is outbound,
FUNB ends one. -/
def Ctl.rebind (c : Ctl) (i : Instr) : Ctl :=
  match i with
  | .fbind _ q _ _ o =>
    let n := 2 * (c.binds + 1) + o.toNat
    { c with binds := c.binds + 1, ports := vset c.ports q.toNat n }
  | .funb _ q => { c with ports := vset c.ports q.toNat 0 }
  | _ => c

/-- What a scalar or condition register holds now, a condition as 0 or 1. -/
def State.regNow (s : State) (r : Reg) : SReg :=
  match r with
  | .s n => s.rs n
  | .c n => { val := if (s.rc n).val then 1 else 0, poison := (s.rc n).poison }
  | _ => SReg.zero

/-- A queue entry for a word dispatched now: its captured values travel with it (R31, R32), and a delivered register becomes pending
(R30). -/
def State.enqueue (s : State) (i : Instr) : State :=
  let caps := (capturesOf i).map s.sv
  let c := s.t.c.rebind i
  let e : QEntry :=
    { w := i, pfx := s.t.c.pfx, caps := caps, pc := s.wordOff, gseq := s.t.c.gseq, sr := s.t.v.sr, ports := c.ports,
      was := (deliversOf i).map s.regNow }
  let pend := match deliversOf i with | some r => c.pend ++ [r] | none => c.pend
  let s := (s.modC fun _ => { c with pend := pend }).modV fun v => { v with sr := srAfter i caps v.sr }
  match engineOf i with
  | 1 => s.modV fun v => { v with q := v.q ++ [e] }
  | 3 => s.modT fun t => { t with mq := t.mq ++ [e] }
  | _ => s.modF fun f => { f with q := f.q ++ [e] }

/-- The dispatch of a vector, matrix or fetch word by the control engine: PRIVILEGE in a handler (R297), POISON at the capture of a
poisoned scalar (R31), and otherwise the word enters its queue. -/
def State.dispatch (s : State) (S : Bool) (i : Instr) : Res :=
  match s.handlerWord (whoOf i) with
  | some t => .next (s.trapWord t)
  | none => match s.poisoned (whoOf i) ((capturesOf i).map s.pS) with
    | some t => .next (s.trapWord t)
    | none => .next ((s.enqueue i).advance S)

/-- The rows of a tile that p selects and that hold an uncorrectable error are replaced by the canonical NaN and counted (R217). -/
def Tile.healIf (x : Tile) (p : Nat → Bool) : Tile :=
  let rows := x.bad.filter p
  { x with
    data := rows.foldl (fun m r => m.write (1024 * r) ((List.range 256).flatMap fun _ => leBytes 4 0x7FC00000)) x.data,
    ecc := x.ecc + BitVec.ofNat 64 rows.length, bad := x.bad.filter fun r => !p r }

/-- A captured scalar of an entry, in the order of the word's entry (R31). -/
def QEntry.cap (e : QEntry) (k : Nat) : Word := e.caps.getD k 0

/-- Element i of width w bits (R163). -/
def elemAt (b : BitVec 2048) (w i : Nat) : Nat := b.toNat / 2 ^ (w * i) % 2 ^ w

/-- Elements of width w from bit 0 on. -/
def packElems (w : Nat) (l : List Nat) : Nat := l.foldr (fun x acc => acc * 2 ^ w + x % 2 ^ w) 0

/-- A vector that holds a list of elements from element 0 on, zero above. -/
def ofElems (w : Nat) (l : List Nat) : BitVec 2048 := BitVec.ofNat 2048 (packElems w l)

/-- The low n bits. -/
def lowMask (n : Nat) : BitVec 2048 := BitVec.ofNat 2048 (2 ^ n - 1)

/-- Element i of width w ≥ 8 is active under a mask when bit (w/8) · i of it is 1 (R163). -/
def activeAt (m : BitVec 256) (w i : Nat) : Bool := m.getLsbD (w / 8 * i)

/-- The bits of the active ones of n elements of width w. -/
def maskOf (m : BitVec 256) (w n : Nat) : BitVec 2048 :=
  ofElems w ((List.range n).map fun i => if activeAt m w i then 2 ^ w - 1 else 0)

/-- Flags of a list of rounded elements. -/
def orFlags (l : List (Nat × Fl)) : Fl := l.foldl (fun f x => f ||| x.2) 0

/-- The port and binding that an entry's vector register n names, if it names one (R140). -/
def QEntry.portOf (e : QEntry) (n : BitVec 5) : Option (Nat × Nat) :=
  if n.toNat < 28 then none
  else
    let q := n.toNat - 28
    if vget e.ports q 0 = 0 then none else some (q, vget e.ports q 0)

/-- A port of the task under execution. -/
def State.port (s : State) (q : Nat) : Port := vget s.t.f.ports q Port.unbound

/-- A port replaced. -/
def State.setPort (s : State) (q : Nat) (p : Port) : State := s.modF fun f => { f with ports := vset f.ports q p }

/-- A binding is in force at its port. -/
def Port.active (p : Port) (no : Nat) : Bool := p.bound && p.no == no

/-- A push under a binding is none that comes late: the binding is in force, or its word has not been executed yet (R140, R142). -/
def Port.takes (p : Port) (no : Nat) : Bool := p.active no || decide (p.no < no)

/-- Elements of no value: the late pop, and the element past the end or after ABANDON (R117, R126, R142). DEDUCED, log entry 59. -/
def VReg.lost : VReg := { bits := 0, poison := true }

/-- A vector register as an entry's word reads it: the register, the head of an inbound port, or zero from an outbound one
(R140 to R142). -/
def State.vread (s : State) (e : QEntry) (n : BitVec 5) : VReg :=
  match e.portOf n with
  | none => vget s.t.v.v n.toNat VReg.zero
  | some (q, no) =>
    let p := s.port q
    if no % 2 = 1 then VReg.zero
    else if p.active no then match p.fifo with
      | x :: _ => { bits := x.data, poison := x.poison }
      | [] => VReg.lost
    else VReg.lost

/-- A mask register; `m0` reads all ones and is never poisoned (R162). -/
def State.mread (s : State) (n : BitVec 3) : MReg :=
  if n = 0 then { bits := BitVec.allOnes 256, poison := false } else vget s.t.v.m n.toNat { bits := 0, poison := false }

/-- Row r of tile t (R162). -/
def State.rowOf (s : State) (t : BitVec 2) (r : Nat) : VReg := vget s.t.v.rows (64 * t.toNat + r) VReg.zero

/-- The vector registers that a word reads, in the order of its fields; the fused words read d as well (R175, R176). -/
def vsrcs (i : Instr) : List (BitVec 5) :=
  ((usesOf i).filterMap fun p => match p with | (.v n, false) => some n | _ => none) ++
    (match i with
     | .vfma _ d _ _ _ _ => [d] | .vfms _ d _ _ _ _ => [d] | .vfnma _ d _ _ _ _ => [d]
     | _ => [])

/-- The mask registers that a word reads. -/
def msrcs (i : Instr) : List (BitVec 3) :=
  (usesOf i).filterMap fun p => match p with | (.m n, false) => some n | _ => none

/-- The vector registers that a word writes. -/
def vdsts (i : Instr) : List (BitVec 5) :=
  (usesOf i).filterMap fun p => match p with | (.v n, true) => some n | _ => none

/-- The poison of what an entry's word reads, vector registers first, then masks, then the rows of a tile (R164): whether it is a mask,
its number, its bit. Rows have no number of their own and stand under that of d. DESIGN CHOICE, log entry 43. -/
def State.vpoisons (s : State) (e : QEntry) : List (Bool × Nat × Bool) :=
  (vsrcs e.w).map (fun n => (false, n.toNat, (s.vread e n).poison))
    ++ (msrcs e.w).map (fun n => (true, n.toNat, (s.mread n).poison))
    ++ (match e.w with
        | .vtcr _ d t _ _ _ => (List.range 64).map fun r => (false, d.toNat, (s.rowOf t r).poison)
        | _ => [])

/-- The first poisoned register among them. DEDUCED, log entry 36. -/
def State.firstPoisoned (s : State) (e : QEntry) : Option (Bool × Nat) :=
  ((s.vpoisons e).find? fun x => x.2.2).map fun x => (x.1, x.2.1)

/-- The poison bit of a word's result (R164). -/
def State.vpoison (s : State) (e : QEntry) : Bool := (s.firstPoisoned e).isSome

/-- POISON of a vector word (R173): subcode, mask register, register. -/
def vecPoison (i : Instr) (sub : Nat) (r : Bool × Nat) : TrapInfo :=
  mkTrap .poison (whoOf i) sub (r.2 + (if r.1 then 32 else 0)) 0 0

/-- Where a result for vector register n goes (R140, R141): the register, a push, or nowhere. -/
def QEntry.dstOf (e : QEntry) (n : BitVec 5) : VDst :=
  match e.portOf n with
  | none => .v n
  | some (q, no) => if no % 2 = 1 then .port (BitVec.ofNat 2 q) no else .nowhere

/-- Latency in steps (R166). `VTKS` has its own rule. -/
def latOf (i : Instr) : Nat :=
  match i with
  | .vst .. | .vsts .. | .vsct .. | .vmst .. | .vchk .. | .vtkw .. | .vseed .. | .vnop .. | .vtks .. => 0
  | .vcvt .. | .vcvts .. | .vqmx .. | .vdqmx .. | .vscale .. | .vrng .. | .vperm .. | .vld .. | .vlds .. | .vmld .. | .vtcr .. => 6
  | .vrcp .. | .vrsq .. | .vexp2 .. | .vlog2 .. | .vtbl .. | .vtld .. => 8
  | .vrsum .. | .vrmax .. | .vrmin .. => 10
  | .vscan .. | .vgth .. => 12
  | .vacr .. => 14
  | _ => 4

/-- A result in flight from the step at hand. -/
def State.launch (s : State) (e : QEntry) (dst : VDst) (val mask : BitVec 2048) (poison keep : Bool) (fl : Fl)
    (also : Option (BitVec 5)) : State :=
  s.modV fun v => { v with flights := v.flights ++
    [{ land := v.step + latOf e.w, dst := dst, val := val, mask := mask, poison := poison, keep := keep, flags := fl, also := also }] }

/-- A result for vector register d under the word's poison; a port keeps no bits (R141). -/
def State.result (s : State) (e : QEntry) (d : BitVec 5) (val mask : BitVec 2048) (keep : Bool) (fl : Fl) : State :=
  s.launch e (e.dstOf d) val mask (s.vpoison e) (keep && (e.portOf d).isNone) fl none

/-- A result for every active element of type f (R163): g gives each element and its flags. -/
def State.lanes (s : State) (e : QEntry) (d : BitVec 5) (m : BitVec 3) (f : Fmt) (g : Nat → Nat × Fl) : State :=
  let w := fmtWidth f
  let mk := (s.mread m).bits
  let xs := (List.range (2048 / w)).map fun i => if activeAt mk w i then g i else (0, 0)
  s.result e d (ofElems w (xs.map (·.1))) (maskOf mk w (2048 / w)) (m != 0) (orFlags xs)

/-- Element i of type f of register n. -/
def State.vel (s : State) (e : QEntry) (n : BitVec 5) (f : Fmt) (i : Nat) : Nat := elemAt (s.vread e n).bits (fmtWidth f) i

/-- A result for a whole mask register (R178, R191, R195); a write to `m0` is discarded. -/
def State.maskResult (s : State) (e : QEntry) (d : BitVec 3) (val mask : BitVec 256) (keep : Bool) : State :=
  s.launch e (if d = 0 then .nowhere else .m d) (val.setWidth 2048) (mask.setWidth 2048) (s.vpoison e) keep 0 none

/-- A delivered result (R171): fixed now, it reaches the control engine by an event of its own. DEDUCED, log entry 40. -/
def State.deliverReg (s : State) (e : QEntry) (v : Word) : State :=
  let p : Option Deferral := (s.firstPoisoned e).map fun r => { info := vecPoison e.w 0x13 r, org := e.pc.setWidth 32 }
  let s := s.launch e .nowhere 0 0 false false 0 none
  match deliversOf e.w with
  | some r => s.modV fun x => { x with deliv := x.deliv ++ [{ reg := r, val := v, poison := p }] }
  | none => s

/-- Bytes of the window as a vector load of the step at hand sees them: without the stores of this step and the one before (R168). -/
def State.vload (s : State) (off n : Nat) : List Byte :=
  let now := s.spad off n
  let hid := (s.t.v.stores.filter fun x => s.t.v.step < x.step + 2).reverse
  hid.foldl (fun (bs : List Byte) x =>
    bs.zipIdx.map fun p =>
      let k := off + p.2
      if x.off ≤ k then (x.old.getD (k - x.off) none).getD p.1 else p.1) now

/-- A store of the vector engine: performed at its step, with the earlier bytes kept for the loads that do not see it (R166, R168). -/
def State.vstore (s : State) (off : Nat) (bs : List Byte) : State :=
  let old := (s.spad off bs.length).map some
  (s.modT fun t => { t with win := t.win.write off bs }).modV fun v =>
    { v with stores := v.stores ++ [{ step := v.step, off := off, old := old }] }

/-- The bytes of a register. -/
def regBytes (b : BitVec 2048) : List Byte := leBytes 256 b.toNat

/-- The first trap of scratchpad offsets: alignment of each, then the window for n bytes at each (R173, R294). -/
def State.spots (s : State) (i : Instr) (offs : List Word) (log2 n sub : Nat) : Option TrapInfo :=
  match offs.find? fun o => o.toNat % 2 ^ log2 != 0 with
  | some o => some (alignTrap (whoOf i) sub o log2)
  | none => if offs.any fun o => s.t.window < o.toNat + n then some (boundsPlain (whoOf i) 0x0A) else none

/-- The offset of VLD and VST: base plus the immediate, widened by a prefix, times 256 (R23, R193). -/
def QEntry.vldOff (e : QEntry) (i : BitVec 11) : Word :=
  e.cap 0 + (match e.pfx with | some p => (p ++ i).signExtend 64 | none => i.signExtend 64) * 256

/-- The row offsets of VLDS and VSTS for rows of 2^log2 bytes (R193). -/
def QEntry.rowOffs (e : QEntry) (log2 : Nat) : List Word :=
  (List.range (256 / 2 ^ log2)).map fun r => e.cap 0 + BitVec.ofNat 64 r * e.cap 1

/-- Elements of VGTH and VSCT for a width of 2^k bytes (R194). -/
def gatherN (k : Nat) : Nat := if k = 3 then 32 else 64

/-- The active elements of VGTH and VSCT with their offsets (R194). -/
def State.gatherOffs (s : State) (e : QEntry) (b : BitVec 5) (m : BitVec 3) (k : Nat) : List (Nat × Word) :=
  ((List.range (gatherN k)).filter fun i => (s.mread m).bits.getLsbD (2 ^ k * i)).map fun i =>
    (i, e.cap 0 + BitVec.ofNat 64 (elemAt (s.vread e b).bits 32 i))

/-- The check of a poisoned register that must not be stored or pushed (R164, R193). -/
def State.storePoison (s : State) (e : QEntry) (t : Option TrapInfo) : Option TrapInfo :=
  match t with
  | some t => some t
  | none => (s.firstPoisoned e).map fun r => vecPoison e.w 0x11 r

/-- The descriptor of VTLD is one that R181 allows. -/
def tabDescOk (b : Word) : Bool :=
  let logn := (b.extractLsb' 8 4).toNat
  b.toNat < 8192 && logn ≤ 8 && !(b.getLsbD 12 && logn == 8)

/-- The checks that a vector word makes at issue (R173): the trap it raises, if any. Of several failures alignment comes first, then the window,
then poison, that of `VSCT`'s offsets before that of its data, and of `VTLD` the window before its descriptor (DESIGN CHOICE, log entry 106). A push that will come late is discarded whatever
it holds and is not checked (R142). DEDUCED, log entry 37. DEDUCED, log entry 89. -/
def State.vecCheck (s : State) (e : QEntry) : Option TrapInfo :=
  let own : Option TrapInfo := match e.w with
    | .vld _ _ _ i => s.spots e.w [e.vldOff i] 6 256 1
    | .vst _ _ _ i => s.storePoison e (s.spots e.w [e.vldOff i] 6 256 1)
    | .vlds _ _ _ _ r => s.spots e.w (e.rowOffs (3 + r.toNat)) (3 + r.toNat) (2 ^ (3 + r.toNat)) 1
    | .vsts _ _ _ _ r => s.storePoison e (s.spots e.w (e.rowOffs (3 + r.toNat)) (3 + r.toNat) (2 ^ (3 + r.toNat)) 1)
    | .vgth _ _ _ b m k => match s.spots e.w ((s.gatherOffs e b m k.toNat).map (·.2)) k.toNat (2 ^ k.toNat) 1 with
      | some t => some t
      | none => if (s.vread e b).poison then some (vecPoison e.w 0x12 (false, b.toNat)) else none
    | .vsct _ _ _ b m k => s.storePoison e (match s.spots e.w ((s.gatherOffs e b m k.toNat).map (·.2)) k.toNat (2 ^ k.toNat) 1 with
      | some t => some t
      | none => if (s.vread e b).poison then some (vecPoison e.w 0x12 (false, b.toNat)) else none)
    | .vmld _ _ _ => s.spots e.w [e.cap 0] 5 32 1
    | .vmst _ _ _ => s.storePoison e (s.spots e.w [e.cap 0] 5 32 1)
    | .vtld _ _ _ _ => match s.spots e.w [e.cap 0] 8 2048 2 with
      | some t => some t
      | none => if tabDescOk (e.cap 1) then none else some (boundsPlain (whoOf e.w) 6)
    | .vacr _ _ a _ _ => if s.t.ownsAcc a.toNat then none else some (mkTrap .slotOwner (whoOf e.w) 3 (a.toNat + 256 * 0x3FF) 0 0)
    | .vchk _ _ _ => (s.firstPoisoned e).map fun r => vecPoison e.w 0x10 r
    | _ => none
  match own with
  | some t => some t
  | none =>
    if (vdsts e.w).any fun d => (match e.dstOf d with | .port q no => (s.port q.toNat).takes no | _ => false) then s.storePoison e none
    else none

/-- The inbound ports that an entry's word pops, each once (R141). -/
def QEntry.pops (e : QEntry) : List (Nat × Nat) :=
  (((vsrcs e.w).filterMap e.portOf).filter fun p => p.2 % 2 == 0).eraseDups

/-- The heads of the inbound ports that a word names, popped. -/
def State.popPorts (s : State) (e : QEntry) : State :=
  e.pops.foldl (fun s p =>
    let x := s.port p.1
    if x.active p.2 then s.setPort p.1 { x with fifo := x.fifo.drop 1 } else s) s

/-- A vector trap becomes pending and freezes the engine (R173). -/
def State.vecHalt (s : State) (e : QEntry) (slot : Nat) (t : TrapInfo) : State :=
  let w := whoOf e.w
  (s.pendTrap w.eng t (csrFields [(32, e.pc.toNat % 2 ^ 32), (8, slot), (0, w.op)]) 0 true).modV fun v => { v with halted := true }

/-- A word has issued: its ports are popped and it leaves the queue, and with the last word of its group the step ends. -/
def State.vecDone (s : State) (e : QEntry) : State :=
  let s := s.popPorts e
  let q := s.t.v.q.drop 1
  let more := match q with | x :: _ => x.gseq == e.gseq && !x.isDrain | [] => false
  s.modV fun v => { v with q := q, step := if more then v.step else v.step + 1 }

/-- A vector word: dispatched at the control engine's turn, executed at the vector engine's turn when it heads the queue. -/
def State.vword (s : State) (S : Bool) (i : Instr) (eff : QEntry → State → State) : Res :=
  match s.turn with
  | .vector => match s.t.v.q.head? with
    | none => .next s
    | some e =>
      if e.w ≠ i then .next s
      else match s.vecCheck e with
        | some t => .next (s.vecHalt e 0 t)
        | none => .next ((eff e s).vecDone e)
  | _ => s.dispatch S i

/-- Port elements of a pass (R117). -/
def Port.perPass (p : Port) : Nat := cdiv (p.total * p.width) 2048

/-- Element position, counted from the binding, that c port elements have reached (R117). -/
def Port.posOf (p : Port) (c : Nat) : Nat :=
  let k := p.perPass
  if k = 0 then 0 else c / k * p.total + min (c % k * 2048 / p.width) p.total

/-- A port's binding as its late pushes report it (R142). -/
def Port.past (p : Port) : Past :=
  { no := p.no, pc := p.pc, handle := p.v.handle, oid := p.oid, pos := p.posOf (p.count + p.fifo.length) }

/-- A push that reaches its port (R117, R126, R141, R142): accepted, discarded after ABANDON, past the end, or late, in which case its own
binding, which has ended, is the one reported. -/
def State.pushPort (s : State) (q no : Nat) (v : BitVec 2048) : State :=
  let p := s.port q
  if !p.active no then
    if p.late.contains no then s
    else (s.setPort q { p with late := p.late ++ [no] }).portEnd ((s.t.f.past.find? fun x => x.no == no).getD p.past)
  else if p.dead then s
  else if !p.wrap && p.perPass ≤ p.count + p.fifo.length then
    if p.ended then s else (s.setPort q { p with ended := true }).portEnd p.past
  else s.setPort q { p with fifo := p.fifo ++ [{ data := v, poison := false }] }

/-- Bits of old outside a mask, of new inside it. -/
def mergeVec (old new mask : BitVec 2048) : BitVec 2048 := (old &&& ~~~mask) ||| (new &&& mask)

/-- A result lands (R164, R167): its place is written, and its flags commit unless the result is poisoned (R160). -/
def State.landOne (s : State) (f : Flight) : State :=
  let v := s.t.v
  let old : VReg := match f.dst with
    | .v n => vget v.v n.toNat VReg.zero
    | .m n => let x := vget v.m n.toNat { bits := 0, poison := false }
      { bits := x.bits.setWidth 2048, poison := x.poison }
    | .row t r => s.rowOf t r.toNat
    | _ => VReg.zero
  let p := f.poison || (f.keep && old.poison)
  let alsoP := match f.also with | some n => (vget v.v n.toNat VReg.zero).poison | none => false
  let s := s.modX fun x => { x with flags := if p || alsoP then x.flags else x.flags ||| f.flags }
  let b := mergeVec old.bits f.val f.mask
  match f.dst with
  | .v n => s.modV fun v => { v with v := vset v.v n.toNat { bits := b, poison := p } }
  | .m n => s.modV fun v => { v with m := vset v.m n.toNat { bits := b.setWidth 256, poison := p } }
  | .row t r => s.modV fun v => { v with rows := vset v.rows (64 * t.toNat + r.toNat) { bits := b, poison := p } }
  | .tile t => s.modV fun v => { v with rows := Vector.ofFn fun i => if i.val / 64 = t.toNat then VReg.zero else v.rows[i] }
  | .tab n seg desc => s.modV fun v => { v with tabs := vset v.tabs n.toNat { seg := seg, desc := desc } }
  | .port q no => s.pushPort q.toNat no (f.val &&& f.mask)
  | .token k => s.pushToken k
  | .nowhere => s

/-- A flight put before those that land later (R167): earlier landing first, and among equal ones the earlier issued. -/
def insFlight (f : Flight) : List Flight → List Flight
  | [] => [f]
  | g :: gs => if f.land ≤ g.land then f :: g :: gs else g :: insFlight f gs

/-- Flights in the order in which they land. -/
def sortFlights (l : List Flight) : List Flight := l.foldr insFlight []

/-- Flights due at the step at hand, in the order in which they land. -/
def State.dueFlights (s : State) : List Flight := sortFlights (s.t.v.flights.filter fun f => f.land ≤ s.t.v.step)

/-- Everything due at the step at hand lands (R167); with the last result that was in flight at a forced save, scoreboard mode ends (R170). -/
def State.landDue (s : State) : State :=
  let n := s.t.v.step
  let due := s.dueFlights
  let s := s.modV fun v => { v with
    flights := v.flights.filter fun f => n < f.land, stores := v.stores.filter fun x => n < x.step + 2,
    score := match v.score with | some l => if l ≤ n then none else some l | none => none }
  due.foldl State.landOne s

/-- A push that is due finds its binding not executed yet, or its port full (R141): the engine freezes. -/
def State.pushBlocked (s : State) : List Flight → Bool
  | [] => false
  | f :: fs => match f.dst with
    | .port q no =>
      let p := s.port q.toNat
      let past := !p.wrap && decide (p.perPass ≤ p.count + p.fifo.length)
      decide (p.no < no) || (p.active no && !p.dead && !past && decide (8 ≤ p.fifo.length))
        || (s.pushPort q.toNat no 0).pushBlocked fs
    | _ => s.pushBlocked fs

/-- The words of the next step when the whole group has been dispatched: no word of it is still to come (R165, R169). -/
def State.nextStep (s : State) : Option (List QEntry) :=
  match headGroup s.t.v.q with
  | [] => none
  | e :: es =>
    let open_ := e.gseq == s.t.c.gseq && s.t.c.phase == .running &&
      (s.t.c.words.drop (s.t.c.pc - s.t.c.grp).toNat).any fun w => match decode w with
        | .ok i => engineOf i == 1
        | .error _ => false
    if open_ then none else some ((e :: es).filter fun x => !x.isDrain)

/-- An inbound port has too few elements for the pops of a step, or its binding has not been executed (R140, R141, R142). -/
def State.popBlocked (s : State) (ws : List QEntry) : Bool :=
  (List.range 4).any fun q =>
    let p := s.port q
    let nos := (ws.flatMap (·.pops)).filterMap fun x => if x.1 = q then some x.2 else none
    nos.any (fun no => p.no < no)
      || (p.bound && !p.dead && !p.ended && decide (p.fifo.length < countIf (fun no => no == p.no) nos))

/-- Tokens of FIFO k that a step takes. -/
def tokenPops (ws : List QEntry) (k : BitVec 3) : Nat := countIf (fun e => match e.w with | .vtkw _ j => j == k | _ => false) ws

/-- Tokens of FIFO k that are on their way from `VTKS` words issued or about to issue. -/
def State.tokenPushes (s : State) (ws : List QEntry) (k : BitVec 3) : Nat :=
  countIf (fun e => match e.w with | .vtks _ j => j == k | _ => false) ws
    + countIf (fun f => match f.dst with | .token j => j == k | _ => false) s.t.v.flights

/-- `VTKW` on an empty FIFO, or `VTKS` on a full one (R169). DEDUCED, log entry 38. -/
def State.tokenBlocked (s : State) (ws : List QEntry) : Bool :=
  (List.range 8).any fun k =>
    let j := BitVec.ofNat 3 k
    decide (s.tokens j < tokenPops ws j) || (s.tokenPushes ws j != 0 && !s.pushFits j (s.tokenPushes ws j))

/-- The first word of a step, in word order, that fails its checks, each word after the pops of those before it (R141, R173). -/
def State.stepCheck (s : State) : List QEntry → Nat → Option (QEntry × Nat × TrapInfo)
  | [], _ => none
  | e :: es, k => match s.vecCheck e with
    | some t => some (e, k, t)
    | none => (s.popPorts e).stepCheck es (k + 1)

/-- A watermark, in which a value above the queue's depth acts as the depth (R266). -/
def State.watermark (s : State) (lo w depth : Nat) : Nat := min (s.t.x.qwm.extractLsb' lo w).toNat depth

/-- The vector queue holds its words while a handler runs and no more than the watermark remain (R266). A step that begins above the watermark is taken
whole (DESIGN CHOICE, log entry 118). -/
def State.vecHeld (s : State) : Bool :=
  s.t.x.hmode && decide (countIf (fun e => !e.isDrain) s.t.v.q ≤ s.watermark 16 9 Config.vecDepth)

/-- A step is taken with nothing to issue: what is due lands, and the engine goes on to the next step. -/
def State.idleStep (s : State) : State := s.landDue.modV fun v => { v with step := v.step + 1, occ := v.occ - 1 }

end Sys2Proof.Machine
end

