-- ==== Sys2Proof/Machine/Atomics.lean ====
section
/-!
DEFINITION. The atomics on coherent objects (R236 to R238, R241, R242).
-/

namespace Sys2Proof.Machine

/-- An object is coherent. -/
def State.isCoherent (s : State) (oid : BitVec 48) : Bool := match s.obj oid with | some o => o.coherent | none => false

/-- The handle of a view names a coherent object. -/
def State.viewCoherent (s : State) (h : BitVec 24) : Bool := s.isCoherent (s.hentry s.t.ctx h.toNat).oid

/-- Pops of a binding that the vector words dispatched so far have still to make (R141). -/
def State.popsLeft (s : State) (q no : Nat) : Nat := countIf (fun (e : QEntry) => e.pops.contains (q, no)) s.t.v.q

/-- An inbound binding has a read ahead of it that a release awaits (R238, R243): the binding's word was dispatched before it, so every pop of a
dispatched vector word is to have been made, and the read-ahead that these make room for is to be full; of an absent object only the elements that
such words pop are read at all (R304). Reads that only a later word's pop makes room for follow the release. DEDUCED, log entry 44. -/
def State.readsOpen (s : State) (q : Nat) (p : Port) : Bool :=
  let absent := match s.obj p.oid with | some o => o.res == 3 | none => false
  p.bound && !p.dead && !p.ended &&
    if absent then decide (p.fifo.length < s.popsLeft q p.no) else decide (p.fifo.length < 8 ∨ 0 < s.popsLeft q p.no)

/-- A port's binding has an access event that has not taken its place (R238): a read of an inbound one, a push on its way through an outbound
one. -/
def State.portOpen (s : State) (q : Nat) : Bool :=
  let p := vget s.t.f.ports q Port.unbound
  s.isCoherent p.oid &&
    (if p.out then !p.fifo.isEmpty || p.lands || (p.bound && !p.dead && s.pushesOpen q) else s.readsOpen q p)

/-- An access event to a coherent object by a word of the task dispatched earlier has not taken its place (R238): of a queued or active fetch
command, a prefetch aside, which delivers nothing, of a binding, or of a write in the background (R240). The control engine's other accesses
have taken theirs. -/
def State.coherentOpen (s : State) : Bool :=
  let f := s.t.f
  let pre := fun (e : QEntry) => match e.w with | .fpre .. => true | _ => false
  let queued := (queuedViews f).any fun p => !pre p.1 && p.2.any s.viewCoherent
  let live := f.live.any fun a =>
    (fetViews a.e.w).length != 0 && !pre a.e &&
      (s.viewCoherent a.v.handle || s.viewCoherent a.v2.handle || a.outst.any fun r => s.isCoherent r.oid || s.isCoherent r.oid2)
  queued || live || (List.range 4).any s.portOpen || s.t.c.stores.any fun p => s.isCoherent p.oid

/-- A word whose access waits for a release's conditions (R238), and otherwise goes on. -/
def State.afterRelease (s : State) (r : Bool) (k : Res) : Res := if r && s.coherentOpen then .next (s.block .other .plain) else k

/-- The first trap of an atomic before its access (R242): poison of what it reads, then the checks of R240. -/
def State.atomicAcc (s : State) (w : Who) (a b : BitVec 5) (ps : List (Bool × Nat × Option Deferral)) (n : Nat) :
    Chk (Acc × List (Nat × Nat × Nat)) :=
  match s.poisoned w ([s.pS a, s.pS b] ++ ps) with
  | some i => .trap i
  | none => s.xacc w (s.sv a) (s.sv b) n rATOMIC n

/-- An n-byte value as an integer, signed unless u (R241). -/
def atVal (u : Bool) (n x : Nat) : Int := if u then x else (BitVec.ofNat (8 * n) x).toInt

/-- What an atomic of n bytes writes for an old value and its operands d and d + 1, if anything (R241). -/
def atomicWrite (i : Instr) (n : Nat) (v v2 : Word) (old : Nat) : Option Nat :=
  let x := v.toNat % 2 ^ (8 * n)
  match i with
  | .ast .. => some x
  | .aadd .. => some (old + x)
  | .amax _ _ _ _ u .. => some (if atVal u n old < atVal u n x then x else old)
  | .amin _ _ _ _ u .. => some (if atVal u n x < atVal u n old then x else old)
  | .aand .. => some (old &&& x)
  | .aor .. => some (old ||| x)
  | .axchg .. => some x
  | .acas .. => if old = x then some v2.toNat else none
  | .afadd .. => some (fAdd .f32 old x).1
  | _ => none

/-- Old as d receives it (R241). -/
def oldVal (u : Bool) (n old : Nat) : Word := if u then BitVec.ofNat 64 old else (BitVec.ofNat (8 * n) old).signExtend 64

/-- What d receives of an atomic (R241): old, or nothing of AST. -/
def atomicOld (i : Instr) (n old : Nat) : Option (BitVec 5 × Word) :=
  match i with
  | .ald _ d _ _ u .. => some (d, oldVal u n old)
  | .aadd _ d _ _ u .. => some (d, oldVal u n old)
  | .amax _ d _ _ u .. => some (d, oldVal u n old)
  | .amin _ d _ _ u .. => some (d, oldVal u n old)
  | .aand _ d _ _ u .. => some (d, oldVal u n old)
  | .aor _ d _ _ u .. => some (d, oldVal u n old)
  | .axchg _ d _ _ u .. => some (d, oldVal u n old)
  | .acas _ d _ _ u .. => some ((d.setWidth 5) <<< 1, oldVal u n old)
  | .afadd _ d .. => some (d, oldVal true n old)
  | _ => none

/-- An atomic is over: d receives old, and control goes on (R241). -/
def State.atomicEnd (s : State) (S : Bool) (i : Instr) (n old : Nat) : State :=
  (match atomicOld i n old with | some (d, x) => s.wrS d x | none => s).advance S

/-- Bytes of a list of runs. -/
def runBytes (rs : List (Nat × Nat × Nat)) : Nat := (rs.map (·.2.2)).sum

/-- An atomic reads what it writes to; AST does not (R241). -/
def readsOld (i : Instr) : Bool := match i with | .ast .. => false | _ => true

/-- The read and the write of an atomic, next to each other (R237, R242): the machine after them and old, or their FETCH-ERROR, with which no byte
changes. DEDUCED, log entry 29. -/
def State.rmw (s : State) (i : Instr) (a : Acc) (rs : List (Nat × Nat × Nat)) (v v2 : Word) : State × Except (Nat × Nat) Nat :=
  let n := runBytes rs
  match (if readsOld i then s.readRuns a false rs else (s, .ok [])) with
  | (s1, .error e) => (s1, .error e)
  | (s1, .ok bs) => match atomicWrite i n v v2 (leNat bs) with
    | none => (s1, .ok (leNat bs))
    | some x => match s1.writeRuns a rs (leBytes n x) with
      | (_, some e) => (s1, .error e)
      | (s2, none) => (s2, .ok (leNat bs))

/-- A resolved atomic: its access, its trap, or its wait (R55, R73, R88, R242). -/
def State.atomicGo (s : State) (S : Bool) (i : Instr) (a : Acc) (rs : List (Nat × Nat × Nat)) (v v2 : Word) : Res :=
  let wake := Wake.access i a.h a.oid rs v v2
  let go := match s.rmw i a rs v v2 with
    | (s1, .error e) => s.orNoReply wake e (.next ((s1.unpendRuns a.oid rs).trapWord (s1.fetchTrap (whoOf i) a e)))
    | (s1, .ok old) => .next (s1.atomicEnd S i (runBytes rs) old)
  if s.storesHold a then .next (s.block wake .plain)
  else if readsOld i then s.onceRead i a false rs v v2 go else go

/-- An atomic of n bytes: poison, the checks of R240, for a release its wait, and the access, for which every word but `ALD` has its pages
prepared (R238, R242, R300, R301, R303). A value that arrived while the task was saved is delivered now (R307). -/
def State.atomic (s : State) (S : Bool) (i : Instr) (a b : BitVec 5) (ds : List (BitVec 5)) (r : Bool) (n : Nat) : Res :=
  match s.progress with
  | .sent _ => .next s
  | .failed t => .next (s.trapWord t)
  | .answered v => .next (s.atomicEnd S i n v.toNat)
  | _ => match s.resolved with
    | some (acc, rs, v, v2) => s.atomicGo S i acc rs v v2
    | none => match s.atomicAcc (whoOf i) a b (ds.map s.pS) n with
      | .stall => .next (s.block .other .plain)
      | .trap t => if t.cause = .missingObject then s.askMason t else .next (s.trapWord t)
      | .ok (acc, rs) =>
        let v := s.sv (ds.headD 0)
        let v2 := s.sv ((ds.drop 1).headD 0)
        s.afterRelease r (match i with
          | .ald .. => s.atomicGo S i acc rs v v2
          | _ => s.whenPrepared (whoOf i) acc rs fun s1 => s1.atomicGo S i acc rs v v2)

/-- ALD (R241, R242): nothing is written, and nothing but a and b is read. -/
def execAld (S : Bool) (d a b : BitVec 5) (u q : Bool) (n : BitVec 2) (s : State) : Res :=
  s.atomic S (.ald S d a b u q n) a b [] false (2 ^ n.toNat)
/-- AST (R241, R242): its FETCH-ERROR is precise and no byte changes, as of every atomic. -/
def execAst (S : Bool) (d a b : BitVec 5) (r : Bool) (n : BitVec 2) (s : State) : Res :=
  s.atomic S (.ast S d a b r n) a b [d] r (2 ^ n.toNat)
/-- AADD (R241). -/
def execAadd (S : Bool) (d a b : BitVec 5) (u r q : Bool) (n : BitVec 2) (s : State) : Res :=
  s.atomic S (.aadd S d a b u r q n) a b [d] r (2 ^ n.toNat)
/-- AMAX (R241). -/
def execAmax (S : Bool) (d a b : BitVec 5) (u r q : Bool) (n : BitVec 2) (s : State) : Res :=
  s.atomic S (.amax S d a b u r q n) a b [d] r (2 ^ n.toNat)
/-- AMIN (R241). -/
def execAmin (S : Bool) (d a b : BitVec 5) (u r q : Bool) (n : BitVec 2) (s : State) : Res :=
  s.atomic S (.amin S d a b u r q n) a b [d] r (2 ^ n.toNat)
/-- AAND (R241). -/
def execAand (S : Bool) (d a b : BitVec 5) (u r q : Bool) (n : BitVec 2) (s : State) : Res :=
  s.atomic S (.aand S d a b u r q n) a b [d] r (2 ^ n.toNat)
/-- AOR (R241). -/
def execAor (S : Bool) (d a b : BitVec 5) (u r q : Bool) (n : BitVec 2) (s : State) : Res :=
  s.atomic S (.aor S d a b u r q n) a b [d] r (2 ^ n.toNat)
/-- AXCHG (R241). -/
def execAxchg (S : Bool) (d a b : BitVec 5) (u r q : Bool) (n : BitVec 2) (s : State) : Res :=
  s.atomic S (.axchg S d a b u r q n) a b [d] r (2 ^ n.toNat)
/-- ACAS: the new value is that of register d + 1 (R241). -/
def execAcas (S : Bool) (d : BitVec 4) (a b : BitVec 5) (u r q : Bool) (n : BitVec 2) (s : State) : Res :=
  let lo : BitVec 5 := (d.setWidth 5) <<< 1
  s.atomic S (.acas S d a b u r q n) a b [lo, lo ||| 1] r (2 ^ n.toNat)
/-- AFADD: it sets no flag (R242). -/
def execAfadd (S : Bool) (d a b : BitVec 5) (r q : Bool) (s : State) : Res :=
  s.atomic S (.afadd S d a b r q) a b [d] r 4

end Sys2Proof.Machine
end

