-- ==== Sys2Proof/Machine/Vector.lean ====
section
/-!
DEFINITION. The VEC and VMV words (chapter 9, R162 to R201), the steps of the vector engine (R165, R169, R172, R173) and the delivery of
results to the control engine (R171).
-/

namespace Sys2Proof.Machine

/-- A float operation of two operands on exact values, rounded once under RNE (R176). -/
def State.fbin (s : State) (e : QEntry) (d a b : BitVec 5) (m t : BitVec 3) (g : Ex → Ex → Ex) : State :=
  let f := fmtOfT t.toNat
  s.lanes e d m f fun i => (g (exOf f (s.vel e a f i)) (exOf f (s.vel e b f i))).round f .rne 0 0

/-- A fused operation: g of the product and d (R176). -/
def State.ffma (s : State) (e : QEntry) (d a b : BitVec 5) (m t : BitVec 3) (g : Ex → Ex → Ex) : State :=
  let f := fmtOfT t.toNat
  s.lanes e d m f fun i =>
    (g ((exOf f (s.vel e a f i)).mul (exOf f (s.vel e b f i))) (exOf f (s.vel e d f i))).round f .rne 0 0

/-- An operation of two operands without flags. -/
def State.ebin (s : State) (e : QEntry) (d a b : BitVec 5) (m t : BitVec 3) (g : Fmt → Nat → Nat → Nat) : State :=
  let f := fmtOfT t.toNat
  s.lanes e d m f fun i => (g f (s.vel e a f i) (s.vel e b f i), 0)

/-- An operation of one operand. -/
def State.eun (s : State) (e : QEntry) (d a : BitVec 5) (m t : BitVec 3) (g : Fmt → Nat → Nat × Fl) : State :=
  let f := fmtOfT t.toNat
  s.lanes e d m f fun i => g f (s.vel e a f i)

/-- An operation of two integers under t's signedness, modulo 2^e (R183). -/
def ibin (g : Int → Int → Int) (f : Fmt) (x y : Nat) : Nat := intEnc f (g (intVal f x) (intVal f y))

/-- VADD (R176). -/
def execVadd (S : Bool) (d a b : BitVec 5) (m t : BitVec 3) (s : State) : Res :=
  s.vword S (.vadd S d a b m t) fun e s => s.fbin e d a b m t fun x y => x.add y
/-- VSUB (R176). -/
def execVsub (S : Bool) (d a b : BitVec 5) (m t : BitVec 3) (s : State) : Res :=
  s.vword S (.vsub S d a b m t) fun e s => s.fbin e d a b m t fun x y => x.add y.neg
/-- VMUL (R176). -/
def execVmul (S : Bool) (d a b : BitVec 5) (m t : BitVec 3) (s : State) : Res :=
  s.vword S (.vmul S d a b m t) fun e s => s.fbin e d a b m t fun x y => x.mul y
/-- VFMA: a × b + d (R176). -/
def execVfma (S : Bool) (d a b : BitVec 5) (m t : BitVec 3) (s : State) : Res :=
  s.vword S (.vfma S d a b m t) fun e s => s.ffma e d a b m t fun p y => p.add y
/-- VFMS: a × b − d (R176). -/
def execVfms (S : Bool) (d a b : BitVec 5) (m t : BitVec 3) (s : State) : Res :=
  s.vword S (.vfms S d a b m t) fun e s => s.ffma e d a b m t fun p y => p.add y.neg
/-- VFNMA: −(a × b) + d (R176). -/
def execVfnma (S : Bool) (d a b : BitVec 5) (m t : BitVec 3) (s : State) : Res :=
  s.vword S (.vfnma S d a b m t) fun e s => s.ffma e d a b m t fun p y => p.neg.add y
/-- VMAX (R177). -/
def execVmax (S : Bool) (d a b : BitVec 5) (m t : BitVec 3) (s : State) : Res :=
  s.vword S (.vmax S d a b m t) fun e s => s.ebin e d a b m t fun f x y => fMaxMin f true x y
/-- VMIN (R177). -/
def execVmin (S : Bool) (d a b : BitVec 5) (m t : BitVec 3) (s : State) : Res :=
  s.vword S (.vmin S d a b m t) fun e s => s.ebin e d a b m t fun f x y => fMaxMin f false x y
/-- VABS clears the sign bit (R177). -/
def execVabs (S : Bool) (d a : BitVec 5) (m t : BitVec 3) (s : State) : Res :=
  s.vword S (.vabs S d a m t) fun e s => s.eun e d a m t fun f x => (x % 2 ^ (fmtWidth f - 1), 0)
/-- VNEG inverts the sign bit (R177). -/
def execVneg (S : Bool) (d a : BitVec 5) (m t : BitVec 3) (s : State) : Res :=
  s.vword S (.vneg S d a m t) fun e s => s.eun e d a m t fun f x => (x ^^^ 2 ^ (fmtWidth f - 1), 0)

/-- The class bit of a float pattern (R177). -/
def classBit (f : Fmt) (b : Nat) : Nat :=
  match fval f b with
  | .nan => 2 ^ 8
  | .inf s => if s then 2 ^ 0 else 2 ^ 7
  | .zero s => if s then 2 ^ 3 else 2 ^ 4
  | .fin d =>
    let sub := d.log2 < minExp f
    if d.m < 0 then (if sub then 2 ^ 2 else 2 ^ 1) else if sub then 2 ^ 5 else 2 ^ 6

/-- VCLASS (R177). -/
def execVclass (S : Bool) (d a : BitVec 5) (m t : BitVec 3) (s : State) : Res :=
  s.vword S (.vclass S d a m t) fun e s => s.eun e d a m t fun f x => (classBit f x, 0)
/-- VRCP (R180). -/
def execVrcp (S : Bool) (d a : BitVec 5) (m t : BitVec 3) (s : State) : Res :=
  s.vword S (.vrcp S d a m t) fun e s => s.eun e d a m t (builtin .rcp)
/-- VRSQ (R180). -/
def execVrsq (S : Bool) (d a : BitVec 5) (m t : BitVec 3) (s : State) : Res :=
  s.vword S (.vrsq S d a m t) fun e s => s.eun e d a m t (builtin .rsq)
/-- VEXP2 (R180). -/
def execVexp2 (S : Bool) (d a : BitVec 5) (m t : BitVec 3) (s : State) : Res :=
  s.vword S (.vexp2 S d a m t) fun e s => s.eun e d a m t (builtin .exp2)
/-- VLOG2 (R180). -/
def execVlog2 (S : Bool) (d a : BitVec 5) (m t : BitVec 3) (s : State) : Res :=
  s.vword S (.vlog2 S d a m t) fun e s => s.eun e d a m t (builtin .log2)

/-- A comparison of float values (R178). -/
def fcc (k : Nat) (x y : FVal) : Bool :=
  let un := x == .nan || y == .nan
  match k with
  | 0 => fEqual x y | 1 => !fEqual x y | 2 => fLess x y | 3 => fLess x y || fEqual x y
  | 4 => fLess y x | 5 => fLess y x || fEqual x y | 6 => un | _ => !un

/-- A comparison of integers (R178). -/
def icc (k : Nat) (x y : Int) : Bool :=
  match k with
  | 0 => x == y | 1 => x != y | 2 => x < y | 3 => x ≤ y | 4 => y < x | _ => y ≤ x

/-- A comparison's mask: all e/8 bits of each element (R178). -/
def State.compareMask (s : State) (e : QEntry) (d : BitVec 3) (a b : BitVec 5) (f : Fmt) (g : Nat → Nat → Bool) : State :=
  let w := fmtWidth f / 8
  let xs := (List.range (2048 / fmtWidth f)).map fun i => if g (s.vel e a f i) (s.vel e b f i) then 2 ^ w - 1 else 0
  s.maskResult e d (BitVec.ofNat 256 (packElems w xs)) (BitVec.allOnes 256) false

/-- VCMP (R178). -/
def execVcmp (S : Bool) (d : BitVec 3) (a b : BitVec 5) (c t : BitVec 3) (s : State) : Res :=
  s.vword S (.vcmp S d a b c t) fun e s =>
    let f := fmtOfT t.toNat
    s.compareMask e d a b f fun x y => fcc c.toNat (fval f x) (fval f y)
/-- VICMP (R178). -/
def execVicmp (S : Bool) (d : BitVec 3) (a b : BitVec 5) (c t : BitVec 3) (s : State) : Res :=
  s.vword S (.vicmp S d a b c t) fun e s =>
    let f := fmtOfT t.toNat
    s.compareMask e d a b f fun x y => icc c.toNat (intVal f x) (intVal f y)

/-- VSEL writes every element (R179). -/
def execVsel (S : Bool) (d a b : BitVec 5) (m t : BitVec 3) (s : State) : Res :=
  s.vword S (.vsel S d a b m t) fun e s =>
    let f := fmtOfT t.toNat
    let w := fmtWidth f
    let mk := (s.mread m).bits
    let xs := (List.range (2048 / w)).map fun i => if activeAt mk w i then s.vel e a f i else s.vel e b f i
    s.result e d (ofElems w xs) (BitVec.allOnes 2048) false 0

/-- a × 2^n (R179). -/
def scaleEl (f : Fmt) (x n : Nat) : Nat × Fl :=
  let k : Int := if 2 ^ (fmtWidth f - 1) ≤ n then (n : Int) - 2 ^ fmtWidth f else n
  match fval f x with
  | .nan => (canonNan f, 0)
  | .fin v => roundFloat f .rne 0 0 false (v.scale k)
  | _ => (x, 0)

/-- VSCALE (R179). -/
def execVscale (S : Bool) (d a b : BitVec 5) (m t : BitVec 3) (s : State) : Res :=
  s.vword S (.vscale S d a b m t) fun e s =>
    let f := fmtOfT t.toNat
    s.lanes e d m f fun i => scaleEl f (s.vel e a f i) (s.vel e b f i)

/-- EMIN, signed, of a descriptor (R181). -/
def tabEmin (desc : BitVec 13) : Int := (desc.extractLsb' 0 8).toInt
/-- LOGN (R181). -/
def tabLogn (desc : BitVec 13) : Nat := (desc.extractLsb' 8 4).toNat

/-- The segment within a half that an exact value falls into (R182). -/
def tabK (desc : BitVec 13) (x : FVal) : Nat :=
  let logn := tabLogn desc
  let B := 8 - logn - (desc.getLsbD 12).toNat
  let H := 2 ^ (logn + B)
  match x with
  | .fin v =>
    let E := v.log2
    if E < tabEmin desc then 0
    else if tabEmin desc + 2 ^ logn ≤ E then H - 1
    else (E - tabEmin desc).toNat * 2 ^ B + (v.mant.floorAbs B - 2 ^ B)
  | .inf _ => H - 1
  | _ => 0

/-- One element through an interpolation table (R182). -/
def tableEl (tb : Tab) (f : Fmt) (b : Nat) : Nat × Fl :=
  match fval f b with
  | .nan => (canonNan f, 0)
  | x =>
    let k := tabK tb.desc x
    let j := if !tb.desc.getLsbD 12 then k else if b / 2 ^ (fmtWidth f - 1) % 2 = 1 then 127 - k else 128 + k
    let seg := tb.seg.toNat / 2 ^ (64 * j) % 2 ^ 64
    (((exOf .f32 (seg / 2 ^ 32)).mul x.ex).add (exOf .f32 (seg % 2 ^ 32))).round f .rne 0 0

/-- VTBL (R182). -/
def execVtbl (S : Bool) (d a : BitVec 5) (n m t : BitVec 3) (s : State) : Res :=
  s.vword S (.vtbl S d a n m t) fun e s =>
    s.eun e d a m t (tableEl (vget s.t.v.tabs n.toNat { seg := 0, desc := 0 }))

/-- VIADD (R183). -/
def execViadd (S : Bool) (d a b : BitVec 5) (m t : BitVec 3) (s : State) : Res :=
  s.vword S (.viadd S d a b m t) fun e s => s.ebin e d a b m t (ibin (· + ·))
/-- VISUB (R183). -/
def execVisub (S : Bool) (d a b : BitVec 5) (m t : BitVec 3) (s : State) : Res :=
  s.vword S (.visub S d a b m t) fun e s => s.ebin e d a b m t (ibin (· - ·))
/-- VIMUL (R183). -/
def execVimul (S : Bool) (d a b : BitVec 5) (m t : BitVec 3) (s : State) : Res :=
  s.vword S (.vimul S d a b m t) fun e s => s.ebin e d a b m t (ibin (· * ·))
/-- VIMULH: the high half of the product (R183). -/
def execVimulh (S : Bool) (d a b : BitVec 5) (m t : BitVec 3) (s : State) : Res :=
  s.vword S (.vimulh S d a b m t) fun e s => s.ebin e d a b m t fun f x y =>
    ibin (fun u v => (u * v).fdiv (2 ^ fmtWidth f)) f x y
/-- VAND (R183). -/
def execVand (S : Bool) (d a b : BitVec 5) (m t : BitVec 3) (s : State) : Res :=
  s.vword S (.vand S d a b m t) fun e s => s.ebin e d a b m t fun _ x y => x &&& y
/-- VOR (R183). -/
def execVor (S : Bool) (d a b : BitVec 5) (m t : BitVec 3) (s : State) : Res :=
  s.vword S (.vor S d a b m t) fun e s => s.ebin e d a b m t fun _ x y => x ||| y
/-- VXOR (R183). -/
def execVxor (S : Bool) (d a b : BitVec 5) (m t : BitVec 3) (s : State) : Res :=
  s.vword S (.vxor S d a b m t) fun e s => s.ebin e d a b m t fun _ x y => x ^^^ y
/-- VSHL: by b mod e (R183). -/
def execVshl (S : Bool) (d a b : BitVec 5) (m t : BitVec 3) (s : State) : Res :=
  s.vword S (.vshl S d a b m t) fun e s => s.ebin e d a b m t fun f x y => x * 2 ^ (y % fmtWidth f)
/-- VSHR: logical (R183). -/
def execVshr (S : Bool) (d a b : BitVec 5) (m t : BitVec 3) (s : State) : Res :=
  s.vword S (.vshr S d a b m t) fun e s => s.ebin e d a b m t fun f x y => x / 2 ^ (y % fmtWidth f)
/-- VSRA: arithmetic (R183). -/
def execVsra (S : Bool) (d a b : BitVec 5) (m t : BitVec 3) (s : State) : Res :=
  s.vword S (.vsra S d a b m t) fun e s => s.ebin e d a b m t fun f x y =>
    let w := fmtWidth f
    let v : Int := if 2 ^ (w - 1) ≤ x then (x : Int) - 2 ^ w else x
    intEnc f (v.fdiv (2 ^ (y % w)))
/-- VIMIN (R183). -/
def execVimin (S : Bool) (d a b : BitVec 5) (m t : BitVec 3) (s : State) : Res :=
  s.vword S (.vimin S d a b m t) fun e s => s.ebin e d a b m t (ibin min)
/-- VIMAX (R183). -/
def execVimax (S : Bool) (d a b : BitVec 5) (m t : BitVec 3) (s : State) : Res :=
  s.vword S (.vimax S d a b m t) fun e s => s.ebin e d a b m t (ibin max)
/-- VIABS (R183). -/
def execViabs (S : Bool) (d a : BitVec 5) (m t : BitVec 3) (s : State) : Res :=
  s.vword S (.viabs S d a m t) fun e s => s.eun e d a m t fun f x => (intEnc f (intVal f x).natAbs, 0)
/-- VIOTA: the element index (R183). -/
def execViota (S : Bool) (d : BitVec 5) (m t : BitVec 3) (s : State) : Res :=
  s.vword S (.viota S d m t) fun e s => s.lanes e d m (fmtOfT t.toNat) fun i => (i, 0)

/-- One level of the reduction tree (R184): elements (0, 1), (2, 3) and so on. -/
def treeLevel (g : Nat → Nat → Nat × Fl) : List Nat → List (Nat × Fl)
  | x :: y :: r => g x y :: treeLevel g r
  | [x] => [(x, 0)]
  | [] => []

/-- The reduction tree (R184): the root and the flags of every node. -/
def reduceTree (g : Nat → Nat → Nat × Fl) : Nat → List Nat → Nat × Fl
  | 0, l => (l.headD 0, 0)
  | n + 1, l =>
    let r := treeLevel g l
    let (x, fl) := reduceTree g n (r.map (·.1))
    (x, orFlags r ||| fl)

/-- Inputs of a reduction, widened to F32 or I32, an inactive one replaced by the identity (R184). -/
def State.reduceIn (s : State) (e : QEntry) (a : BitVec 5) (m : BitVec 3) (f : Fmt) (ident : Nat) : List Nat :=
  let w := fmtWidth f
  let mk := (s.mread m).bits
  (List.range (2048 / w)).map fun i =>
    if activeAt mk w i then
      let x := s.vel e a f i
      if fmtIsInt f then intEnc .i32 (intVal f x) else (convert f .f32 .rne 0 0 false x).1
    else ident

/-- A reduction's result: bytes 0 to 3 of d, the rest zero (R184). -/
def State.reduce (s : State) (e : QEntry) (d a : BitVec 5) (m t : BitVec 3) (fi ii : Fmt → Nat)
    (fg ig : Nat → Nat → Nat × Fl) : State :=
  let f := fmtOfT t.toNat
  let int := fmtIsInt f
  let xs := s.reduceIn e a m f (if int then ii f else fi f)
  let (x, fl) := reduceTree (if int then ig else fg) 8 xs
  s.result e d (BitVec.ofNat 2048 (x % 2 ^ 32)) (BitVec.allOnes 2048) false fl

/-- VRSUM (R184). -/
def execVrsum (S : Bool) (d a : BitVec 5) (m t : BitVec 3) (s : State) : Res :=
  s.vword S (.vrsum S d a m t) fun e s =>
    s.reduce e d a m t (fun _ => signBit .f32 true) (fun _ => 0) (fAdd .f32) fun x y => ((x + y) % 2 ^ 32, 0)
/-- VRMAX (R184). -/
def execVrmax (S : Bool) (d a : BitVec 5) (m t : BitVec 3) (s : State) : Res :=
  s.vword S (.vrmax S d a m t) fun e s =>
    s.reduce e d a m t (fun _ => infEnc .f32 true) (fun f => intEnc .i32 (intMin f)) (fun x y => (fMaxMin .f32 true x y, 0))
      fun x y => (ibin max .i32 x y, 0)
/-- VRMIN (R184). -/
def execVrmin (S : Bool) (d a : BitVec 5) (m t : BitVec 3) (s : State) : Res :=
  s.vword S (.vrmin S d a m t) fun e s =>
    s.reduce e d a m t (fun _ => infEnc .f32 false) (fun f => intEnc .i32 (intMax f)) (fun x y => (fMaxMin .f32 false x y, 0))
      fun x y => (ibin min .i32 x y, 0)

/-- A running sum (R185): the accumulator after each element; an inactive element leaves it. -/
def scanList (f : Fmt) : Nat → List (Bool × Nat) → List (Nat × Fl)
  | _, [] => []
  | acc, (act, x) :: r =>
    let y := if !act then (acc, 0) else if fmtIsInt f then ((acc + x) % 2 ^ fmtWidth f, 0) else fAdd f acc x
    y :: scanList f y.1 r

/-- VSCAN (R185). -/
def execVscan (S : Bool) (d a : BitVec 5) (m t : BitVec 3) (s : State) : Res :=
  s.vword S (.vscan S d a m t) fun e s =>
    let f := fmtOfT t.toNat
    let w := fmtWidth f
    let mk := (s.mread m).bits
    let ins := (List.range (2048 / w)).map fun i => (activeAt mk w i, s.vel e a f i)
    let out := scanList f (if fmtIsInt f then 0 else signBit f true) ins
    s.result e d (ofElems w (out.map (·.1))) (maskOf mk w (2048 / w)) (m != 0) (orFlags out)

/-- A format code that a word's fields hold; the decoder admits no other. -/
def fmtOf (c : BitVec 4) : Fmt := (fmtOfCode c.toNat).getD .f32

/-- A rounding code that a word's field holds. -/
def rndOf (c : BitVec 3) : Rnd := (rndOfCode c.toNat).getD .rne

/-- The random field of result element i when P elements share a lane (R151), from the generator at dispatch (R152). -/
def QEntry.random (e : QEntry) (P i : Nat) : Nat := randomField (randomWord e.sr.seed e.sr.stream e.sr.count (i / P)) P (i % P)

/-- Elements that a conversion handles (R186, R196). -/
def convN (src dst : Fmt) : Nat := 2048 / max 8 (max (fmtWidth src) (fmtWidth dst))

/-- Conversion of a list of elements (R153), element i with its random field. -/
def convList (src dst : Fmt) (mode : Rnd) (w : Nat) (rnd : Nat → Nat) (sat : Bool) (l : List Nat) : List (Nat × Fl) :=
  l.zipIdx.map fun p => convert src dst mode w (rnd p.2) sat p.1

/-- VCVT and VCVTS (R186): bits above the elements are written as zero. -/
def State.vconvert (s : State) (e : QEntry) (d a : BitVec 5) (src dst : Fmt) (mode : Rnd) (sat : Bool) : State :=
  let n := convN src dst
  let P := n / 64
  let b := (s.vread e a).bits
  let xs := convList src dst mode (32 / P) (e.random P) sat ((List.range n).map fun i => elemAt b (fmtWidth src) i)
  s.result e d (ofElems (fmtWidth dst) (xs.map (·.1))) (BitVec.allOnes 2048) false (orFlags xs)

/-- VCVT (R186). -/
def execVcvt (S : Bool) (d a : BitVec 5) (x t : BitVec 4) (r : BitVec 3) (s : State) : Res :=
  s.vword S (.vcvt S d a x t r) fun e s => s.vconvert e d a (fmtOf x) (fmtOf t) (rndOf r) false
/-- VCVTS (R186). -/
def execVcvts (S : Bool) (d a : BitVec 5) (x t : BitVec 4) (r : BitVec 3) (s : State) : Res :=
  s.vword S (.vcvts S d a x t r) fun e s => s.vconvert e d a (fmtOf x) (fmtOf t) (rndOf r) true

/-- An infinity replaced by the largest finite magnitude (R187). -/
def clampInf (f : Fmt) (b : Nat) : Nat × Fl :=
  match fval f b with
  | .inf s => (maxEnc f + signBit f s, flSATURATED)
  | _ => (b, 0)

/-- The blocks of 32 of a list of values, quantised (R157): scales, elements, flags. -/
def quantBlocks (elem : Fmt) (mode : Rnd) (w : Nat) (rnd : Nat → Nat) : Nat → Nat → List FVal → List Nat × List Nat × Fl
  | 0, _, _ => ([], [], 0)
  | n + 1, base, l =>
    let (sc, els, fl) := mxQuantise (l.take 32) elem mode w (fun i => rnd (base + i))
    let (scs, es, f2) := quantBlocks elem mode w rnd n (base + 32) (l.drop 32)
    (sc :: scs, els.map (·.1) ++ es, fl ||| orFlags els ||| f2)

/-- Elements of a VQMX or VDQMX (R187, R188). -/
def mxN (bf : Bool) : Nat := if bf then 128 else 64

/-- The lower register of a pair. -/
def pairLo (d : BitVec 4) : BitVec 5 := (d.setWidth 5) <<< 1

/-- VQMX (R187): elements into d, scales into d + 1, every other bit kept. -/
def execVqmx (S : Bool) (d : BitVec 4) (a : BitVec 5) (el : BitVec 4) (x : Bool) (r : BitVec 3) (y : Bool) (p : BitVec 2)
    (s : State) : Res :=
  s.vword S (.vqmx S d a el x r y p) fun e s =>
    let src := if x then Fmt.bf16 else Fmt.f32
    let elem := fmtOf el
    let n := mxN x
    let P := n / 64
    let w := fmtWidth elem
    let ins := (List.range n).map fun i =>
      let b := s.vel e a src i
      if y then clampInf src b else (b, 0)
    let (scs, els, fl) := quantBlocks elem (rndOf r) (32 / P) (e.random P) (n / 32) 0 (ins.map fun q => fval src q.1)
    let fl := fl ||| orFlags ins
    let lo := pairLo d
    let hi := lo ||| 1
    let off := p.toNat * n
    let v0 : BitVec 2048 := BitVec.ofNat 2048 (packElems w els * 2 ^ (off * w))
    let k0 : BitVec 2048 := BitVec.ofNat 2048 ((2 ^ (n * w) - 1) * 2 ^ (off * w))
    let v1 : BitVec 2048 := BitVec.ofNat 2048 (packElems 8 scs * 2 ^ (8 * (off / 32)))
    let k1 : BitVec 2048 := BitVec.ofNat 2048 ((2 ^ (8 * (n / 32)) - 1) * 2 ^ (8 * (off / 32)))
    let poison := s.vpoison e
    let plain := (e.portOf lo).isNone
    let s := s.launch e (e.dstOf lo) v0 k0 poison plain fl (if (e.portOf hi).isNone then some hi else none)
    s.launch e (e.dstOf hi) v1 k1 poison (e.portOf hi).isNone 0 none

/-- VDQMX (R188). -/
def execVdqmx (S : Bool) (d : BitVec 5) (a : BitVec 4) (el : BitVec 4) (x : Bool) (p : BitVec 2) (s : State) : Res :=
  s.vword S (.vdqmx S d a el x p) fun e s =>
    let dst := if x then Fmt.bf16 else Fmt.f32
    let elem := fmtOf el
    let n := mxN x
    let off := p.toNat * n
    let b0 := (s.vread e (pairLo a)).bits
    let b1 := (s.vread e (pairLo a ||| 1)).bits
    let xs := (List.range n).map fun i =>
      convVal dst .rne 0 0 false (mxValue elem (elemAt b1 8 (off / 32 + i / 32)) (elemAt b0 (fmtWidth elem) (off + i)))
    s.result e d (ofElems (fmtWidth dst) (xs.map (·.1))) (BitVec.allOnes 2048) false (orFlags xs)

/-- VRNG (R189): lane i takes the random word of lane i. -/
def execVrng (S : Bool) (d : BitVec 5) (m : BitVec 3) (s : State) : Res :=
  s.vword S (.vrng S d m) fun e s => s.lanes e d m .i32 fun i => (e.random 1 i, 0)
/-- VSEED took its effect at dispatch (R152, R189). -/
def execVseed (S : Bool) (a b : BitVec 5) (s : State) : Res := s.vword S (.vseed S a b) fun _ s => s

/-- Elements active under both masks, and elements active under m (R190). -/
def State.votes (s : State) (a m t : BitVec 3) : Nat × Nat :=
  let w := fmtWidth (fmtOfT t.toNat)
  let l := (List.range (2048 / w)).filter fun i => activeAt (s.mread m).bits w i
  (countIf (fun i => activeAt (s.mread a).bits w i) l, l.length)

/-- VANY (R190). -/
def execVany (S : Bool) (c a m t : BitVec 3) (s : State) : Res :=
  s.vword S (.vany S c a m t) fun e s => s.deliverReg e (if (s.votes a m t).1 = 0 then 0 else 1)
/-- VALL (R190). -/
def execVall (S : Bool) (c a m t : BitVec 3) (s : State) : Res :=
  s.vword S (.vall S c a m t) fun e s => s.deliverReg e (if (s.votes a m t).1 = (s.votes a m t).2 then 1 else 0)
/-- VMPOP (R190). -/
def execVmpop (S : Bool) (d : BitVec 5) (a m t : BitVec 3) (s : State) : Res :=
  s.vword S (.vmpop S d a m t) fun e s => s.deliverReg e (BitVec.ofNat 64 (s.votes a m t).1)

/-- The operations of VMLOG (R191). -/
def maskOp (o : Nat) (x y : BitVec 256) : BitVec 256 :=
  match o with
  | 0 => x &&& y | 1 => x ||| y | 2 => x ^^^ y | 3 => x &&& ~~~y | 4 => x ||| ~~~y | 5 => ~~~(x ^^^ y) | 6 => ~~~(x &&& y)
  | _ => ~~~(x ||| y)

/-- VMLOG (R191). -/
def execVmlog (S : Bool) (d a b m o : BitVec 3) (s : State) : Res :=
  s.vword S (.vmlog S d a b m o) fun e s =>
    s.maskResult e d (maskOp o.toNat (s.mread a).bits (s.mread b).bits) (s.mread m).bits (m != 0)

/-- VBCST (R192). -/
def execVbcst (S : Bool) (d a : BitVec 5) (m t : BitVec 3) (s : State) : Res :=
  s.vword S (.vbcst S d a m t) fun e s => s.lanes e d m (fmtOfT t.toNat) fun _ => ((e.cap 0).toNat, 0)
/-- VEXT (R192). -/
def execVext (S : Bool) (d a b : BitVec 5) (t : BitVec 3) (s : State) : Res :=
  s.vword S (.vext S d a b t) fun e s =>
    let f := fmtOfT t.toNat
    let x := s.vel e a f ((e.cap 0).toNat % (2048 / fmtWidth f))
    s.deliverReg e (if fmtIsInt f then BitVec.ofInt 64 (intVal f x) else BitVec.ofNat 64 x)
/-- VPERM (R192). -/
def execVperm (S : Bool) (d a b : BitVec 5) (m t : BitVec 3) (s : State) : Res :=
  s.vword S (.vperm S d a b m t) fun e s =>
    let f := fmtOfT t.toNat
    s.lanes e d m f fun i => (s.vel e a f (s.vel e b f i % (2048 / fmtWidth f)), 0)

/-- VNOP (R165): n steps, at least one. -/
def execVnop (S : Bool) (n : BitVec 16) (s : State) : Res :=
  s.vword S (.vnop S n) fun _ s => s.modV fun v => { v with occ := max v.occ (n.toNat - 1) }

/-- VLD (R193). -/
def execVld (S : Bool) (d a : BitVec 5) (i : BitVec 11) (s : State) : Res :=
  s.vword S (.vld S d a i) fun e s =>
    s.result e d (bitsOfBytes 2048 (s.vload (e.vldOff i).toNat 256)) (BitVec.allOnes 2048) false 0
/-- VST (R193). -/
def execVst (S : Bool) (d a : BitVec 5) (i : BitVec 11) (s : State) : Res :=
  s.vword S (.vst S d a i) fun e s => s.vstore (e.vldOff i).toNat (regBytes (s.vread e d).bits)
/-- VLDS: rows of 8 << r bytes (R193). -/
def execVlds (S : Bool) (d a b : BitVec 5) (r : BitVec 2) (s : State) : Res :=
  s.vword S (.vlds S d a b r) fun e s =>
    let bs := (e.rowOffs (3 + r.toNat)).flatMap fun o => s.vload o.toNat (2 ^ (3 + r.toNat))
    s.result e d (bitsOfBytes 2048 bs) (BitVec.allOnes 2048) false 0
/-- VSTS: where rows overlap the higher row's bytes remain (R193). -/
def execVsts (S : Bool) (d a b : BitVec 5) (r : BitVec 2) (s : State) : Res :=
  s.vword S (.vsts S d a b r) fun e s =>
    let n := 2 ^ (3 + r.toNat)
    let bs := regBytes (s.vread e d).bits
    (e.rowOffs (3 + r.toNat)).zipIdx.foldl (fun s p => s.vstore p.1.toNat ((bs.drop (p.2 * n)).take n)) s

/-- VGTH (R194): active elements loaded, inactive ones kept, the bytes above the last element zero. -/
def execVgth (S : Bool) (d a b : BitVec 5) (m : BitVec 3) (w : BitVec 2) (s : State) : Res :=
  s.vword S (.vgth S d a b m w) fun e s =>
    let k := 2 ^ w.toNat
    let n := gatherN w.toNat
    let offs := s.gatherOffs e b m w.toNat
    let put := fun (g : Nat × Word → Nat) => BitVec.ofNat 2048 ((offs.map fun p => g p * 2 ^ (8 * k * p.1)).sum)
    let v := put fun p => leNat (s.vload p.2.toNat k)
    let mk := put (fun _ => 2 ^ (8 * k) - 1) ||| ~~~(lowMask (8 * k * n))
    s.result e d v mk (m != 0) 0
/-- VSCT (R194): the higher index wins. -/
def execVsct (S : Bool) (d a b : BitVec 5) (m : BitVec 3) (w : BitVec 2) (s : State) : Res :=
  s.vword S (.vsct S d a b m w) fun e s =>
    let k := 2 ^ w.toNat
    let v := (s.vread e d).bits
    (s.gatherOffs e b m w.toNat).foldl (fun s p => s.vstore p.2.toNat (leBytes k (elemAt v (8 * k) p.1))) s

/-- VTRW (R196). -/
def execVtrw (S : Bool) (t : BitVec 2) (v r : BitVec 5) (x y : BitVec 4) (s : State) : Res :=
  s.vword S (.vtrw S t v r x y) fun e s =>
    let src := fmtOf x
    let dst := fmtOf y
    let b := (s.vread e v).bits
    let xs := convList src dst .rne 0 (fun _ => 0) false ((List.range (convN src dst)).map fun i => elemAt b (fmtWidth src) i)
    s.launch e (.row t (BitVec.ofNat 6 ((e.cap 0).toNat % 64))) (ofElems (fmtWidth dst) (xs.map (·.1))) (BitVec.allOnes 2048)
      (s.vpoison e) false (orFlags xs) none
/-- VTCR (R196). Of tile elements of 6 bits a row holds 341, which the column counts modulo (DESIGN CHOICE, log entry 108). -/
def execVtcr (S : Bool) (d : BitVec 5) (t : BitVec 2) (c : BitVec 5) (x y : BitVec 4) (s : State) : Res :=
  s.vword S (.vtcr S d t c x y) fun e s =>
    let src := fmtOf x
    let dst := fmtOf y
    let col := (e.cap 0).toNat % (2048 / fmtWidth src)
    let xs := convList src dst .rne 0 (fun _ => 0) false
      ((List.range 64).map fun r => elemAt (s.rowOf t r).bits (fmtWidth src) col)
    s.result e d (ofElems (fmtWidth dst) (xs.map (·.1))) (BitVec.allOnes 2048) false (orFlags xs)
/-- VTZ (R196). -/
def execVtz (S : Bool) (t : BitVec 2) (s : State) : Res :=
  s.vword S (.vtz S t) fun e s => s.launch e (.tile t) 0 0 false false 0 none
/-- VACR (R197): 64 elements of a row of a tile, as they stand between matrix words. -/
def execVacr (S : Bool) (d : BitVec 5) (a : BitVec 4) (r : BitVec 5) (q : BitVec 2) (s : State) : Res :=
  s.vword S (.vacr S d a r q) fun e s =>
    let row := (e.cap 0).toNat % 128
    let x := (s.tile s.core a.toNat).healIf fun r => r == row
    let bs := x.data.read (1024 * row + 256 * q.toNat) 256
    (if x = s.tile s.core a.toNat then s else s.setTile s.core a.toNat { x with ctx := s.t.ctx }).result e d (bitsOfBytes 2048 bs) (BitVec.allOnes 2048) false 0
/-- VTLD (R181). -/
def execVtld (S : Bool) (n : BitVec 3) (a b : BitVec 5) (s : State) : Res :=
  s.vword S (.vtld S n a b) fun e s =>
    s.launch e (.tab n (bitsOfBytes 16384 (s.vload (e.cap 0).toNat 2048)) ((e.cap 1).setWidth 13)) 0 0 false false 0 none
/-- VMOV (R192): byte j where bit j of the mask is 1. -/
def execVmov (S : Bool) (d a : BitVec 5) (m : BitVec 3) (s : State) : Res :=
  s.vword S (.vmov S d a m) fun e s =>
    s.result e d (s.vread e a).bits (maskOf (s.mread m).bits 8 256) (m != 0) 0
/-- VMLD (R195). -/
def execVmld (S : Bool) (d : BitVec 3) (a : BitVec 5) (s : State) : Res :=
  s.vword S (.vmld S d a) fun e s =>
    s.maskResult e d (bitsOfBytes 256 (s.vload (e.cap 0).toNat 32)) (BitVec.allOnes 256) false
/-- VMST (R195). -/
def execVmst (S : Bool) (d : BitVec 3) (a : BitVec 5) (s : State) : Res :=
  s.vword S (.vmst S d a) fun e s => s.vstore (e.cap 0).toNat (leBytes 32 (s.mread d).bits.toNat)
/-- VCHK: its check is all its effect (R198). -/
def execVchk (S : Bool) (a : BitVec 5) (k : Bool) (s : State) : Res := s.vword S (.vchk S a k) fun _ s => s

/-- VTKS (R199): it occupies steps until every earlier word has landed, and then pushes its token. -/
def execVtks (S : Bool) (k : BitVec 3) (s : State) : Res :=
  s.vword S (.vtks S k) fun _ s =>
    let n := s.t.v.step
    let last := (s.t.v.flights.map (·.land)).foldl max n
    if last = n then s.pushToken k
    else s.modV fun v => { v with
      occ := max v.occ (last - n), flights := v.flights ++
        [{ land := last, dst := .token k, val := 0, mask := 0, poison := false, keep := false, flags := 0, also := none }] }
/-- VTKW (R199). -/
def execVtkw (S : Bool) (k : BitVec 3) (s : State) : Res := s.vword S (.vtkw S k) fun _ s => s.popToken k
/-- VFLG (R160, R200). Of two in one step the second finds the flags as the first has left them (DESIGN CHOICE, log entry 107). -/
def execVflg (S : Bool) (d : BitVec 5) (c : Bool) (s : State) : Res :=
  s.vword S (.vflg S d c) fun e s =>
    (s.deliverReg e (s.t.x.flags.setWidth 64)).modX fun x => { x with flags := if c then 0 else x.flags }

/-- An atomic that is a release (R238). -/
def isRelease (i : Instr) : Bool :=
  match i with
  | .ast _ _ _ _ r _ | .aadd _ _ _ _ _ r _ _ | .amax _ _ _ _ _ r _ _ | .amin _ _ _ _ _ r _ _ | .aand _ _ _ _ _ r _ _
  | .aor _ _ _ _ _ r _ _ | .axchg _ _ _ _ _ r _ _ | .acas _ _ _ _ _ r _ _ | .afadd _ _ _ _ r _ => r
  | _ => false

/-- The word at which the control engine waits awaits every push to an object that has been dispatched: a PUB of it, or a release when it is
coherent (R232, R238). -/
def State.awaits (s : State) (oid : BitVec 48) : Bool :=
  match s.t.c.wait with
  | none => false
  | some w => match w.wake with
    | .writes o => o == oid
    | .other => (match s.wordAtPc with | some i => isRelease i | none => false) && match s.obj oid with | some o => o.coherent | none => false
    | _ => false

/-- VECTOR_STEP (R165 to R169, R172, R173): a further step of the last group, a step of a drain, or the next group, whose words then take
their turns one after the other. Nothing happens while the engine is frozen, as it is without a word for the next step: a push in flight then stays
in flight, whatever waits for it (DEDUCED, log entry 101). -/
def execVectorStep (s : State) : Res :=
  let v := s.t.v
  if s.t.st ≠ .running ∨ v.halted ∨ s.pushBlocked s.dueFlights then .next s
  else if 0 < v.occ then (if s.tokenBlocked [] then .next s else .next s.idleStep)
  else match s.nextStep with
    | none => .next s
    | some [] =>
      let s := s.idleStep
      .next (if s.t.v.flights.isEmpty then s.modV fun v => { v with q := tailGroups v.q } else s)
    | some ws =>
      if s.vecHeld || s.popBlocked ws || s.tokenBlocked ws then .next s
      else
        let s1 := s.landDue
        match s1.stepCheck ws 0 with
        | some (e, k, t) => .next (s.vecHalt e k t)
        | none =>
          let s2 := s1.modV fun v => { v with q := headGroup v.q ++ tailGroups v.q }
          .next { s2 with agenda := ws.map (fun _ => Act.turn .vector) ++ s.agenda }

/-- DELIVERED_RESULT (R30, R171): the oldest delivered result replaces its register's value, and the register is no longer pending. -/
def execDeliveredResult (s : State) : Res :=
  match s.t.v.deliv with
  | [] => .next s
  | x :: xs =>
    .next ((s.modV fun v => { v with deliv := xs }).modC fun c =>
      let c := { c with pend := c.pend.erase x.reg }
      match x.reg with
      | .s n => c.setS n { val := x.val, poison := x.poison }
      | .c n => c.setCr n { val := x.val != 0, poison := x.poison }
      | _ => c)

end Sys2Proof.Machine
end

