-- ==== Sys2Proof/Machine/Walk.lean ====
section
/-!
DEFINITION. Views and walks (R103, R104, R109), the shape record and the implicit tile of FILLC (R110, R112), slot arrangements (R111),
bits of memories, and the movement of a request's elements through lines that are read once and written once (R99, R106).
-/

namespace Sys2Proof.Machine

/-- E′j (R104). -/
def View.ext (v : View) (j : Nat) : Nat := (vget v.extm j 0).toNat + 1

/-- Elements of a view's walk. -/
def View.total (v : View) : Nat := v.ext 0 * v.ext 1 * v.ext 2 * v.ext 3

/-- The tile coordinates of an element position (R104). -/
def View.coord (v : View) (p j : Nat) : Nat :=
  match j with
  | 0 => p % v.ext 0
  | 1 => p / v.ext 0 % v.ext 1
  | 2 => p / (v.ext 0 * v.ext 1) % v.ext 2
  | _ => p / (v.ext 0 * v.ext 1 * v.ext 2)

/-- BASEj. -/
def View.baseAt (v : View) (j : Nat) : Nat := (vget v.base j 0).toNat

/-- STEPj as a signed number. -/
def View.stepAt (v : View) (j : Nat) : Int := (vget v.step j 0).toInt

/-- The object index of coordinate c of dimension j (R104). -/
def View.indexOf (v : View) (j c : Nat) : Int := v.baseAt j + c * v.stepAt j

/-- The object indices of an element position, once no index is below zero. -/
def View.tuple (v : View) (p j : Nat) : Nat := (v.indexOf j (v.coord p j)).toNat

/-- The least index of dimension j. -/
def View.least (v : View) (j : Nat) : Int := min (v.indexOf j 0) (v.indexOf j (v.ext j - 1))

/-- The greatest index of dimension j. -/
def View.greatest (v : View) (j : Nat) : Int := max (v.indexOf j 0) (v.indexOf j (v.ext j - 1))

/-- Element width of a view on an object (R104). -/
def View.width (v : View) (o : Obj) : Nat := if v.scale then 8 else o.width

/-- The format of a view on an object (R104). -/
def View.fmt (v : View) (o : Obj) : Nat := if v.scale then fmtCode .e8m0 else o.fmt.toNat

/-- The shard and the bit of the element at an index tuple, or of its scale for a SCALE view (R50, R52, R104). -/
def View.place (v : View) (o : Obj) (t : Nat → Nat) : Nat × Nat :=
  let (sh, j) := o.locate fun k => if v.scale && k == 0 then 32 * t 0 else t k
  (sh, if v.scale then 8 * o.scaleOff sh j else o.bitOff sh j)

/-- FVIEW (R109). -/
def viewFresh (h : Word) (f : BitVec 3) : View :=
  { View.zero with handle := h.setWidth 24, hx := h.toNat / 2 ^ 24 != 0, defer := f.getLsbD 0, noalloc := f.getLsbD 1,
                   scale := f.getLsbD 2, step := Vector.replicate 4 1 }

/-- FDIM (R109). -/
def View.setDim (v : View) (x y : Word) (j : Nat) : View :=
  if x.toNat < 1 ∨ 65536 < x.toNat ∨ y.toInt < -2 ^ 31 ∨ 2 ^ 31 - 1 < y.toInt then { v with bad := true }
  else { v with extm := vset v.extm j (BitVec.ofNat 16 (x.toNat - 1)), step := vset v.step j (y.setWidth 32) }

/-- FIDX (R109). -/
def View.setIdx (v : View) (x y : Word) (p : Nat) : View :=
  if 2 ^ 32 ≤ x.toNat ∨ 2 ^ 32 ≤ y.toNat then { v with bad := true }
  else { v with base := vset (vset v.base (2 * p) (x.setWidth 32)) (2 * p + 1) (y.setWidth 32) }

/-- FADV (R109). -/
def View.move (v : View) (x : Word) (j : Nat) : View :=
  let nb : Int := v.baseAt j + x.toInt * v.ext j * v.stepAt j
  if nb < 0 ∨ 2 ^ 32 ≤ nb then { v with bad := true } else { v with base := vset v.base j (BitVec.ofInt 32 nb) }

/-- The fields of a shape record (R110). -/
structure Shape where
  n : Nat
  h : Nat
  w : Nat
  c : Nat
  kh : Nat
  kw : Nat
  sh : Nat
  sw : Nat
  dh : Nat
  dw : Nat
  pt : Nat
  pl : Nat
  pb : Nat
  pr : Nat
  pad : Nat
  deriving DecidableEq, Repr

/-- The fields of a shape record by their places (R110). -/
def shapeOf (r : BitVec 512) : Shape :=
  let f := fun lo w => (r.extractLsb' lo w).toNat
  { n := f 0 32, h := f 32 32, w := f 64 32, c := f 96 32, kh := f 128 16, kw := f 144 16, sh := f 160 16, sw := f 176 16,
    dh := f 192 16, dw := f 208 16, pt := f 224 16, pl := f 240 16, pb := f 256 16, pr := f 272 16, pad := f 288 32 }

/-- OH of a shape (R112). -/
def Shape.oh (x : Shape) : Int := Int.fdiv (x.h + x.pt + x.pb - x.dh * ((x.kh : Int) - 1) - 1) x.sh + 1

/-- OW of a shape (R112). -/
def Shape.ow (x : Shape) : Int := Int.fdiv (x.w + x.pl + x.pr - x.dw * ((x.kw : Int) - 1) - 1) x.sw + 1

/-- A record that FSHAPE accepts only by setting BAD (R110). -/
def Shape.bad (x : Shape) : Bool :=
  [x.n, x.h, x.w, x.c, x.kh, x.kw, x.sh, x.sw, x.dh, x.dw].any (· == 0) || decide (x.oh < 1) || decide (x.ow < 1)

/-- FSHAPE's copy into a view (R110). -/
def View.setShape (v : View) (r : BitVec 512) : View :=
  if (shapeOf r).bad then { v with bad := true } else { v with shape := r, shaped := true }

/-- The object element that FILLC reads for slot position (r, c) of its view; none for padding (R112). -/
def View.im2col (v : View) (r c : Nat) : Option (Nat → Nat) :=
  let x := shapeOf v.shape
  let oh := x.oh.toNat
  let ow := x.ow.toNat
  let m := v.baseAt 1 + r
  let k := v.baseAt 0 + c
  if x.n * oh * ow ≤ m ∨ x.kh * x.kw * x.c ≤ k then none
  else
    let ih : Int := (m / ow % oh * x.sh : Nat) - (x.pt : Int) + (k / (x.c * x.kw) * x.dh : Nat)
    let iw : Int := (m % ow * x.sw : Nat) - (x.pl : Int) + (k / x.c % x.kw * x.dw : Nat)
    if ih < 0 ∨ x.h ≤ ih ∨ iw < 0 ∨ x.w ≤ iw then none
    else some fun j => match j with
      | 0 => k % x.c
      | 1 => iw.toNat
      | 2 => ih.toNat
      | _ => m / (oh * ow)

/-- K of an element width (R111); 0 where it is not defined. -/
def slotK (e : Nat) : Nat := match e with | 16 => 64 | 8 => 128 | 6 => 128 | 4 => 256 | _ => 0

/-- Rows and columns of an arrangement (R111). -/
def Arr.dims (a : Arr) (e : Nat) : Nat × Nat := match a with | .a => (128, slotK e) | .b => (slotK e, 256) | .bt => (256, slotK e)

/-- The arrangement of a role field (R108). -/
def arrOfRole (r : BitVec 2) : Arr := match r.toNat with | 0 => .a | 1 => .b | _ => .bt

/-- The slot bit of element (r, c) (R111). -/
def Arr.bit (a : Arr) (e r c : Nat) : Nat := (r * (a.dims e).2 + c) * e

/-- The slot byte of the scale of element (r, c); the sidecar follows the 32 KiB of elements (R111). -/
def Arr.side (a : Arr) (e r c : Nat) : Nat := 32768 + r * ((a.dims e).2 / 32) + c / 32

/-- w bits of a memory. -/
def Mem.getBits (m : Mem) (bit w : Nat) : Nat := leNat (m.read (bit / 8) ((bit % 8 + w + 7) / 8)) / 2 ^ (bit % 8) % 2 ^ w

/-- w bits of a memory replaced. -/
def Mem.putBits (m : Mem) (bit w v : Nat) : Mem :=
  let n := (bit % 8 + w + 7) / 8
  let k := bit % 8
  let old := leNat (m.read (bit / 8) n)
  m.write (bit / 8) (leBytes n (old / 2 ^ (k + w) * 2 ^ (k + w) + v % 2 ^ w * 2 ^ k + old % 2 ^ k))

/-- The key of a line of a shard. -/
def lkey (oid : BitVec 48) (sh ln : Nat) : Nat := (oid.toNat * 2 ^ 11 + sh) * 2 ^ 34 + ln

/-- The lines that w bits of a shard lie in. -/
def lkeys (oid : BitVec 48) (p : Nat × Nat) (w : Nat) : List Nat :=
  let a := p.2 / 512
  let b := (p.2 + w - 1) / 512
  if a = b then [lkey oid p.1 a] else [lkey oid p.1 a, lkey oid p.1 b]

/-- The movement of elements: the machine, the lines read so far, the line writes that wait, those of the request at hand alone, its first
element position, the first FETCH-ERROR (subcode and shard) with the handle and object of its access. -/
structure Xf where
  s : State
  cache : List (Nat × BitVec 512)
  buf : List LBuf
  own : List LBuf
  pos : Nat
  err : Option ((Nat × Nat) × Acc)

/-- The movement of elements before the first of them. -/
def Xf.start (s : State) (buf : List LBuf) (pos : Nat) : Xf := { s := s, cache := [], buf := buf, own := [], pos := pos, err := none }

/-- How an object is accessed by a command: the checked access, no-allocate, through L1 (R89, R131). -/
structure Via where
  acc : Acc
  noalloc : Bool
  l1 : Bool

/-- A line with the line writes that wait for it. -/
def overlay (buf : List LBuf) (key : Nat) (d : BitVec 512) : BitVec 512 :=
  (buf.filter fun b => b.key == key).foldl (fun d b => mergeBits d b.data b.due) d

/-- The line writes that wait at the outbound ports of the task under execution, whose elements the walks of its partition observe (R106). -/
def State.portBufs (s : State) : List LBuf := s.t.f.ports.toList.flatMap (·.buf)

/-- Bits of a line that a later activity of the partition writes: a port's waiting line write still carries every byte that the port wrote
(R99), with the later value of these bits (R106). -/
def State.supersede (s : State) (key : Nat) (d m : BitVec 512) : State :=
  let later := fun (b : LBuf) => if b.key = key then { b with data := mergeBits b.data d (m &&& b.mask) } else b
  s.modF fun f => { f with ports := f.ports.map fun p => { p with buf := p.buf.map later } }

/-- A line as the command sees it; each line is read once by a request. -/
def Xf.line (x : Xf) (a : Via) (sh ln : Nat) : Xf × BitVec 512 :=
  let key := lkey a.acc.oid sh ln
  match x.cache.find? fun p => p.1 == key with
  | some p => (x, p.2)
  | none =>
    let s := x.s
    let r := if a.l1 then s.readLineL1 s.core s.t.ctx a.acc.oid a.acc.o sh (64 * ln) a.noalloc
      else s.readLine s.t.ctx a.acc.oid a.acc.o sh (64 * ln) a.noalloc
    match r with
    | (s', .ok d) => let d := overlay x.buf key (overlay s.portBufs key d)
      ({ x with s := s', cache := (key, d) :: x.cache }, d)
    | (s', .error e) => ({ x with s := s', cache := (key, 0) :: x.cache, err := x.err <|> some ((e, sh), a.acc) }, 0)

/-- w bits of a shard. -/
def Xf.get (x : Xf) (a : Via) (p : Nat × Nat) (w : Nat) : Xf × Nat :=
  let k := p.2 % 512
  let (x1, d1) := x.line a p.1 (p.2 / 512)
  if k + w ≤ 512 then (x1, d1.toNat / 2 ^ k % 2 ^ w)
  else
    let (x2, d2) := x1.line a p.1 (p.2 / 512 + 1)
    (x2, (d1.toNat + d2.toNat * 2 ^ 512) / 2 ^ k % 2 ^ w)

/-- Bits of the request from element position pos that join the line writes that wait. -/
def bufPut (buf : List LBuf) (key pos : Nat) (d m : BitVec 512) : List LBuf :=
  if buf.any fun b => b.key == key then
    buf.map fun b => if b.key = key then { b with data := mergeBits b.data d m, mask := b.mask ||| m, done := b.done &&& ~~~m, pos := pos } else b
  else buf ++ [{ key := key, data := d, mask := m, pos := pos }]

/-- Bits written to one line. -/
def Xf.putLine (x : Xf) (key : Nat) (d m : BitVec 512) : Xf :=
  { x with s := x.s.supersede key d m, buf := bufPut x.buf key x.pos d m, own := bufPut x.own key x.pos d m,
           cache := x.cache.map fun p => if p.1 = key then (p.1, mergeBits p.2 d m) else p }

/-- w bits written to a shard. -/
def Xf.put (x : Xf) (a : Via) (p : Nat × Nat) (w v : Nat) : Xf :=
  let k := p.2 % 512
  let v := v % 2 ^ w * 2 ^ k
  let m := (2 ^ w - 1) * 2 ^ k
  let ln := p.2 / 512
  let x := x.putLine (lkey a.acc.oid p.1 ln) (BitVec.ofNat 512 v) (BitVec.ofNat 512 m)
  if k + w ≤ 512 then x
  else x.putLine (lkey a.acc.oid p.1 (ln + 1)) (BitVec.ofNat 512 (v / 2 ^ 512)) (BitVec.ofNat 512 (m / 2 ^ 512))

/-- An event counter of a context as it stands. -/
def State.counted (s : State) (c k : Nat) : Nat := match s.ctx c with | some x => (alGet x.counters k).getD 0 | none => 0

/-- An event counter of a context set. -/
def State.recount (s : State) (c k n : Nat) : State :=
  if s.counted c k = n then s else s.modCtx c fun x => { x with counters := alSet x.counters k n }

/-- The counters that a line write advances (R98). -/
def lineCounters : List Nat := (List.range 8).map (0x0102 + ·) ++ [0x010D]

/-- The shard of a line's key. -/
def keyShard (key : Nat) : Nat := key / 2 ^ 34 % 2 ^ 11

/-- The byte offset in its shard of a line's key. -/
def keyOff (key : Nat) : Nat := 64 * (key % 2 ^ 34)

/-- A line write's data as it is sent: the bits that stand in the line already are those that the line holds by now. -/
def State.lineData (s : State) (oid : BitVec 48) (o : Obj) (b : LBuf) : BitVec 512 :=
  if b.done = 0 then b.data else mergeBits b.data (s.shardLine oid o (keyShard b.key) (keyOff b.key)) b.done

/-- A line write sent (R99), with its FETCH-ERROR if any: subcode and shard, and the first element position of its request (R128). Where bits of it
stood in the line already, whether the line grew is judged against what the line held before them (R98, R100). -/
def State.sendLine (s : State) (oid : BitVec 48) (o : Obj) (noalloc : Bool) (b : LBuf) : State × Option ((Nat × Nat) × Nat) :=
  let d := s.lineData oid o b
  match s.writeLine s.core s.t.ctx oid o (keyShard b.key) (keyOff b.key) d b.mask noalloc with
  | (s1, e) =>
    let now := s.shardLine oid o (keyShard b.key) (keyOff b.key)
    let was := mergeBits now b.was b.put
    let size := fun (x : BitVec 512) => coursingSectors (coursingMode x) (nzWords x).length
    let grew := decide (size was < size (mergeBits now d b.mask))
    let s2 := if b.put = 0 ∨ e.isSome then s1 else s1.recount s.t.ctx 0x0108 (s.counted s.t.ctx 0x0108 + grew.toNat)
    (s2, e.map fun k => ((k, keyShard b.key), b.pos))

/-- Bits of a line write that waits put into their line, since others await them, and counted as no line write: the one that follows carries them
again (R99, R100; DESIGN CHOICE, log entry 61). -/
def State.landLine (s : State) (oid : BitVec 48) (o : Obj) (noalloc : Bool) (b : LBuf) : State × LBuf × Option ((Nat × Nat) × Nat) :=
  if b.due = 0 then (s, b, none)
  else
    let now := s.shardLine oid o (keyShard b.key) (keyOff b.key)
    match s.writeLine s.core s.t.ctx oid o (keyShard b.key) (keyOff b.key) b.data b.due noalloc with
    | (s1, some k) => (s1, b, some ((k, keyShard b.key), b.pos))
    | (s1, none) =>
      (lineCounters.foldl (fun s1 k => s1.recount s.t.ctx k (s.counted s.t.ctx k)) s1, 
        { b with was := mergeBits b.was now (b.due &&& ~~~b.put), put := b.put ||| b.due, done := b.mask }, none)

/-- Line writes that wait landed in turn: those that go on waiting, and the first FETCH-ERROR; a line that fails waits no longer. -/
def State.landLines (oid : BitVec 48) (o : Obj) (noalloc : Bool) : List LBuf → State → State × List LBuf × Option ((Nat × Nat) × Nat)
  | [], s => (s, [], none)
  | b :: bs, s =>
    let (s1, b1, e1) := s.landLine oid o noalloc b
    let (s2, r, e2) := State.landLines oid o noalloc bs s1
    (s2, if e1.isSome then r else b1 :: r, e1 <|> e2)

/-- Line writes sent in turn; the first FETCH-ERROR. -/
def State.sendLines (oid : BitVec 48) (o : Obj) (noalloc : Bool) : List LBuf → State → State × Option ((Nat × Nat) × Nat)
  | [], s => (s, none)
  | b :: bs, s =>
    let (s1, e1) := s.sendLine oid o noalloc b
    let (s2, e2) := State.sendLines oid o noalloc bs s1
    (s2, e1 <|> e2)

/-- Which bytes of a line a write that failed has changed (R74). -/
def tornMask (fresh : Nat) : BitVec 512 :=
  (List.range 64).foldl (fun (m : BitVec 512) k =>
    if Config.tornByte (fresh + k) then m ||| BitVec.ofNat 512 (255 * 2 ^ (8 * k)) else m) 0

/-- What a failed request leaves of a line that it was to write: each byte at its earlier value or at the value written (R74, R128). It is no line
write, and counts none (R99). -/
def State.tearSend (s : State) (oid : BitVec 48) (o : Obj) (b : LBuf) : State :=
  let sh := keyShard b.key
  let m := b.mask &&& tornMask s.fresh
  let s := { s with fresh := s.fresh + 64 }
  if 2 ≤ s.placeOf o sh then
    let a := remKey oid sh (keyOff b.key)
    let d := mergeBits (bitsOfBytes 512 (s.remote.read a 64)) b.data m
    { s with remote := s.remote.write a (leBytes 64 d.toNat) }
  else match s.frameOf oid sh (keyOff b.key / 65536) with
    | none => s
    | some f =>
      let pa := physAddr f (keyOff b.key)
      let t := (s.flushLine pa).l1Drop fun a => a == lineAddr pa
      { t with mem := t.mem.write (lineAddr pa) (leBytes 64 (mergeBits (t.tierLine (lineAddr pa)) b.data m).toNat) }

/-- A line write that a failed request was to join (R74, R99, R128): the bits of earlier requests stay in it, and each byte of the failed one
joins with the value written or not at all. -/
def tearJoin (fresh : Nat) (b x : LBuf) : LBuf :=
  let m := x.mask &&& tornMask fresh
  { b with data := mergeBits b.data x.data m, mask := b.mask ||| m }

end Sys2Proof.Machine
end

