-- ==== Sys2Proof/Machine/Fetch.lean ====
section
/-!
DEFINITION. The fetch engine: the words of its queue (R108 to R122), how a command begins, issues its requests and completes them (R101,
R104 to R107), stream ports (R117, R118), the image copy (R272), and its faults (R123 to R128).
-/

namespace Sys2Proof.Machine

/-- A command that is in its issue phase or has ended it, by its number. -/
def Fet.cmd (f : Fet) (n : Nat) : Option FCmd := ((match f.act with | some a => [a] | none => []) ++ f.run).find? fun a => a.seq == n

/-- A command replaced. -/
def State.putCmd (s : State) (a : FCmd) : State :=
  s.modF fun f => { f with act := f.act.map fun b => if b.seq = a.seq then a else b, run := f.run.map fun b => if b.seq = a.seq then a else b }

/-- A command complete (R107); one that ended with an error is remembered for FDONE (R121). -/
def State.dropCmd (s : State) (a : FCmd) : State :=
  s.modF fun f => { f with
    act := match f.act with | some b => if b.seq = a.seq then none else some b | none => none,
    run := f.run.filter fun b => b.seq != a.seq,
    errs := if a.err then f.errs ++ [a.seq] else f.errs }

/-- A command whose issue phase has ended lets the queue go on (R105). -/
def State.endIssue (s : State) (a : FCmd) : State :=
  match s.t.f.act with
  | some b => if b.seq = a.seq then s.modF fun f => { f with act := none, run := f.run ++ [{ a with ended := true }] }
    else s.putCmd { a with ended := true }
  | none => s.putCmd { a with ended := true }

/-- A halting fetch trap is pending or being handled (R124). DEDUCED, log entry 54. -/
def State.fetHalted (s : State) : Bool := s.t.x.taken == some 4 || s.t.x.pending.any fun p => p.eng == 4 && p.halting

/-- An action of the fetch engine that would leave more traps waiting than the eight behind the first waits itself until there is room (R124;
DESIGN CHOICE, log entry 112). -/
def State.unlessFull (s t : State) : State := if 9 < t.fetTraps ∧ s.fetTraps < t.fetTraps then s else t

/-- A fetch trap becomes pending (R124). -/
def State.pendFetch (s : State) (i : TrapInfo) (cmd : Word) (pos : Nat) (halting : Bool) : State :=
  s.pendTrap 4 i cmd (BitVec.ofNat 64 pos) halting

/-- Transfers of the partition wait at its fetch-issue weir (R105). -/
def State.transferWaits (s : State) : Bool := s.transfers.any fun x => x.cls == 1 && x.part == s.t.part

/-- FQCMD of a command (R124). -/
def FCmd.word (a : FCmd) : Word := csrFields [(32, a.e.pc.toNat % 2 ^ 32), (31, a.rel.isSome.toNat), (0, (whoOf a.e.w).op)]

/-- An access of a command to an object that it has resolved. -/
def State.viaOf (s : State) (oid : BitVec 48) (v : View) (l1 : Bool) : Option Via :=
  (s.obj oid).map fun o => { acc := { h := v.handle.toNat, oid := oid, e := HEntry.free, o := o }, noalloc := v.noalloc, l1 := l1 }

/-- The reads of a word go through the L1 (R131). -/
def viaL1 (i : Instr) : Bool := match i with | .fld .. => true | .fgth .. => true | .fbind .. => true | _ => false

/-- The progress of a request that was sent at a tick, if it was (R73). -/
def askedAt (t : Option Word) : Progress := match t with | some t => .asked t | none => .plain

/-- Line writes of a command have been sent, the lines in b being left: one that fails raises FETCH-ERROR, once the time is over that its place
has to reply (R73, R128). -/
def State.linesSent (s : State) (a : FCmd) (acc : Acc) (s1 : State) (b : List LBuf) (e : Option ((Nat × Nat) × Nat)) : State × FCmd :=
  match e with
  | none => (s1, { a with buf := b, asked := none })
  | some e => match s.unanswered (askedAt a.asked) e.1.1 with
    | some t => (s, { a with asked := some t })
    | none => (s1.pendFetch (s.fetchTrap (whoOf a.e.w) acc e.1) a.word e.2 false, { a with buf := b, asked := none, err := true })

/-- Line writes of a command sent (R99, R128). DESIGN CHOICE, log entry 61. -/
def State.flushCmd (s : State) (a : FCmd) : State × FCmd :=
  match s.viaOf a.oid a.v false with
  | none => (s, { a with buf := [], asked := none })
  | some x =>
    let (s1, e) := State.sendLines a.oid x.acc.o a.v.noalloc a.buf s
    s.linesSent a x.acc s1 [] e

/-- Line writes of a command put into their lines, others awaiting them (R66, R99). DESIGN CHOICE, log entry 61. -/
def State.landCmd (s : State) (a : FCmd) : State × FCmd :=
  match s.viaOf a.oid a.v false with
  | none => (s, { a with buf := [], asked := none })
  | some x =>
    let (s1, b, e) := State.landLines a.oid x.acc.o a.v.noalloc a.buf s
    s.linesSent a x.acc s1 b e

/-- A command halts at its position, the lines of its earlier elements being sent (R123, R125); while another halting trap is outstanding, it
waits, and so while a place that these lines go to may still reply (R73). -/
def State.haltCmd (s : State) (a : FCmd) (i : TrapInfo) : State :=
  if s.fetHalted then s
  else
    let (s1, a1) := if a.outst.isEmpty then s.flushCmd a else (s, a)
    if a1.asked.isSome && a.outst.isEmpty then s1.putCmd a1
    else s.unlessFull ((s1.putCmd { a1 with halted := true, ok := false, fail := none, chunk := none }).pendFetch i a.word a.pos true)

/-- A command waits for Mason, or halts when Mason has failed (R300). A prefetch sends him no request and halts at once (R304; DEDUCED, log
entry 102). -/
def State.askCmd (s : State) (a : FCmd) (i : TrapInfo) : State :=
  let pre := match a.e.w with | .fpre .. => true | _ => false
  if !pre ∧ (i.cause = .missingObject ∨ i.cause = .framePoolEmpty) then
    (s.tickFresh.toMason (.fault s.reqNo s.t.ctx s.t.part i)).putCmd { a with mason := some s.reqNo }
  else s.haltCmd a i

/-- The least coordinate of dimension j among the element positions of a view from p on (R104, R126). -/
def View.fromCoord (v : View) (p j : Nat) : Nat :=
  if (List.range 4).any fun k => decide (j < k) && decide (v.coord p k + 1 < v.ext k) then 0 else v.coord p j

/-- The bounds checks of the element positions of a view from p on, dimension by dimension from j (R104, R126). DEDUCED, log entry 52. -/
def viewBounds (acc : Acc) (v : View) (p : Nat) (need : BitVec 6) (w : Who) : List Nat → Option TrapInfo
  | [] => none
  | j :: js =>
    let lo := min (v.indexOf j (v.fromCoord p j)) (v.indexOf j (v.ext j - 1))
    let hi := max (v.indexOf j (v.fromCoord p j)) (v.indexOf j (v.ext j - 1))
    let x0 : Int := acc.o.extent 0
    let t := fun (sub : Nat) (f l : Int) => some (boundsTrap w sub acc.h acc.oid.toNat j (f % 2 ^ 32).toNat (l % 2 ^ 32).toNat)
    if v.scale && j == 0 then
      let f := 32 * lo
      let l := min (32 * hi + 31) (x0 - 1)
      let bad := if need = rWRITE then f < acc.e.lo 0 ∨ acc.e.hiEff acc.o 0 < l
        else f + 31 < acc.e.lo 0 ∨ acc.e.hiEff acc.o 0 < 32 * hi
      if lo < 0 ∨ (e0p (acc.o.extent 0) / 32 : Nat) ≤ hi then t 2 f l else if bad then t 3 f l else viewBounds acc v p need w js
    else if acc.o.rank.toNat ≤ j ∧ hi ≠ 0 then t 1 lo hi
    else if lo < 0 ∨ acc.o.extent j ≤ hi then t 2 lo hi
    else if lo < acc.e.lo j ∨ acc.e.hi j < hi then t 3 lo hi
    else viewBounds acc v p need w js

/-- MISSING-OBJECT of an object without contents, with the page of an index tuple (R300). -/
def missingAt (acc : Acc) (v : View) (w : Who) (t : Nat → Nat) : TrapInfo :=
  missingTrap w acc.h acc.oid.toNat ((v.place acc.o t).2 / 8 / 65536)

/-- The checks of a view for the elements from position p on (R104, R126); `bounds` is false for the words whose elements are checked one by one
(R112, R115). -/
def State.viewChecked (s : State) (v : View) (p : Nat) (need : BitVec 6) (w : Who) (bounds : Bool) : Chk Acc :=
  if v.hx then .trap (mkTrap .handleInvalid w 1 v.handle.toNat 0 0)
  else (s.dataChecked s.t.ctx (v.handle.setWidth 64) need w).bind fun acc =>
    let t := fun sub => Chk.trap (boundsTrap w sub acc.h acc.oid.toNat 0 0 0)
    if v.bad then t 7
    else if v.scale ∧ acc.o.layout ≠ 3 then t 8
    else match (if bounds then viewBounds acc v p need w [0, 1, 2, 3] else none) with
      | some i => .trap i
      | none => if bounds && acc.o.res == 3 then .trap (missingAt acc v w fun j => if p = 0 then (v.least j).toNat else v.tuple p j) else .ok acc

/-- The extent checks of a slot's tile (R111). -/
def slotShape (v : View) (e : Nat) (r : Arr) : Bool :=
  e == 32 || (v.ext 1 ≤ (r.dims e).1 && v.ext 0 ≤ (r.dims e).2 && v.ext 2 == 1 && v.ext 3 == 1)

/-- The checks of FILL beyond those of R104 (R111). -/
def fillCheck (acc : Acc) (v : View) (w : Who) (r : Arr) : Option TrapInfo :=
  let t := fun sub => some (boundsTrap w sub acc.h acc.oid.toNat 0 0 0)
  let mx := acc.o.layout = 3
  if !slotShape v (v.width acc.o) r then t 7
  else if v.width acc.o = 32 ∨ v.scale ∨ (mx ∧ r = .b) ∨ (mx ∧ (v.stepAt 0 ≠ 1 ∨ v.baseAt 0 % 32 ≠ 0)) then t 8
  else none

/-- The checks of FILLC beyond those of the handle (R112). DEDUCED, log entry 57. -/
def fillcCheck (acc : Acc) (v : View) (w : Who) : Option TrapInfo :=
  let t := fun sub => some (boundsTrap w sub acc.h acc.oid.toNat 0 0 0)
  let x := shapeOf v.shape
  let e := v.width acc.o
  let ext := acc.o.extent 0 = x.c ∧ acc.o.extent 1 = x.w ∧ acc.o.extent 2 = x.h ∧ acc.o.extent 3 = x.n
  if acc.o.rank ≠ 4 ∨ ¬ ext ∨ !v.shaped ∨ !slotShape v e .a then t 7
  else if e = 32 then t 8
  else if x.pad / 2 ^ e ≠ 0 then t 6
  else if v.scale ∨ (acc.o.layout = 3 ∧ (x.c % 32 ≠ 0 ∨ v.baseAt 0 % 32 ≠ 0)) then t 8
  else none

/-- The checks of FSTS beyond those of R104 (R113). -/
def fstsCheck (acc : Acc) (v : View) (w : Who) (x : Slot) : Option TrapInfo :=
  let t := fun sub => some (boundsTrap w sub acc.h acc.oid.toNat 0 0 0)
  let mx := !v.scale && acc.o.layout == 3
  let whole := v.ext 0 % 32 = 0 ∨ v.baseAt 0 + v.ext 0 = acc.o.extent 0
  if !slotShape v (v.width acc.o) x.arr then t 7
  else if v.fmt acc.o ≠ fmtCode x.fmt ∨ mx ≠ x.mx then t 8
  else if mx ∧ (v.stepAt 0 ≠ 1 ∨ v.baseAt 0 % 32 ≠ 0 ∨ ¬ whole) then t 8
  else none

/-- Bytes of a row in scratchpad (R114, R115). -/
def rowBytes (v : View) (e : Nat) : Nat := cdiv (v.ext 0 * e) 8

/-- P of FLD and FST (R114). -/
def pitchOf (v : View) (e : Nat) (b : Word) : Nat := if b = 0 then rowBytes v e else b.toNat

/-- P of FGTH (R115). -/
def gthPitch (v : View) (e : Nat) : Nat := cdiv (rowBytes v e) 64 * 64

/-- The scratchpad checks of FLD and FST (R114, R294). -/
def State.spadRows (s : State) (w : Who) (v : View) (e : Nat) (a b : Word) : Option TrapInfo :=
  let rows := v.ext 1 * v.ext 2 * v.ext 3
  if a.toNat % 16 ≠ 0 then some (alignTrap w 1 a 4)
  else if b.toNat % 16 ≠ 0 then some (alignTrap w 1 b 4)
  else if 2 ^ 32 ≤ b.toNat ∨ s.t.window < a.toNat + (rows - 1) * pitchOf v e b + rowBytes v e then some (boundsPlain w 0x0A)
  else none

/-- The index list of FGTH (R115). -/
def State.gthList (s : State) (b : Word) (rows : Nat) : List Word :=
  (List.range rows).map fun r => bitsOfBytes 64 (s.spad (b.toNat + 8 * r) 8)

/-- The scratchpad and list checks of FGTH (R115). DEDUCED, log entry 49. -/
def State.gthCheck (s : State) (w : Who) (acc : Acc) (v : View) (a b : Word) (rows : Nat) : Option TrapInfo :=
  let e := v.width acc.o
  if a.toNat % 64 ≠ 0 then some (alignTrap w 1 a 6)
  else if b.toNat % 8 ≠ 0 then some (alignTrap w 2 b 3)
  else if s.t.window < b.toNat + 8 * rows ∨ s.t.window < a.toNat + (rows - 1) * gthPitch v e + rowBytes v e then some (boundsPlain w 0x0A)
  else if v.ext 1 ≠ 1 ∨ v.ext 2 ≠ 1 ∨ v.ext 3 ≠ 1 then some (boundsTrap w 7 acc.h acc.oid.toNat 0 0 0)
  else if (s.gthList b rows).any fun x => x.extractLsb' 32 31 != 0 then some (boundsPlain w 6)
  else none

/-- Traps of a check, or what follows it. -/
def chkAnd {α : Type} (t : Option TrapInfo) (k : α) : Chk α := match t with | some i => .trap i | none => .ok k

/-- The slot of a fetch word takes its command, which begins then (R106, R111, R113, R137): a check, a wait, or the slot's new state. -/
def State.slotPhase (s : State) (a : FCmd) : Chk (State × FCmd) :=
  match fetSlotOf a.e.w with
  | none => .ok (s, a)
  | some n =>
    let w := whoOf a.e.w
    let x := s.slot s.core n.toNat
    if a.begun then .ok (s, a)
    else if !x.ownedBy s.t then .trap (s.slotTrap .slotOwner w 1 n.toNat)
    else if x.st = .faulted then .trap (s.slotTrap .slotFaulted w 1 n.toNat)
    else match a.e.w with
      | .fsts .. => if x.st = .full then .ok (s.tickFresh.setSlot s.core n.toNat { x with st := .draining }, { a with begun := true, beg := s.fresh }) else .stall
      | _ =>
        if x.st = .empty then
          .ok (s.tickFresh.setSlot s.core n.toNat { x with st := .filling, data := [], bad := false }, { a with begun := true, beg := s.fresh })
        else .stall

/-- The spans of n rows of a command's bytes in a window, without the gaps of its pitch; rows beyond the window, which its checks refuse,
touch nothing. -/
def rowSpans (write : Bool) (lo pitch len n win : Nat) : List (Bool × Nat × Nat) :=
  (List.range (min n (if pitch = 0 then 1 else win / pitch + 1))).map fun r => (write, lo + r * pitch, lo + r * pitch + len)

/-- The bytes of a window of a size that a command touches, each span with whether it writes them: its rows, and the index list of a gather. -/
def FCmd.spans (a : FCmd) (win e : Nat) : List (Bool × Nat × Nat) :=
  let lo := (a.e.cap 0).toNat
  let rows := a.v.ext 1 * a.v.ext 2 * a.v.ext 3
  match a.e.w with
  | .fld .. => rowSpans true lo (pitchOf a.v e (a.e.cap 1)) (rowBytes a.v e) rows win
  | .fst .. => rowSpans false lo (pitchOf a.v e (a.e.cap 1)) (rowBytes a.v e) rows win
  | .fgth _ _ _ _ r =>
    let b := (a.e.cap 1).toNat
    (true, b, b + 8 * (r.toNat + 1)) :: rowSpans true lo (gthPitch a.v e) (rowBytes a.v e) (r.toNat + 1) win
  | .fshape .. => [(false, lo, lo + 64)]
  | _ => []

/-- The object that view k of a command names: the one that it has resolved, or what its handle names. -/
def State.oidOf (s : State) (a : FCmd) (k : Nat) : BitVec 48 :=
  if a.ok ∨ 0 < a.pos then (if k = 0 then a.oid else a.oid2)
  else (s.hentry s.t.ctx (if k = 0 then a.v else a.v2).handle.toNat).oid

/-- Element width of a command on its object. -/
def State.widthOf (s : State) (a : FCmd) : Nat := match s.obj (s.oidOf a 0) with | some o => a.v.width o | none => 8

/-- The window bytes that a command of the task under execution touches. -/
def State.spansOf (s : State) (a : FCmd) : List (Bool × Nat × Nat) := a.spans s.t.window (s.widthOf a)

/-- Two lists of spans of the window meet in a byte that one of them writes. -/
def spansClash (xs ys : List (Bool × Nat × Nat)) : Bool :=
  xs.any fun x => ys.any fun y => (x.1 || y.1) && decide (x.2.1 < y.2.2) && decide (y.2.1 < x.2.2)

/-- What an activity touches of an object: whether it writes, and the least and greatest index of each dimension, none for all of one. -/
structure Touch where
  oid : BitVec 48
  write : Bool
  reach : Nat → Option (Int × Int)

/-- The indices that a view reaches in dimension j, those of dimension 0 of an MXBLK object by blocks (R50, R104). -/
def View.reach (v : View) (o : Obj) (j : Nat) : Int × Int :=
  let k : Int := if j = 0 ∧ o.layout = 3 ∧ !v.scale then 32 else 1
  (v.least j / k, v.greatest j / k)

/-- What a view touches of an object. -/
def State.touch (s : State) (oid : BitVec 48) (v : View) (write : Bool) (all : Nat → Bool) : Touch :=
  { oid := oid, write := write,
    reach := fun j => if all j then none else (s.obj oid).map fun o => v.reach o j }

/-- What a command touches of its objects. A prefetch delivers nothing and orders nothing. -/
def State.touches (s : State) (a : FCmd) : List Touch :=
  match a.e.w with
  | .fcopy .. => [s.touch (s.oidOf a 0) a.v true fun _ => false, s.touch (s.oidOf a 1) a.v2 false fun _ => false]
  | .fillc .. => [s.touch (s.oidOf a 0) a.v false fun _ => true]
  | .fgth .. => [s.touch (s.oidOf a 0) a.v false fun j => j == 1]
  | .fill .. | .fld .. => [s.touch (s.oidOf a 0) a.v false fun _ => false]
  | .fst .. | .fsts .. => [s.touch (s.oidOf a 0) a.v true fun _ => false]
  | _ => []

/-- Two activities touch an element that one of them writes. -/
def Touch.clash (x y : Touch) : Bool :=
  x.oid == y.oid && (x.write || y.write) && (List.range 4).all fun j => match x.reach j, y.reach j with
    | some p, some q => decide (p.1 ≤ q.2) && decide (q.1 ≤ p.2)
    | _, _ => true

/-- Commands that have begun and are not over; one that waits for its slot has not begun (R106, R137). -/
def Fet.started (f : Fet) : List FCmd := f.open_.filter fun b => b.begun || (fetSlotOf b.e.w).isNone

/-- A command touches a coherent object. -/
def State.cmdCoherent (s : State) (a : FCmd) : Bool := (s.touches a).any fun t => s.isCoherent t.oid

/-- Of two commands one touches what the other writes, or both touch coherent objects (R106, R230, R237). -/
def State.cmdsClash (s : State) (a b : FCmd) : Bool :=
  (s.touches a).any (fun x => (s.touches b).any x.clash) || (s.cmdCoherent a && s.cmdCoherent b) || spansClash (s.spansOf a) (s.spansOf b)

/-- An FDONE value waits for a command that it covers, and not the command for the value (R121). -/
def FDone.covers (d : FDone) (a : FCmd) : Bool := if d.all then decide (a.seq < d.seq) else decide (a.seq + 1 = d.seq)

/-- The commands that wait for a command to be over, or for one that does (R106): those that begin after it, the released ones last of all. -/
def State.behind (s : State) (a : FCmd) : List FCmd :=
  let after := fun (c z : FCmd) => (s.t.f.rel.any (fun r => r.seq == c.seq) || decide (z.beg < c.beg)) && c.seq != z.seq && s.cmdsClash c z
  s.t.f.live.foldl (fun l _ => s.t.f.live.filter fun c => after c a || l.any fun z => after c z) []

/-- An FDONE value that began before a command has still to be written to bytes that the command touches (R106). A value that covers a command
which itself waits for this one is written after both (R106, R121; DEDUCED, log entry 125). -/
def State.doneAhead (s : State) (a : FCmd) (spans : List (Bool × Nat × Nat)) : Bool :=
  s.t.f.fdone.any fun d => decide (d.beg < a.beg) && !d.covers a && spansClash spans [(true, d.off, d.off + 8)]
    && !(s.behind a).any fun c => d.covers c

/-- An earlier activity has still to write bytes of the window that a command is about to read (R106). -/
def State.winBusy (s : State) (a : FCmd) (lo hi : Nat) : Bool :=
  (s.t.f.started.any fun b => decide (b.beg < a.beg) && spansClash (s.spansOf b) [(false, lo, hi)]) || s.doneAhead a [(false, lo, hi)]

/-- FQCMD of a binding (R124). -/
def Port.word (p : Port) : Word := csrFields [(32, p.pc.toNat % 2 ^ 32), (0, (whoOf (.fbind false 0 0 false p.out)).op)]

/-- First element and number of elements of a pass that port element n of a pass holds bits of (R117). -/
def Port.range (p : Port) (n : Nat) : Nat × Nat :=
  let k0 := 2048 * n / p.width
  (k0, min p.total (cdiv (2048 * (n + 1)) p.width) - k0)

/-- The access of a port's next element as it stands once it is resolved (R55). -/
def State.portAcc (s : State) (p : Port) : Option Acc := (s.obj p.oid).map (resolvedAcc p.v.handle.toNat p.oid)

/-- A port's access has had no reply: the machine in which it waits on, or none once the time of its place is over or it has another error
(R73). `res` says that it is the access of the port's next element (R55). -/
def State.portSilent (s : State) (q : Nat) (sub : Nat) (res : Bool) : Option State :=
  let p := s.port q
  (s.unanswered (askedAt p.asked) sub).map fun t => s.setPort q { p with asked := some t, res := res || p.res }

/-- Line writes of a port have been sent, the lines in b being left; one that fails raises FETCH-ERROR, once the time is over that its place has
to reply (R73, R128). -/
def State.portSent (s : State) (q : Nat) (acc : Acc) (s1 : State) (b : List LBuf) (e : Option ((Nat × Nat) × Nat)) : State :=
  let p := s.port q
  let s2 := s1.setPort q { p with buf := b, asked := none }
  match e with
  | none => s2
  | some k => (s.portSilent q k.1.1 false).getD
      (s.unlessFull (s2.pendFetch (s.fetchTrap (whoOf (.fbind false 0 0 false true)) acc k.1) p.word k.2 false))

/-- The lines of an outbound port that wait are sent (R99, R118). -/
def State.flushPort (s : State) (q : Nat) : State :=
  let p := s.port q
  match s.viaOf p.oid p.v false with
  | none => s.setPort q { p with buf := [] }
  | some x =>
    let (s1, e) := State.sendLines p.oid x.acc.o p.v.noalloc p.buf s
    s.portSent q x.acc s1 [] e

/-- The lines of an outbound port that wait are put into their lines, others awaiting them (R66, R99, R232, R237, R238, R278). DESIGN CHOICE, log
entry 61. -/
def State.landPort (s : State) (q : Nat) : State :=
  let p := s.port q
  match s.viaOf p.oid p.v false with
  | none => s.setPort q { p with buf := [] }
  | some x =>
    let (s1, b, e) := State.landLines p.oid x.acc.o p.v.noalloc p.buf s
    s.portSent q x.acc s1 b e

/-- The move that FPRE.fast makes first, under its three conditions (R119). -/
def State.preMove (s : State) (i : Instr) (acc : Acc) : State :=
  match i with
  | .fpre _ _ t =>
    if t = 1 ∧ acc.o.res = 1 ∧ acc.e.rights &&& rWRITE ≠ 0 then (s.beginMove 0 s.die acc.oid acc.o 0 s.boot.ep).getD s else s
  | _ => s

/-- The checks that a command makes as a whole before its first request, and what it then is (R101, R104, and each word's rule). DEDUCED, log entry 48. DEDUCED, log entry 50. -/
def State.cmdReady (s : State) (a : FCmd) : Chk State :=
  let w := whoOf a.e.w
  let go := fun (acc : Acc) => s.putCmd { a with ok := true, oid := acc.oid }
  match a.e.w with
  | .fshape _ wv _ =>
    let off := a.e.cap 0
    let r := bitsOfBytes 512 (s.spad off.toNat 64)
    if off.toNat % 64 ≠ 0 then .trap (alignTrap w 2 off 6)
    else if s.t.window < off.toNat + 64 then .trap (boundsPlain w 0x0A)
    else if s.winBusy a off.toNat (off.toNat + 64) then .stall
    else if r.extractLsb' 320 192 ≠ 0 then .trap (boundsPlain w 6)
    else .ok ((s.modF fun f => { f with w := vset f.w wv.toNat ((vget f.w wv.toNat View.zero).setShape r) }).dropCmd a)
  | .fdone _ _ _ x =>
    let off := a.e.cap 0
    if off.toNat % 8 ≠ 0 then .trap (alignTrap w 1 off 3)
    else if s.t.window < off.toNat + 8 then .trap (boundsPlain w 0x0A)
    else .ok ((s.modF fun f => { f with
        fdone := f.fdone ++ [{ seq := a.seq, beg := a.beg, all := x, off := off.toNat, val := a.e.cap 1 }] }).dropCmd a)
  | .fill _ n _ r => (s.viewChecked a.v a.pos rREAD w true).bind fun acc =>
    chkAnd (fillCheck acc a.v w (arrOfRole r))
      (let x := s.slot s.core n.toNat
       (go acc).setSlot s.core n.toNat
         { x with arr := arrOfRole r, fmt := (fmtOfCode acc.o.fmt.toNat).getD .f32, mx := acc.o.layout == 3 })
  | .fillc _ n _ => (s.viewChecked a.v a.pos rREAD w false).bind fun acc =>
    chkAnd (fillcCheck acc a.v w)
      (let x := s.slot s.core n.toNat
       (go acc).setSlot s.core n.toNat
         { x with arr := .a, fmt := (fmtOfCode acc.o.fmt.toNat).getD .f32, mx := acc.o.layout == 3 })
  | .fld _ _ _ _ => (s.viewChecked a.v a.pos rREAD w true).bind fun acc =>
    chkAnd (s.spadRows w a.v (a.v.width acc.o) (a.e.cap 0) (a.e.cap 1)) (go acc)
  | .fst _ _ _ _ => (s.viewChecked a.v a.pos rWRITE w true).bind fun acc =>
    chkAnd (s.spadRows w a.v (a.v.width acc.o) (a.e.cap 0) (a.e.cap 1)) (go acc)
  | .fsts _ n _ => (s.viewChecked a.v a.pos rWRITE w true).bind fun acc =>
    chkAnd (fstsCheck acc a.v w (s.slot s.core n.toNat)) (go acc)
  | .fcopy _ _ _ => (s.viewChecked a.v a.pos rWRITE w true).bind fun d => (s.viewChecked a.v2 a.pos rREAD w true).bind fun x =>
    let t := fun sub => Chk.trap (boundsTrap w sub d.h d.oid.toNat 0 0 0)
    if (List.range 4).any fun j => a.v.ext j != a.v2.ext j then t 7
    else if a.v.fmt d.o ≠ a.v2.fmt x.o then t 8
    else .ok (s.putCmd { a with ok := true, oid := d.oid, oid2 := x.oid })
  | .fgth _ _ _ _ r => (s.viewChecked a.v a.pos rREAD w false).bind fun acc =>
    let b := (a.e.cap 1).toNat
    if a.list.isEmpty && s.winBusy a b (b + 8 * (r.toNat + 1)) then .stall
    else chkAnd (if a.list.isEmpty then s.gthCheck w acc a.v (a.e.cap 0) (a.e.cap 1) (r.toNat + 1) else none)
      (s.putCmd { a with ok := true, oid := acc.oid, list := if a.list.isEmpty then s.gthList (a.e.cap 1) (r.toNat + 1) else a.list })
  | .fpre .. => (s.viewChecked a.v a.pos rREAD w true).bind fun acc => .ok (if a.pos = 0 then (go acc).preMove a.e.w acc else go acc)
  | .fbind _ q _ x o => (s.viewChecked a.v 0 (if o then rWRITE else rREAD) w true).bind fun acc =>
    let no := vget a.e.ports q.toNat 0
    let p : Port := { Port.unbound with
      bound := true, out := o, wrap := x, no := no, pc := a.e.pc, v := a.v, oid := acc.oid, width := a.v.width acc.o,
      total := a.v.total, late := (s.port q.toNat).late }
    .ok ((s.setPort q.toNat p).dropCmd a)
  | _ => .ok (s.dropCmd a)

/-- A command that has not made its checks makes them, unless it has halted or waits for Mason (R101, R104, R300). DEDUCED, log entry 51. -/
def State.tryBegin (s : State) (n : Nat) : State :=
  match s.t.f.cmd n with
  | none => s
  | some a =>
    if a.ok ∨ a.halted ∨ a.ended ∨ a.mason.isSome then s
    else match a.fail with
      | some i => s.haltCmd a i
      | none => match s.slotPhase a with
        | .stall => s
        | .trap i => s.haltCmd a i
        | .ok (s1, a1) =>
          let s1 := s1.putCmd a1
          match s1.cmdReady a1 with
          | .stall => s1
          | .trap i => s1.askCmd a1 i
          | .ok s2 => s2

/-- A command for a queue entry, with copies of the views it names as they stand (R105, R120). -/
def State.newCmd (s : State) (e : QEntry) (rel : Option Word) : FCmd :=
  let view := fun k => match (fetViews e.w)[k]? with | some w => vget s.t.f.w w.toNat View.zero | none => View.zero
  { seq := s.t.f.seq, e := e, v := view 0, v2 := view 1, oid := 0, oid2 := 0, rel := rel, beg := s.fresh, begun := false, ok := false, pos := 0,
    outst := [], ended := false, halted := false, mason := none, fail := none, err := false, esub := 0, list := [], badRows := [], buf := [],
    chunk := none, quit := none }

/-- The words that FREL releases (R120). -/
def releasable (i : Instr) : Bool :=
  match i with
  | .fill .. | .fillc .. | .fld .. | .fst .. | .fsts .. | .fcopy .. | .fgth .. | .fpre .. | .fdone .. => true
  | _ => false

/-- Commands in the release buffer of the core (R120). -/
def State.relHeld (s : State) : Nat :=
  ((s.tasks.filter fun t => t.st == .running && t.coreNo == s.core).map fun t => t.f.rel.length).sum

/-- A word leaves the head of the queue and takes its number in queue order. -/
def State.popFetch (s : State) : State := s.modF fun f => { f with q := f.q.drop 1, frel := none, seq := f.seq + 1 }

/-- A fetch word: dispatched at the control engine's turn; at the fetch engine's turn, when it heads the queue, it goes to the release
buffer under an FREL (R120) or acts. -/
def State.fword (s : State) (S : Bool) (i : Instr) (eff : QEntry → State) : Res :=
  match s.turn with
  | .fetch => match s.t.f.q.head? with
    | none => .next s
    | some e =>
      if e.w ≠ i then .next s
      else match s.t.f.frel with
        | some t =>
          if releasable i then
            if s.relHeld < 64 then .next (s.popFetch.modF fun f => { f with rel := f.rel ++ [s.newCmd e (some t)] }) else .next s
          else .next (eff e)
        | none => .next (eff e)
  | _ => s.dispatch S i

/-- A word that sets view w acts when it executes (R109). -/
def State.setView (s : State) (w : BitVec 4) (g : View → View) : State :=
  s.popFetch.modF fun f => { f with w := vset f.w w.toNat (g (vget f.w w.toNat View.zero)) }

/-- A word that begins as a command (R105). -/
def State.beginWord (s : State) (e : QEntry) : State :=
  ((s.popFetch.tickFresh).modF fun f => { f with act := some (s.newCmd e none) }).tryBegin s.t.f.seq

/-- FVIEW (R109). -/
def execFview (S : Bool) (w : BitVec 4) (a : BitVec 5) (f : BitVec 3) (s : State) : Res :=
  s.fword S (.fview S w a f) fun e => s.setView w fun _ => viewFresh (e.cap 0) f
/-- FDIM (R109). -/
def execFdim (S : Bool) (w : BitVec 4) (a b : BitVec 5) (j : BitVec 2) (s : State) : Res :=
  s.fword S (.fdim S w a b j) fun e => s.setView w fun v => v.setDim (e.cap 0) (e.cap 1) j.toNat
/-- FIDX (R109). -/
def execFidx (S : Bool) (w : BitVec 4) (a b : BitVec 5) (p : Bool) (s : State) : Res :=
  s.fword S (.fidx S w a b p) fun e => s.setView w fun v => v.setIdx (e.cap 0) (e.cap 1) p.toNat
/-- FSHAPE (R110). -/
def execFshape (S : Bool) (w : BitVec 4) (a : BitVec 5) (s : State) : Res := s.fword S (.fshape S w a) s.beginWord
/-- FILL (R111). -/
def execFill (S : Bool) (o : BitVec 7) (w : BitVec 4) (r : BitVec 2) (s : State) : Res := s.fword S (.fill S o w r) s.beginWord
/-- FILLC (R112). -/
def execFillc (S : Bool) (o : BitVec 7) (w : BitVec 4) (s : State) : Res := s.fword S (.fillc S o w) s.beginWord
/-- FLD (R114). -/
def execFld (S : Bool) (w : BitVec 4) (a b : BitVec 5) (s : State) : Res := s.fword S (.fld S w a b) s.beginWord
/-- FST (R114). -/
def execFst (S : Bool) (w : BitVec 4) (a b : BitVec 5) (s : State) : Res := s.fword S (.fst S w a b) s.beginWord
/-- FSTS (R113). -/
def execFsts (S : Bool) (o : BitVec 7) (w : BitVec 4) (s : State) : Res := s.fword S (.fsts S o w) s.beginWord
/-- FCOPY (R116). -/
def execFcopy (S : Bool) (d x : BitVec 4) (s : State) : Res := s.fword S (.fcopy S d x) s.beginWord
/-- FGTH (R115). -/
def execFgth (S : Bool) (w : BitVec 4) (a b : BitVec 5) (r : BitVec 6) (s : State) : Res := s.fword S (.fgth S w a b r) s.beginWord
/-- FPRE (R119). -/
def execFpre (S : Bool) (w : BitVec 4) (t : BitVec 2) (s : State) : Res := s.fword S (.fpre S w t) s.beginWord

/-- The binding of a port ends (R118): read-ahead is discarded, accepted pushes stay until they are written. -/
def Port.unbind (p : Port) : Port :=
  { p with bound := false, fifo := if p.out && !p.dead then p.fifo else [], dead := false, halted := false, mason := none, fail := none,
           asked := if p.out then p.asked else none, res := p.out && p.res, runs := [] }

/-- The binding of a bound port ends; the lines reserved for its read-ahead are given up, and what a late push of it will report is kept (R88,
R118, R142). -/
def State.unbindPort (s : State) (q : Nat) : State :=
  let p := s.port q
  ((s.unpendRuns p.oid p.runs).setPort q p.unbind).modF fun f => { f with past := if p.out then f.past ++ [p.past] else f.past }

/-- FBIND (R117): a bound port is first unbound, and the word waits while the port drains. -/
def execFbind (S : Bool) (q : BitVec 2) (w : BitVec 4) (x o : Bool) (s : State) : Res :=
  s.fword S (.fbind S q w x o) fun e =>
    let s := if (s.port q.toNat).bound then s.unbindPort q.toNat else s
    if (s.port q.toNat).draining then s else s.beginWord e

/-- FUNB (R118): at an outbound port it is complete once the port has drained. DEDUCED, log entry 62. -/
def execFunb (S : Bool) (q : BitVec 2) (s : State) : Res :=
  s.fword S (.funb S q) fun e =>
    let p := s.port q.toNat
    let s1 := s.popFetch.tickFresh
    if !p.bound then s1
    else
      let s1 := s1.unbindPort q.toNat
      if p.unbind.draining then s1.modF fun f => { f with run := f.run ++ [{ s.newCmd e none with ok := true, ended := true }] } else s1

/-- FREL (R120): it takes no number in queue order (R121). -/
def execFrel (S : Bool) (a : BitVec 5) (s : State) : Res :=
  s.fword S (.frel S a) fun e => s.modF fun f => { f with q := f.q.drop 1, frel := some (e.cap 0) }

/-- FDONE (R121): a seventeenth unwritten value stalls the queue. -/
def execFdone (S : Bool) (a b : BitVec 5) (x : Bool) (s : State) : Res :=
  s.fword S (.fdone S a b x) fun e => if 16 ≤ s.t.f.fdone.length then s else s.beginWord e
/-- FTKS (R122). -/
def execFtks (S : Bool) (k : BitVec 3) (s : State) : Res :=
  s.fword S (.ftks S k) fun _ => s.popFetch.modF fun f => { f with ftks := f.ftks ++ [{ seq := s.t.f.seq, k := k }] }
/-- FTKW (R122). -/
def execFtkw (S : Bool) (k : BitVec 3) (s : State) : Res :=
  s.fword S (.ftkw S k) fun _ => if s.tokens k = 0 then s else s.popFetch.popToken k
/-- FADV (R109). -/
def execFadv (S : Bool) (w : BitVec 4) (a : BitVec 5) (j : BitVec 2) (s : State) : Res :=
  s.fword S (.fadv S w a j) fun e => s.setView w fun v => v.move (e.cap 0) j.toNat

/-- Whether the word at the head of the queue only waits there: for room in the release buffer, a token, room for a value of FDONE or the
draining of a port (R118, R120 to R122). -/
def State.fetWaits (s : State) (e : QEntry) : Bool :=
  if s.t.f.frel.isSome && releasable e.w then decide (64 ≤ s.relHeld)
  else match e.w with
    | .ftkw _ k => decide (s.tokens k = 0)
    | .fdone .. => decide (16 ≤ s.t.f.fdone.length)
    | .fbind _ q _ _ _ => !(s.port q.toNat).bound && (s.port q.toNat).draining
    | _ => false

/-- The words that have their turn with the head of the queue: with an FUNB those of its group that follow it, so that bindings end together that
one group ends (R118, R340; DEDUCED, log entry 124). -/
def headFunbs (q : List QEntry) : List QEntry :=
  let isFunb := fun (i : Instr) => match i with | .funb .. => true | _ => false
  match q with
  | [] => []
  | e :: es => e :: if isFunb e.w then es.takeWhile fun x => x.gseq == e.gseq && isFunb x.w else []

/-- FETCH_COMMAND_BEGIN (R105): the word at the head of the queue has its turn when the command before it has ended its issue phase. A
handler may hold the queue (R266), a halting trap stops it (R123), and its accesses follow every write of the control engine that goes on in the
background (R243). -/
def execFetchCommandBegin (s : State) : Res :=
  if s.t.st ≠ .running ∨ s.t.image ∨ s.t.f.act.isSome ∨ (s.t.f.q.head?.all fun e => s.fetWaits e) ∨ s.fetHalted ∨ s.fetStalled
      ∨ !s.t.c.stores.isEmpty ∨ (s.t.x.hmode ∧ s.t.f.q.length ≤ s.watermark 0 7 Config.subDepth) then .next s
  else .next { s with agenda := (headFunbs s.t.f.q).map (fun _ => Act.turn .fetch) ++ s.agenda }

/-- A released word that cannot begin: an FDONE while sixteen values are unwritten (R121). -/
def State.relStuck (s : State) (a : FCmd) : Bool := match a.e.w with | .fdone .. => decide (16 ≤ s.t.f.fdone.length) | _ => false

/-- The released command that begins next: the earliest time reached, and among equal times the first in the buffer (R120). -/
def nextReleased (now : Word) (l : List FCmd) : Option FCmd :=
  l.foldl (fun (best : Option FCmd) a =>
    let t := a.rel.getD 0
    if now < t then best
    else match best with
      | some b => if t < b.rel.getD 0 then some a else best
      | none => some a) none

/-- RELEASED_COMMAND_BEGIN (R120); it too follows the writes of the control engine that go on in the background (R243). -/
def execReleasedCommandBegin (s : State) : Res :=
  match nextReleased s.ticks (s.t.f.rel.filter fun a => !s.relStuck a) with
  | none => .next s
  | some a =>
    if s.t.st ≠ .running ∨ !s.t.c.stores.isEmpty then .next s
    else
      let s1 := s.tickFresh.modF fun f => { f with rel := f.rel.filter fun b => b.seq != a.seq, run := f.run ++ [{ a with beg := s.fresh }] }
      .next (s1.tryBegin a.seq)

/-- Elements of a command's walk. -/
def FCmd.total (a : FCmd) : Nat :=
  match a.e.w with
  | .fillc .. => a.v.ext 0 * a.v.ext 1
  | .fgth _ _ _ _ r => a.v.ext 0 * (r.toNat + 1)
  | _ => a.v.total

/-- The object indices of an element position; none for padding (R104, R112, R115). -/
def FCmd.tupleAt (a : FCmd) (p : Nat) : Option (Nat → Nat) :=
  match a.e.w with
  | .fillc .. => a.v.im2col (p / a.v.ext 0) (p % a.v.ext 0)
  | .fgth .. => some fun j => match j with
    | 0 => (a.v.indexOf 0 (p % a.v.ext 0)).toNat
    | 1 => (a.list.getD (p / a.v.ext 0) 0).toNat % 2 ^ 32
    | _ => a.v.baseAt j
  | _ => some (a.v.tuple p)

/-- The places of an element position: the element, the scale that goes with it for an MX slot, and the second object's element. -/
def FCmd.places (a : FCmd) (o o2 : Obj) (p : Nat) : List (BitVec 48 × (Nat × Nat) × Nat) :=
  match a.tupleAt p with
  | none => []
  | some t =>
    let main := (a.oid, a.v.place o t, a.v.width o)
    match a.e.w with
    | .fcopy .. => [main, (a.oid2, a.v2.place o2 (a.v2.tuple p), a.v2.width o2)]
    | .fill .. | .fillc .. | .fsts .. =>
      if o.layout = 3 then
        let (sh, j) := o.locate t
        [main, (a.oid, (sh, 8 * o.scaleOff sh j), 8)]
      else [main]
    | _ => [main]

/-- What keeps element positions in one request (R101): the row of a gather and the pages, none for padding. -/
def FCmd.key (a : FCmd) (o o2 : Obj) (p : Nat) : List Nat :=
  let page := fun (x : BitVec 48 × (Nat × Nat) × Nat) => pageKey x.1 x.2.1.1 (x.2.1.2 / 8 / 65536)
  match a.places o o2 p, a.e.w with
  | [], _ => []
  | x :: _, .fgth .. => [p / a.v.ext 0, page x]
  | x :: y :: _, .fcopy .. => [page x, page y]
  | x :: _, _ => [page x]

/-- The check of R55 of an element by itself, where a word makes one: an element of FILLC, a row of FGTH (R112, R115). -/
def FCmd.elemTrap (a : FCmd) (acc : Acc) (p : Nat) : Option TrapInfo :=
  let w := whoOf a.e.w
  match a.e.w with
  | .fillc .. => match a.tupleAt p with
    | none => none
    | some t => match boundsChecked acc t (fun _ => 1) w [0, 1, 2, 3] with
      | some i => some i
      | none => if acc.o.res = 3 then some (missingAt acc a.v w t) else none
  | .fgth .. =>
    let row := a.list.getD (p / a.v.ext 0) 0
    let v := { a.v with base := vset a.v.base 1 (row.setWidth 32), step := vset a.v.step 1 0 }
    match viewBounds acc v 0 rREAD w [0, 1, 2, 3] with
    | some i => some i
    | none => if acc.o.res = 3 then some (missingAt acc a.v w ((a.tupleAt p).getD fun _ => 0)) else none
  | _ => none

/-- The length of the request that begins at a position: as long as the key stays and each element passes its own check (R101). -/
def runLen (key : Nat → List Nat) (ok : Nat → Bool) : Nat → Nat → List Nat → Nat
  | 0, _, _ => 0
  | n + 1, p, k =>
    let k' := key p
    if !ok p then 0
    else if k'.isEmpty then 1 + runLen key ok n (p + 1) k
    else if k.isEmpty ∨ k = k' then 1 + runLen key ok n (p + 1) k'
    else 0

/-- The places of an element position that a command writes in its object: of a copy the destination alone (R116). -/
def FCmd.dsts (a : FCmd) (o o2 : Obj) (p : Nat) : List (BitVec 48 × (Nat × Nat) × Nat) :=
  match a.e.w with
  | .fcopy .. => (a.places o o2 p).take 1
  | _ => a.places o o2 p

/-- The pages of the object that an issue's elements are written to. -/
def FCmd.pages (a : FCmd) (o o2 : Obj) (first n : Nat) : List (Nat × Nat) :=
  ((List.range n).flatMap fun i => (a.dsts o o2 (first + i)).flatMap fun x =>
    (pagesOf (x.2.1.2 / 8) (cdiv (x.2.1.2 % 8 + x.2.2) 8)).map fun pg => (x.2.1.1, pg)).eraseDups

/-- Frames and dirty-log entries of the pages of a write request (R301, R303). -/
def State.prepAll (s : State) (acc : Acc) : List (Nat × Nat) → WPrep
  | [] => .ready s
  | (sh, pg) :: r => match State.prepPages s.die s.t.ctx acc.oid acc.o sh [pg] s with
    | .ready s1 => s1.prepAll acc r
    | x => x

/-- The entry of a view read again before a request (R101). MOVING stalls it, but for a read that a replica serves (R67). -/
def State.recheck (s : State) (v : View) (need : BitVec 6) (w : Who) : Chk Acc :=
  (s.entryChecked s.t.ctx (v.handle.setWidth 64) w).bind fun p => s.objChecked p.1 p.2 w (!s.byReplica p.2.oid need)

/-- The places that a request's element position is read from: none for a word that writes from the slot or the window. -/
def FCmd.srcs (a : FCmd) (o o2 : Obj) (p : Nat) : List (BitVec 48 × (Nat × Nat) × Nat) :=
  match a.e.w with
  | .fcopy .. => (a.places o o2 p).drop 1
  | .fst .. | .fsts .. => []
  | _ => a.places o o2 p

/-- A request of n elements reads from a shard whose object moves, where no replica serves it (R56, R67). -/
def State.srcStalls (s : State) (a : FCmd) (o o2 : Obj) (n : Nat) : Bool :=
  (o.moving || o2.moving) && (List.range n).any fun i => (a.srcs o o2 (a.pos + i)).any fun x =>
    s.shardStalls (match a.e.w with | .fcopy .. => o2 | _ => o) x.2.1.1 rREAD

/-- The lines that n elements of a command from position `first` on are read from. -/
def FCmd.readKeys (a : FCmd) (o o2 : Obj) (first n : Nat) : List Nat :=
  ((List.range n).flatMap fun i => (a.srcs o o2 (first + i)).flatMap fun x => lkeys x.1 x.2.1 x.2.2).eraseDups

/-- The misses of a request are reserved as it is issued (R88); a no-allocate view installs nothing, but for a prefetch (R89, R119). -/
def State.reserveReq (s : State) (a : FCmd) (o o2 : Obj) (n : Nat) : State :=
  let copy := match a.e.w with | .fcopy .. => true | _ => false
  let pre := match a.e.w with | .fpre .. => true | _ => false
  if (if copy then a.v2.noalloc else a.v.noalloc) && !pre then s
  else (a.readKeys o o2 a.pos n).foldl (fun s k =>
    s.reserveLine s.core s.t.ctx (viaL1 a.e.w) (if copy then a.oid2 else a.oid) (if copy then o2 else o) (keyShard k) (keyOff k)) s

/-- Transfers of a request at the fetch-issue weir: one for each 512 bytes (R105). DESIGN CHOICE, log entry 64. -/
def State.charge (s : State) (bits : Nat) : State := s.ask 1 s.core s.t.ctx (max 1 (cdiv bits 4096))

/-- A fault of a request that goes on its way to Mason or the task, or is deferred as a row of FGTH, a malformed object being reported (R49,
R127, R300). -/
def State.reqFault (s : State) (a : FCmd) (n : Nat) (i : TrapInfo) : State :=
  match a.e.w with
  | .fgth .. =>
    if a.v.defer then
      let n := min n (a.v.ext 0 - a.pos % a.v.ext 0)
      let r : FReq := { first := a.pos, count := n, oid := a.oid, oid2 := a.oid, bad := true, since := s.ticks }
      let a := { a with pos := a.pos + n, outst := a.outst ++ [r] }
      if a.pos = a.total then (s.reportTrap i).endIssue a else (s.reportTrap i).putCmd a
    else s.askCmd a i
  | _ => s.askCmd a i

/-- A request issued (R101, R105): it is charged, and the command's position moves past it. -/
def State.issue (s : State) (a : FCmd) (bits n : Nat) : State :=
  let r : FReq := { first := a.pos, count := n, oid := a.oid, oid2 := a.oid2, bad := false, since := s.ticks }
  let a := { a with pos := a.pos + n, outst := a.outst ++ [r] }
  let s := s.charge bits
  if a.pos = a.total then s.endIssue a else s.putCmd a

/-- A page's extent held by the caches of the handle unit and the stream TLB, when the page has a frame (R102). -/
def State.cacheExtent (s : State) (key : Nat) : State :=
  match alGet s.pages key with
  | some f => { s with xcache := alSet s.xcache key f }
  | none => s

/-- Translations: pages that a request is resolved for are walked to, unless the caches or a walk under way hold them, and a walk is asked for the
pages that come next, in advance and without any trap (R102); each walk is charged at its die's weir (R287). DESIGN CHOICE, log entry 76. -/
def State.walkPages (s : State) (now next : List Nat) : State :=
  let held := fun (s : State) (k : Nat) => (alGet s.xcache k).isSome || (alGet s.pages k).isNone || s.walks.any fun w => w.key == k
  let s := now.eraseDups.foldl (fun (s : State) k => (if held s k then s else s.ask 2 s.die s.t.ctx 1).cacheExtent k) s
  next.eraseDups.foldl (fun (s : State) k =>
    if held s k then s
    else { s.ask 2 s.die s.t.ctx 1 with walks := s.walks ++ [{ die := s.die, oid := BitVec.ofNat 48 (k / 2 ^ 35), key := k }] }) s

/-- The translations of a request of a command, for a copy those of both its objects (R102, R116). -/
def State.translate (s : State) (a : FCmd) (o o2 : Obj) (n : Nat) : State :=
  let keys := fun p => (a.places o o2 p).map fun x => pageKey x.1 x.2.1.1 (x.2.1.2 / 8 / 65536)
  s.walkPages (keys a.pos) (if a.pos + n < a.total then keys (a.pos + n) else [])

/-- The walks that a die's handle unit runs: in arrival order those that its weir has granted, at most 256 at once (R12, R102, R287). -/
def State.walksRunning (s : State) (die : Nat) : List Walk :=
  let ws := s.walks.filter fun w => w.die == die
  ws.take (min Config.maxWalks (ws.length - countIf (fun x : WReq => x.cls == 2 && x.unit == die) s.transfers))

/-- EXTENT_MAP_WALK (R102): the oldest walk that a die's handle unit runs ends at the page's frame. -/
def execExtentMapWalk (die : Nat) (s : State) : Res :=
  match (s.walksRunning die).head? with
  | none => .next s
  | some w => .next ({ s with walks := s.walks.erase w }.cacheExtent w.key)

/-- Requests of a core that are outstanding (R12). -/
def State.coreRequests (s : State) : Nat :=
  ((s.tasks.filter fun t => t.coreNo == s.core).map fun t => (t.f.open_.map fun a => a.outst.length).sum).sum

/-- Each of a word's elements makes the checks of R55 by itself, with that of its residency (R112, R115). -/
def checksEach (i : Instr) : Bool := match i with | .fillc .. => true | .fgth .. => true | _ => false

/-- The next request of a command that has made its checks: entry, element, residency, frames and dirty log, then the issue (R101). -/
def State.nextReq (s : State) (a : FCmd) : State :=
  let w := whoOf a.e.w
  let copy := match a.e.w with | .fcopy .. => true | _ => false
  let need := if fetWrites a.e.w then rWRITE else rREAD
  match s.recheck a.v need w, (if copy then s.recheck a.v2 rREAD w else s.recheck a.v need w) with
  | .stall, _ => s
  | .trap i, _ => s.reqFault a (a.v.ext 0) i
  | _, .stall => s
  | _, .trap i => s.reqFault a (a.v.ext 0) i
  | .ok acc, .ok acc2 => match a.elemTrap acc a.pos with
    | some i => s.reqFault a (a.v.ext 0) i
    | none =>
      let a := { a with oid := acc.oid, oid2 := acc2.oid }
      let n := runLen (a.key acc.o acc2.o) (fun p => (a.elemTrap acc p).isNone) (a.total - a.pos) a.pos []
      let miss := fun (x : Acc) (v : View) => missingAt x v w ((a.tupleAt a.pos).getD fun _ => 0)
      if s.srcStalls a acc.o acc2.o n then s
      else if acc.o.res = 3 ∧ !checksEach a.e.w then s.reqFault a n (miss acc a.v)
      else if copy ∧ acc2.o.res = 3 then s.reqFault a n (missingAt acc2 a.v2 w (a.v2.tuple a.pos))
      else
        let bits := n * a.v.width acc.o
        if fetWrites a.e.w then match s.prepAll acc (a.pages acc.o acc2.o a.pos n) with
          | .noFrame sub page => s.reqFault a n (frameTrap w sub acc.h acc.oid.toNat page)
          | .logFull c =>
            let page := match a.pages acc.o acc2.o a.pos n with | (_, pg) :: _ => pg | [] => 0
            s.tellLogFull c acc.oid page s.queueCode (a.e.pc.setWidth 32)
          | .stall => s
          | .ready s1 => ((s1.translate a acc.o acc2.o n).reserveReq a acc.o acc2.o n).issue a bits n
        else ((s.translate a acc.o acc2.o n).reserveReq a acc.o acc2.o n).issue a bits n

/-- A port holds elements of a coherent object that do not stand in their lines yet. -/
def State.coherentLines (s : State) (p : Port) : Bool := p.lands && s.isCoherent p.oid

/-- An activity that began earlier and is not over touches a byte that the command writes, or writes one that it touches: the command issues no
request until it is over (R106). Accesses to coherent objects keep the order of the stream whatever they touch (R230, R237). -/
def State.mustWait (s : State) (a : FCmd) : Bool :=
  (s.t.f.started.any fun b => decide (b.beg < a.beg) && s.cmdsClash a b)
    || s.doneAhead a (s.spansOf a)
    || (s.cmdCoherent a && s.t.f.ports.toList.any s.coherentLines)

/-- FETCH_REQUEST (R101): a command makes its checks if it has not, and otherwise issues its next request, once no earlier activity has still to
touch what it touches (R106): requests in flight never conflict. -/
def execFetchRequest (act : Nat) (s : State) : Res :=
  match s.t.f.cmd act with
  | none => .next s
  | some a =>
    if s.t.st ≠ .running ∨ a.halted ∨ a.ended ∨ a.mason.isSome ∨ s.fetStalled ∨ Config.maxRequests ≤ s.coreRequests then .next s
    else if !a.ok then .next (s.tryBegin act)
    else match a.fail with
      | some i => .next (s.haltCmd a i)
      | none => if s.mustWait a then .next s else .next (s.nextReq a)

/-- A slot of the core with bits of its data replaced. -/
def Slot.putBits (x : Slot) (bit w v : Nat) : Slot := { x with data := x.data.putBits bit w v }

/-- A change of a slot within the movement of elements. -/
def Xf.modSlot (x : Xf) (n : Nat) (f : Slot → Slot) : Xf := { x with s := x.s.setSlot x.s.core n (f (x.s.slot x.s.core n)) }

/-- w bits of the window written within the movement of elements; the vector engine reads their bytes as they stand (R134). -/
def Xf.winBits (x : Xf) (bit w v : Nat) : Xf :=
  { x with s := (x.s.modT fun t => { t with win := t.win.putBits bit w v }).forget (bit / 8) ((bit % 8 + w + 7) / 8) }

/-- The movement of one element into a slot (R111, R112). -/
def Xf.toSlot (x : Xf) (a : FCmd) (v1 : Via) (n : Nat) (arr : Arr) (r c p : Nat) : Xf :=
  let o := v1.acc.o
  let e := a.v.width o
  match a.tupleAt p with
  | none =>
    let x := x.modSlot n fun y => y.putBits (arr.bit e r c) e (shapeOf a.v.shape).pad
    if o.layout = 3 then x.modSlot n fun y => y.putBits (8 * arr.side e r c) 8 0x7F else x
  | some t =>
    let (x, b) := x.get v1 (a.v.place o t) e
    let x := x.modSlot n fun y => y.putBits (arr.bit e r c) e b
    if o.layout = 3 then
      let (sh, j) := o.locate t
      let (x, k) := x.get v1 (sh, 8 * o.scaleOff sh j) 8
      x.modSlot n fun y => y.putBits (8 * arr.side e r c) 8 k
    else x

/-- The movement of one element from a slot (R113). -/
def Xf.ofSlot (x : Xf) (a : FCmd) (v1 : Via) (n : Nat) (r c p : Nat) : Xf :=
  let o := v1.acc.o
  let e := a.v.width o
  let y := x.s.slot x.s.core n
  let t := a.v.tuple p
  let x := x.put v1 (a.v.place o t) e (y.data.getBits (y.arr.bit e r c) e)
  if y.mx then
    let (sh, j) := o.locate t
    x.put v1 (sh, 8 * o.scaleOff sh j) 8 (y.data.getBits (8 * y.arr.side e r c) 8)
  else x

/-- The window bit of an element of FLD and FST (R114). -/
def FCmd.rowBit (a : FCmd) (e p : Nat) : Nat :=
  8 * ((a.e.cap 0).toNat + p / a.v.ext 0 * pitchOf a.v e (a.e.cap 1)) + p % a.v.ext 0 * e

/-- The movement of one element of a command (R111 to R116). DEDUCED, log entry 56. -/
def Xf.move (a : FCmd) (v1 v2 : Via) (x : Xf) (p : Nat) : Xf :=
  let o := v1.acc.o
  let e := a.v.width o
  let c := p % a.v.ext 0
  let r := p / a.v.ext 0
  match a.e.w with
  | .fill _ n _ role => x.toSlot a v1 n.toNat (arrOfRole role) r c p
  | .fillc _ n _ => x.toSlot a v1 n.toNat .a r c p
  | .fsts _ n _ => x.ofSlot a v1 n.toNat r c p
  | .fld .. =>
    let (x, b) := x.get v1 (a.v.place o (a.v.tuple p)) e
    let k := a.rowBit e p
    let last := (k + e) % 8
    let x := x.winBits k e b
    if c + 1 = a.v.ext 0 ∧ last ≠ 0 then x.winBits (k + e) (8 - last) 0 else x
  | .fst .. => x.put v1 (a.v.place o (a.v.tuple p)) e (x.s.t.win.getBits (a.rowBit e p) e)
  | .fgth .. =>
    let (x, b) := x.get v1 (a.v.place o ((a.tupleAt p).getD fun _ => 0)) e
    x.winBits (8 * ((a.e.cap 0).toNat + r * gthPitch a.v e) + c * e) e b
  | .fcopy .. =>
    let (x, b) := x.get v2 (a.v2.place v2.acc.o (a.v2.tuple p)) e
    if x.err.isSome then x else x.put v1 (a.v.place o (a.v.tuple p)) e b
  | _ => x

/-- Lines prefetched or pinned for FPRE (R119), with the first FETCH-ERROR. -/
def State.preLines (s : State) (oid : BitVec 48) (o : Obj) (pin : Bool) : List Nat → State × Option (Nat × Nat)
  | [] => (s, none)
  | k :: ks =>
    let sh := keyShard k
    let off := keyOff k
    let e1 := s.lineFault oid o sh off
    let s1 := match e1 with
      | some e => s.failLine s.t.ctx oid o sh off e
      | none => s.prefetchLine s.t.ctx oid o pin sh off
    let (s2, e2) := s1.preLines oid o pin ks
    (s2, (e1.map fun e => (e, sh)) <|> e2)

/-- A later position of the command writes the line (R99). -/
def FCmd.linePending (a : FCmd) (o o2 : Obj) (next key : Nat) : Bool :=
  (List.range (a.total - next)).any fun i =>
    ((a.places o o2 (next + i)).filter fun x => x.1 == a.oid).any fun x => (lkeys x.1 x.2.1 x.2.2).contains key

/-- A chunk of the window that a command has read in part, as it stood then (R134). -/
def State.withChunk (s : State) (c : Option (Nat × BitVec 512)) : State :=
  match c with
  | some (k, d) => s.modT fun t => { t with win := t.win.write (64 * k) (leBytes 64 d.toNat) }
  | none => s

/-- The chunk in which a request of FST ends and the next one begins, as the request has read it (R134). -/
def FCmd.chunkAfter (a : FCmd) (s : State) (e next : Nat) : Option (Nat × BitVec 512) :=
  match a.e.w with
  | .fst .. =>
    let k := a.rowBit e next / 512
    if next < a.total ∧ k = (a.rowBit e (next - 1) + e - 1) / 512 then some (k, bitsOfBytes 512 (s.spad (64 * k) 64)) else none
  | _ => none

/-- The window and the vector engine of another state of the task, which a read that failed leaves unchanged (R128). -/
def State.winOf (s old : State) : State := { s with t := { s.t with win := old.t.win, v := old.t.v } }

/-- A FETCH-ERROR of a request: subcode and shard, the access, and the element position that is reported. -/
abbrev ReqErr := ((Nat × Nat) × Acc) × Nat

/-- A write request that failed (R74, R128): the lines that it alone was to write keep or take each byte at once, and in a line that an earlier
request has begun its bytes join that line's write or not. -/
def State.tearReq (s : State) (a : FCmd) (o : Obj) (oid : BitVec 48) (own : List LBuf) : State × FCmd :=
  own.foldl (fun (y : State × FCmd) x =>
    if y.2.buf.any fun b => b.key == x.key then
      ({ y.1 with fresh := y.1.fresh + 64 },
        { y.2 with buf := y.2.buf.map fun b => if b.key = x.key then tearJoin y.1.fresh b x else b })
    else (y.1.tearSend oid o x, y.2)) (s, { a with chunk := none })

/-- The elements of a request moved: the machine after it, the command with its waiting line writes, the first FETCH-ERROR. `err` is one that
the tier or the fabric reports for the request as a whole. -/
def State.moveReq (s : State) (a : FCmd) (r : FReq) (err : Option (Nat × Nat)) : State × FCmd × Option ReqErr :=
  let l1 := viaL1 a.e.w
  match s.viaOf r.oid a.v l1, s.viaOf r.oid2 a.v2 l1 with
  | some v1, some v2 =>
    let ps := (List.range r.count).map (r.first + ·)
    let next := r.first + r.count
    match a.e.w with
    | .fpre _ _ t =>
      let keys := (ps.flatMap fun p => (a.places v1.acc.o v2.acc.o p).flatMap fun x => lkeys x.1 x.2.1 x.2.2).eraseDups
      let (s1, e) := if err.isSome then (s, none) else s.preLines r.oid v1.acc.o (t == 2) keys
      (s1, a, (err <|> e).map fun k => ((k, v1.acc), r.first))
    | _ =>
      let x0 := Xf.start (s.withChunk a.chunk) a.buf r.first
      let x := if err.isSome && !fetWrites a.e.w then x0 else ps.foldl (Xf.move a v1 v2) x0
      let e := v1.acc.o
      match (err.map fun k => (k, v1.acc)) <|> x.err with
      | some b =>
        let s1 := x.s.winOf s
        if fetWrites a.e.w then
          let (s2, a2) := s1.tearReq a v1.acc.o r.oid x.own
          (s2, a2, some (b, r.first))
        else (s1, a, some (b, r.first))
      | none =>
        let out := x.buf.filter fun b => !a.linePending v1.acc.o v2.acc.o next b.key
        let keep := x.buf.filter fun b => a.linePending v1.acc.o v2.acc.o next b.key
        let a1 := { a with buf := keep, chunk := a.chunkAfter x.s (a.v.width e) next }
        let (s1, e1) := State.sendLines r.oid v1.acc.o a.v.noalloc out (if fetWrites a.e.w then x.s.winOf s else x.s)
        (s1, a1, e1.map fun k => ((k.1, v1.acc), k.2))
  | _, _ => (s, { a with buf := [] }, none)

/-- The entry of a gathered row once the row is over: bit 63 says whether it was deferred, and a deferred row is zero (R115, R127). -/
def State.endRow (s : State) (a : FCmd) (next : Nat) : State :=
  match a.e.w with
  | .fgth .. =>
    if next % a.v.ext 0 ≠ 0 then s
    else
      let r := next / a.v.ext 0 - 1
      let e := s.widthOf a
      let bad := a.badRows.contains r
      let at_ := (a.e.cap 1).toNat + 8 * r
      let old := leNat (s.spad at_ 8) % 2 ^ 63
      let s := if bad then s.setSpad ((a.e.cap 0).toNat + r * gthPitch a.v e) (List.replicate (rowBytes a.v e) 0) else s
      s.setSpad at_ (leBytes 8 (old + bad.toNat * 2 ^ 63))
  | _ => s

/-- The slot of a command that is over (R137): FREE when its owner has ended, FULL, or FAULTED after FETCH-ERROR. A slot that an error has made
FAULTED while it drained stays so (R217). -/
def State.finishSlot (s : State) (a : FCmd) : State :=
  match fetSlotOf a.e.w with
  | none => s
  | some n =>
    let x := s.slot s.core n.toNat
    if x.dying then s.setSlot s.core n.toNat Slot.reset
    else match a.quit, a.e.w with
      | some why, _ => State.abandonCmd why s a
      | none, .fsts .. => if x.st = .draining then s.setSlot s.core n.toNat { x with st := .full } else s
      | none, _ => if a.err then s.setSlot s.core n.toNat { x with st := .faulted, fcause := 0x0B, fsub := BitVec.ofNat 8 a.esub }
        else s.setSlot s.core n.toNat { x with st := .full }

/-- A command is over (R107): its last line writes are sent, its slot takes its new state, and it leaves. It stays while a place that these lines
go to may still reply (R73). -/
def State.finishCmd (s : State) (a : FCmd) : State :=
  let (s, a) := s.flushCmd a
  if a.asked.isSome then s.putCmd a else ((s.finishSlot a).dropCmd a).settle

/-- A command without a request in flight sends its line writes again, whose place has not replied (R73). -/
def State.flushAgain (s : State) (a : FCmd) : State :=
  s.unlessFull (if a.ended then s.finishCmd a else let r := s.flushCmd a; r.1.putCmd r.2)

/-- What FETCH-ERROR comes to for a command (R127, R128). DEDUCED, log entry 55. -/
def State.reqError (s : State) (a : FCmd) (r : FReq) (b : ReqErr) : State × FCmd :=
  let tell := (s.pendFetch (s.fetchTrap (whoOf a.e.w) b.1.2 b.1.1) a.word b.2 false, { a with err := true })
  match a.e.w with
  | .fill .. | .fillc .. => (s, { a with err := true, esub := if a.err then a.esub else b.1.1.1 })
  | .fgth .. => if a.v.defer then (s, { a with badRows := a.badRows ++ [r.first / a.v.ext 0] }) else tell
  | _ => tell

/-- The oldest request of a command is over; with the last, a halted command sends its lines, and an ended one is complete. -/
def State.closeReq (s : State) (a : FCmd) (r : FReq) (rs : List FReq) : State :=
  let a := { a with outst := rs }
  let s := s.endRow a (r.first + r.count)
  let (s, a) := if a.halted && rs.isEmpty then s.flushCmd a else (s, a)
  if a.ended && rs.isEmpty then s.finishCmd a else s.putCmd a

/-- Lines that a failed request has reserved are pending no longer (R88). -/
def State.unpendReq (s : State) (a : FCmd) (r : FReq) : State :=
  match s.obj r.oid, s.obj r.oid2 with
  | some o, some o2 =>
    let x := match a.e.w with | .fcopy .. => (r.oid2, o2) | _ => (r.oid, o)
    (a.readKeys o o2 r.first r.count).foldl (fun s k => s.unpendLine x.1 (keyShard k) (keyOff k)) s
  | _, _ => s

/-- The oldest request of a command completes (R107, R128), unless its place has sent no reply yet (R73), or its error finds too many traps
waiting (R124). -/
def State.complete (s : State) (a : FCmd) (err : Option (Nat × Nat)) : State :=
  match a.outst with
  | [] => s
  | r :: rs =>
    if r.bad then s.unlessFull (s.closeReq { a with badRows := a.badRows ++ [r.first / a.v.ext 0] } r rs)
    else match s.moveReq a r err with
      | (s1, a1, none) => s.unlessFull (s1.closeReq a1 r rs)
      | (s1, a1, some b) =>
        if (s.unanswered (.asked r.since) b.1.1.1).isSome then s
        else
          let (s2, a2) := (s1.unpendReq a r).reqError a1 r b
          s.unlessFull (s2.closeReq a2 r rs)

/-- The oldest request of a command, once its transfers have been granted (R105). -/
def State.atRequest (s : State) (act : Nat) (k : FCmd → FReq → State) : Res :=
  match s.t.f.cmd act with
  | none => .next s
  | some a => match a.outst with
    | [] => .next s
    | r :: _ => if s.transferWaits then .next s else .next (k a r)

/-- A command has no request in flight, and its line writes await the reply of their place (R73). -/
def FCmd.awaitsLines (a : FCmd) : Bool := a.asked.isSome && a.outst.isEmpty && (a.ended || a.halted)

/-- FETCH_REQUEST_COMPLETE (R107). -/
def execFetchRequestComplete (act : Nat) (s : State) : Res :=
  match (s.t.f.cmd act).filter FCmd.awaitsLines with
  | some a => .next (s.flushAgain a)
  | none => s.atRequest act fun a _ => s.complete a none

/-- The place of a request's first element: its object, shard and bit. -/
def State.reqFirst (s : State) (a : FCmd) (r : FReq) : Option (Obj × Nat × Nat) :=
  (s.obj r.oid).bind fun o => (a.places o o r.first).head?.map fun x => (o, x.2.1)

/-- An error that ECC cannot correct in one line of an object (R74, R97): in the L2 when the line is there, in its tier, or at the package that serves the read (R58). -/
def State.loseLine (s : State) (oid : BitVec 48) (o : Obj) (sh off : Nat) : State :=
  if s.elsewhere o sh then s.poisonFar oid o sh (off / 64 * 64)
  else match s.frameOf oid sh (off / 65536) with
    | none => s
    | some f =>
      let pa := physAddr f off
      if (s.l2line pa).isSome then { s with l2bad := s.l2bad ++ [lineAddr pa] }.l2lose pa else s.poison [lineAddr pa]

/-- FETCH_ERROR (R73, R97, R128): an uncorrectable error at a request's first line, a failing link or an absent key ends the request. -/
def execFetchError (act : Nat) (sub : BitVec 8) (s : State) : Res :=
  s.atRequest act fun a r => match s.reqFirst a r with
    | none => s
    | some (o, sh, bit) =>
      if sub = 1 then (s.loseLine r.oid o sh (bit / 8)).complete a (some (1, sh))
      else if s.readPlace o sh = 2 ∧ (sub = 4 ∨ sub = 5) then s.complete a (some (sub.toNat, sh))
      else s

/-- A request without a reply for the time that its place allows completes with FETCH-ERROR (R73). -/
def State.timeout (s : State) (act : Nat) (peer : Bool) (sub : Nat) : Res :=
  s.atRequest act fun a r => match s.reqFirst a r with
    | none => s
    | some (o, sh, _) =>
      let p := s.readPlace o sh
      if (if peer then p = 2 else p < 2) ∧ Config.replyTicks peer ≤ (s.ticks - r.since).toNat then s.complete a (some (sub, sh)) else s

/-- TIER_TIMEOUT (R73). -/
def execTierTimeout (act : Nat) (s : State) : Res := s.timeout act false 2
/-- PEER_TIMEOUT (R73). -/
def execPeerTimeout (act : Nat) (s : State) : Res := s.timeout act true 3

/-- Fetch command number n of the partition is complete. -/
def Fet.over_ (f : Fet) (n : Nat) : Bool := !(f.live.any fun a => a.seq == n)

/-- Every command before number n is complete. -/
def Fet.allOver (f : Fet) (n : Nat) : Bool := f.live.all fun a => n ≤ a.seq

/-- The commands that an FDONE covers are complete (R121). -/
def Fet.covered (f : Fet) (d : FDone) : Bool := if d.all then f.allOver d.seq else d.seq = 0 || f.over_ (d.seq - 1)

/-- Bit 63 of an FDONE value (R121). -/
def Fet.coveredErr (f : Fet) (d : FDone) : Bool := f.errs.any fun n => if d.all then n < d.seq else n + 1 == d.seq

/-- Whether an FDONE value may be written: the commands that it covers are complete, and no activity that began earlier has still to touch the
bytes that it writes (R106, R121). -/
def State.doneReady (s : State) (d : FDone) : Bool :=
  let at_ : List (Bool × Nat × Nat) := [(true, d.off, d.off + 8)]
  s.t.f.covered d
    && !(s.t.f.started.any fun b => decide (b.beg < d.beg) && spansClash (s.spansOf b) at_)
    && !(s.t.f.fdone.any fun x => decide (x.beg < d.beg) && spansClash [(true, x.off, x.off + 8)] at_)

/-- FDONE_VALUE_WRITE (R121): the first value that may be written. -/
def execFdoneValueWrite (s : State) : Res :=
  match s.t.f.fdone.find? s.doneReady with
  | none => .next s
  | some d =>
    let v : Word := d.val ||| (if s.t.f.coveredErr d then 1 <<< 63 else 0)
    .next ((s.setSpad d.off (leBytes 8 v.toNat)).modF fun f => { f with fdone := f.fdone.filter fun x => x.seq != d.seq })

/-- FETCH_TOKEN_PUSH (R122). -/
def execFetchTokenPush (s : State) : Res :=
  match s.t.f.ftks.find? fun t => s.t.f.allOver t.seq && s.pushFits t.k 1 with
  | none => .next s
  | some t => .next ((s.pushToken t.k).modF fun f => { f with ftks := f.ftks.filter fun x => x.seq != t.seq })

/-- A binding halts at an element, once the lines that hold its earlier elements have been sent (R123, R125). -/
def State.portHalt (s : State) (q : Nat) (p : Port) (i : TrapInfo) : State :=
  if s.fetHalted then s
  else
    let s1 := if p.buf.isEmpty then s else s.flushPort q
    let p1 := s1.port q
    if !p1.buf.isEmpty then s1
    else s.unlessFull ((s1.setPort q { p1 with halted := true, fail := none }).pendFetch i p.word (p.posOf p.count + p.sub) true)

/-- A binding halts, or waits for Mason (R123, R300). Read-ahead sends him no request: an absent object is asked for once a dispatched vector
word pops the element (R304; DEDUCED, log entry 102). -/
def State.portFault (s : State) (q : Nat) (p : Port) (i : TrapInfo) : State :=
  if (i.cause = .missingObject ∨ i.cause = .framePoolEmpty) ∧ p.fail.isNone then
    if p.out ∨ p.fifo.length < s.popsLeft q p.no then
      (s.tickFresh.toMason (.fault s.reqNo s.t.ctx s.t.part i)).setPort q { p with mason := some s.reqNo }
    else s
  else s.portHalt q p i

/-- The element position of a view from which a binding goes on: a walk that wraps passes every position again (R117). -/
def Port.from_ (p : Port) : Nat := if p.wrap then 0 else p.posOf p.count + p.sub

/-- The checks of a binding's elements before they move: entry, residency (R101); after a halt or a save every check of its view from its
position on (R126, R129). An inbound element waits for its shards to thaw, but where a replica serves them (R56, R67). -/
def State.portChecked (s : State) (p : Port) (w : Who) : Chk Acc :=
  let need := if p.out then rWRITE else rREAD
  (if p.again then s.viewChecked p.v p.from_ need w true else s.recheck p.v need w).bind fun acc =>
    let r := p.range (p.count % p.perPass)
    let held := acc.o.moving && (p.out || (List.range r.2).any fun i => s.shardStalls acc.o (p.v.place acc.o (p.v.tuple (r.1 + i))).1 rREAD)
    if held then .stall else if acc.o.res = 3 then .trap (missingAt acc p.v w (p.v.tuple 0)) else .ok acc

/-- Another port of the partition holds lines of a coherent object that have not been sent. -/
def State.othersLines (s : State) (q : Nat) : Bool := (List.range 4).any fun k => k != q && s.coherentLines (s.port k)

/-- A command that has begun and is not over writes what the binding touches, or touches what it writes (R106); and on a coherent object a
binding keeps its place in the order of the partition's coherent accesses, behind such a command and behind lines that another port holds (R230,
R237). -/
def State.portMustWait (s : State) (q : Nat) (p : Port) : Bool :=
  let x := s.touch p.oid p.v p.out fun _ => false
  (s.t.f.started.any fun b => (s.touches b).any x.clash)
    || (s.isCoherent p.oid && ((s.t.f.started.any s.cmdCoherent) || s.othersLines q))

/-- The next port element of an inbound walk: the machine, the element's bits, the first FETCH-ERROR (R117). -/
def State.portRead (s : State) (p : Port) (acc : Acc) : State × BitVec 2048 × Option ((Nat × Nat) × Acc) :=
  let n := p.count % p.perPass
  let (k0, m) := p.range n
  let via : Via := { acc := acc, noalloc := p.v.noalloc, l1 := true }
  let (x, bits) := (List.range m).foldl (fun (a : Xf × Nat) i =>
    let (x, b) := a.1.get via (p.v.place acc.o (p.v.tuple (k0 + i))) p.width
    (x, a.2 + b * 2 ^ (p.width * i))) (Xf.start s [] (p.posOf p.count), 0)
  (x.s, BitVec.ofNat 2048 (bits / 2 ^ (2048 * n - k0 * p.width)), x.err)

/-- A port element joins the read-ahead (R117). -/
def State.portPush (s : State) (q : Nat) (p : Port) (d : BitVec 2048) (poison : Bool) : State :=
  s.setPort q { p with fifo := p.fifo ++ [{ data := d, poison := poison }], count := p.count + 1, fail := none, asked := none, res := false,
                       runs := [], again := false, ended := !p.wrap && decide (p.perPass ≤ p.count + 1) }

/-- The places of m element positions of a binding from k on. -/
def Port.placesOf (p : Port) (o : Obj) (k m : Nat) : List (Nat × Nat) := (List.range m).map fun i => p.v.place o (p.v.tuple (k + i))

/-- The bytes of the lines that the next element of an inbound binding is read from, once each. -/
def Port.lineRuns (p : Port) (oid : BitVec 48) (o : Obj) : List (Nat × Nat × Nat) :=
  let (k0, m) := p.range (p.count % p.perPass)
  ((p.placesOf o k0 m).flatMap fun x => lkeys oid x p.width).eraseDups.map fun k => (keyShard k, keyOff k, 64)

/-- The pages that m element positions of a binding from k on begin in. -/
def Port.pageKeys (p : Port) (oid : BitVec 48) (o : Obj) (k m : Nat) : List Nat :=
  (p.placesOf o k m).map fun x => pageKey oid x.1 (x.2 / 8 / 65536)

/-- A resolved element of an inbound binding is read and joins the read-ahead; its FETCH-ERROR is deferred or pending, once its place has had the
time to reply (R55, R73, R117, R127, R128). -/
def State.portFetch (s : State) (q : Nat) (p : Port) (acc : Acc) : State :=
  let (s1, d, e) := s.portRead p acc
  match e with
  | none => s1.portPush q p d false
  | some b => match s.portSilent q b.1.1 true with
    | some s2 => s2
    | none =>
      let s2 := s1.unpendRuns p.oid p.runs
      if p.v.defer then s2.portPush q p 0 true
      else s.unlessFull ((s2.tickFresh.portPush q p (Config.lostElem s2.fresh) true).pendFetch
        (s.fetchTrap (whoOf (.fbind false 0 0 false false)) b.2 b.1) p.word (p.posOf p.count) false)

/-- The request of an inbound binding's next element is sent: its transfers are charged and its pages walked to, those of the element behind it in
advance; and it reads at once, or its lines being reserved when its tier has answered (R88, R102, R105). -/
def State.portIssue (s : State) (q : Nat) (p : Port) (acc : Acc) : State :=
  let (k0, m) := p.range (p.count % p.perPass)
  let next := if k0 + m < p.total then p.pageKeys acc.oid acc.o (k0 + m) 1 else if p.wrap then p.pageKeys acc.oid acc.o 0 1 else []
  let s1 := (s.charge 2048).walkPages (p.pageKeys acc.oid acc.o k0 m) next
  let runs := p.lineRuns acc.oid acc.o
  if !p.v.noalloc && s.runsMiss acc true runs then
    (s1.reserveRuns acc true runs).setPort q { p with asked := some s.ticks, res := true, runs := runs }
  else s1.portFetch q p acc

/-- STREAM_READ_AHEAD (R117, R127, R128): one more port element of an inbound binding is asked for, or read once it is resolved. -/
def execStreamReadAhead (q : BitVec 2) (s : State) : Res :=
  let p := s.port q.toNat
  if s.t.st ≠ .running ∨ !p.bound ∨ p.out ∨ p.dead ∨ p.halted ∨ p.ended ∨ p.mason.isSome ∨ p.perPass = 0 ∨ 8 ≤ p.fifo.length
      ∨ s.transferWaits then .next s
  else if p.res then match s.portAcc p with
    | some acc => .next (s.portFetch q.toNat p acc)
    | none => .next s
  else if s.fetStalled ∨ s.portMustWait q.toNat p then .next s
  else
    let fault := fun i => if p.v.defer then (s.reportTrap i).portPush q.toNat p 0 true else s.portFault q.toNat p i
    match p.fail, s.portChecked p (whoOf (.fbind false 0 0 false false)) with
    | some i, _ => .next (fault i)
    | none, .stall => .next s
    | none, .trap i => .next (fault i)
    | none, .ok acc => .next (s.portIssue q.toNat p acc)

/-- Whole elements that a pass has delivered once n port elements of it have been pushed. -/
def Port.wholeOf (p : Port) (n : Nat) : Nat := min p.total (2048 * n / p.width)

/-- A later element of the pass writes the line (R99). -/
def Port.linePending (p : Port) (oid : BitVec 48) (o : Obj) (next key : Nat) : Bool :=
  (List.range (p.total - next)).any fun i => (lkeys oid (p.v.place o (p.v.tuple (next + i))) p.width).contains key

/-- The next request of an outbound port: the first element position of the pass that its head completes and that is not written yet, and how many
from it on begin in one page of one shard (R101, R117). -/
def Port.request (p : Port) (acc : Acc) : Nat × Nat :=
  let n := p.count % p.perPass
  let a := p.wholeOf n + p.sub
  (a, runLen (fun i => p.pageKeys acc.oid acc.o i 1) (fun _ => true) (p.wholeOf (n + 1) - a) a [])

/-- The elements of the next request of an outbound port are unpacked from its head and written, and the head leaves with the last of them (R101,
R117); while its place sends no reply, it waits (R73). -/
def State.portWrite (s : State) (q : Nat) (p : Port) (acc : Acc) (x : PElem) : State :=
  let n := p.count % p.perPass
  let first := p.wholeOf n
  let b := p.wholeOf (n + 1)
  let (a, m) := p.request acc
  let left := 2048 * n - first * p.width
  let bits := p.part.toNat % 2 ^ left + x.data.toNat * 2 ^ left
  let via : Via := { acc := acc, noalloc := p.v.noalloc, l1 := false }
  let y := (List.range m).foldl (fun (y : Xf) i =>
    y.put via (p.v.place acc.o (p.v.tuple (a + i))) p.width (bits / 2 ^ (p.width * (a - first + i)) % 2 ^ p.width))
    (Xf.start s p.buf (p.posOf p.count + p.sub))
  let out := y.buf.filter fun l => !p.linePending acc.oid acc.o (a + m) l.key
  let keep := y.buf.filter fun l => p.linePending acc.oid acc.o (a + m) l.key
  let (s1, e) := State.sendLines acc.oid acc.o p.v.noalloc out y.s
  let rest := if b = p.total then 0 else bits / 2 ^ (p.width * (b - first))
  let p1 := { p with buf := keep, fail := none, asked := none, res := false, again := false }
  let s2 := s1.setPort q (if a + m < b then { p1 with sub := p.sub + m }
    else { p1 with fifo := p.fifo.drop 1, count := p.count + 1, sub := 0, part := BitVec.ofNat 8 rest })
  match e with
  | none => s2
  | some k => (s.portSilent q k.1.1 true).getD
      (s.unlessFull (s2.pendFetch (s.fetchTrap (whoOf (.fbind false 0 0 false true)) acc k.1) p.word k.2 false))

/-- The frames and dirty-log entries of the pages that the next request of an outbound port writes (R301, R303). -/
def State.portPages (p : Port) (acc : Acc) : List (Nat × Nat) :=
  let (a, m) := p.request acc
  ((p.placesOf acc.o a m).flatMap fun t => (pagesOf (t.2 / 8) (cdiv (t.2 % 8 + p.width) 8)).map fun g => (t.1, g)).eraseDups

/-- A port has elements that can move now: accepted pushes, or room for read-ahead. -/
def Port.stirs (p : Port) : Bool :=
  !p.dead && !p.halted && (if p.out then !p.fifo.isEmpty else p.bound && !p.ended && decide (p.fifo.length < 8))

/-- An activity of the partition that touches a coherent object waits for the lines that port q holds (R230, R237). -/
def State.linesHold (s : State) (q : Nat) : Bool :=
  (s.t.f.started.any s.cmdCoherent)
    || (List.range 4).any fun k => k != q && (s.port k).stirs && s.isCoherent (s.port k).oid

/-- The lines of a port that wait for later elements are sent: its binding has ended with every accepted element written, or the task ends and no
further push is on its way (R118, R276). -/
def State.portDue (s : State) (q : Nat) (p : Port) : Bool :=
  !p.buf.isEmpty && (if p.bound then !s.pushesOpen q && s.t.c.phase == .ending && s.t.c.xfer == .taskEnd else p.fifo.isEmpty)

/-- A word waits at which the task may come to park, with nothing accepted and unwritten (R278). -/
def State.mayComeToPark (s : State) : Bool :=
  match s.t.c.wait with
  | some w => !w.progress.atMason && match w.wake with | .other => false | .access .. => false | _ => true
  | none => false

/-- The lines of a port are awaited though later elements write to them as well: the control engine awaits every push to its object, or the task
may park, and no further push is on its way (R232, R238, R278); or another activity waits for them (R237). -/
def State.portAwaited (s : State) (q : Nat) (p : Port) : Bool :=
  p.lands && ((!s.pushesOpen q && (s.awaits p.oid || s.mayComeToPark)) || (s.isCoherent p.oid && s.linesHold q))

/-- STREAM_WRITE (R117): the next request of an outbound port's head is written, and completes once it is resolved (R55); or the lines of a port whose
head must wait, or that has accepted no further element, are sent when they are due, or put into their lines when others await them. -/
def execStreamWrite (q : BitVec 2) (s : State) : Res :=
  let p := s.port q.toNat
  let w := whoOf (.fbind false 0 0 false true)
  if !p.out ∨ p.dead ∨ p.halted ∨ p.mason.isSome ∨ s.transferWaits then .next s
  else if p.res then match p.fifo, s.portAcc p with
    | x :: _, some acc => .next (s.portWrite q.toNat p acc x).settleFunb
    | _, _ => .next s
  else if s.fetStalled then .next s
  else if p.fifo.isEmpty ∨ s.portMustWait q.toNat p then
    if s.portDue q.toNat p then .next (s.flushPort q.toNat).settleFunb
    else if s.portAwaited q.toNat p then .next (s.landPort q.toNat)
    else .next s
  else match p.fifo with
    | [] => .next s
    | x :: _ =>
      match p.fail, s.portChecked p w with
      | some i, _ => .next (s.portFault q.toNat p i)
      | none, .stall => .next s
      | none, .trap i => .next (s.portFault q.toNat p i)
      | none, .ok acc => match s.prepAll acc (State.portPages p acc) with
        | .noFrame sub page => .next (s.portFault q.toNat p (frameTrap w sub acc.h acc.oid.toNat page))
        | .logFull c =>
          .next (s.tellLogFull c acc.oid ((State.portPages p acc).headD (0, 0)).2 s.queueCode (p.pc.setWidth 32))
        | .stall => .next s
        | .ready s1 =>
          let m := p.request acc
          let now := p.pageKeys acc.oid acc.o m.1 1
          let next := if m.1 + m.2 < p.total then p.pageKeys acc.oid acc.o (m.1 + m.2) 1 else []
          .next (((s1.charge (m.2 * p.width)).walkPages now next).portWrite q.toNat p acc x).settleFunb

/-- The accepted elements of an outbound port are written, in at most n requests, and then its lines, as far as their places reply (R118, R276). -/
def State.drainPort (q : Nat) : Nat → State → State
  | 0, s => s.flushPort q
  | n + 1, s =>
    let p := s.port q
    let w := whoOf (.fbind false 0 0 false true)
    let acc := if p.res then (match s.portAcc p with | some a => .ok a | none => .stall) else s.portChecked p w
    match p.fifo, acc with
    | x :: _, .ok acc =>
      let go := fun (s : State) =>
        let s1 := s.portWrite q p acc x
        if (s1.port q).res then s1 else State.drainPort q n s1
      if p.res then go s
      else match s.prepAll acc (State.portPages p acc) with
        | .ready s1 => go s1
        | _ => s.flushPort q
    | _, _ => s.flushPort q

/-- Every outbound binding ends as under FUNB (R118, R276). -/
def State.drainPorts (s : State) : State :=
  (List.range 4).foldl (fun s q => if (s.port q).out && !(s.port q).dead then State.drainPort q (513 * (s.port q).fifo.length) s else s) s

/-- The image handle and length of a task's record (R267). -/
def Task.imageOf (t : Task) : BitVec 24 × Nat := (t.tr.extractLsb' 64 24, (t.tr.extractLsb' 32 32).toNat)

/-- The element of an image copy's faults: SOURCE 4, ACCESS 0x06 (R272). -/
def imageWho : Who := { eng := 4, op := 0x06 }

/-- A trap of the image copy becomes pending (R272). -/
def State.imageTrap (s : State) (i : TrapInfo) (halting : Bool) : State :=
  let entry := (s.t.tr.extractLsb' 160 32).toNat
  (s.modT fun t => { t with imageHalt := halting }).pendFetch i (csrFields [(32, entry), (0, 0x06)]) s.t.imagePos halting

/-- The image copy no longer waits. -/
def State.imageOn (s : State) : State := s.modC fun c => { c with wait := none }

/-- The image copy has moved k bytes, of which there are n in all (R272). -/
def State.imageDone (s : State) (k n : Nat) : State := s.modT fun t => { t with imagePos := t.imagePos + k, image := decide (t.imagePos + k < n) }

/-- The bytes of the next request of an image copy of n bytes: shard, offset in it, count, those of one page of one shard (R52, R101). -/
def imageRun (o : Obj) (p n : Nat) : Nat × Nat × Nat :=
  let (sh, j) := o.locate fun k => if k = 0 then p else 0
  (sh, j 0, min (n - p) (min (o.shardExt sh 0 - j 0) (65536 - j 0 % 65536)))

/-- One request of the image copy, resolved: the bytes of one page of one shard (R55, R88, R101, R272). It reads through the core's L1 (DEDUCED, log
entry 117). -/
def State.imageStep (s : State) (acc : Acc) (n : Nat) : Res :=
  let p := s.t.imagePos
  let (sh, off, k) := imageRun acc.o p n
  let s := match s.progress with | .asked _ => s | _ => s.charge (8 * k)
  s.onceRead .imageCopy acc true [(sh, off, k)] 0 0 <| match s.readObj s.core s.t.ctx acc.oid acc.o sh off k false true with
    | (s1, .ok bs) => .next ((s1.setSpad p bs).imageOn.imageDone k n)
    | (s1, .error e) => s.orNoReply (.access .imageCopy acc.h acc.oid [(sh, off, k)] 0 0) (e, sh)
        (.next (s.unlessFull (((s1.unpendRuns acc.oid [(sh, off, k)]).imageTrap (s.fetchTrap imageWho acc (e, sh)) false).imageOn.imageDone k n)))

/-- IMAGE_COPY (R272): once the task's subscriptions have raised their traps, the image passes R55 again with READ, and its bytes are copied
page by page. -/
def execImageCopy (s : State) : Res :=
  let (h, n) := s.t.imageOf
  if s.t.st ≠ .running ∨ !s.t.image ∨ s.t.imageHalt ∨ !s.t.starts.isEmpty ∨ s.t.x.hmode ∨ s.transferWaits then .next s
  else match s.resolved with
  | some (acc, _) => s.imageStep acc n
  | none => if s.fetStalled then .next s else match s.progress with
    | .sent _ => .next s
    | .failed i => .next (s.imageOn.imageTrap i true)
    | _ =>
      let c := (s.dataChecked s.t.ctx (h.setWidth 64) rREAD imageWho).bind fun acc =>
        match boundsChecked acc (fun _ => 0) (fun j => if j = 0 then n else 1) imageWho [0, 1, 2, 3] with
        | some i => .trap i
        | none => if acc.o.res = 3 then .trap (missingTrap imageWho acc.h acc.oid.toNat (s.t.imagePos / 65536)) else .ok acc
      match c with
      | .stall => .next s
      | .trap i => if i.cause = .missingObject then s.askMason i else .next (s.imageOn.imageTrap i true)
      | .ok acc => if s.shardStalls acc.o (imageRun acc.o s.t.imagePos n).1 rREAD then .next s else s.imageStep acc n

/-- The bits of line writes that wait at the commands and ports of the task under execution on an object are put into their lines. -/
def State.sendTask (oid : BitVec 48) (s : State) : State :=
  let s := s.t.f.open_.foldl (fun (s : State) a =>
    if a.oid = oid ∧ (a.buf.any fun b => b.due != 0) then
      let r := s.landCmd a
      s.unlessFull (r.1.putCmd r.2)
    else s) s
  (List.range 4).foldl (fun (s : State) q => if (s.port q).oid = oid ∧ (s.port q).lands then s.landPort q else s) s

/-- Every task does so: they are bits of requests that were resolved before the object froze (R56, R66). -/
def State.sendWaiting (s : State) (oid : BitVec 48) : State :=
  (s.tasks.map (·.id)).foldl (fun s id => s.asTask id (State.sendTask oid)) s

/-- Bits of a line write to an object still wait at some task. -/
def State.linesWait (s : State) (oid : BitVec 48) : Bool :=
  s.tasks.any fun t => (t.f.open_.any fun a => a.oid == oid && a.buf.any fun b => b.due != 0)
    || t.f.ports.toList.any fun p => p.oid == oid && p.lands

/-- MOVE_COPY (R66): once every request resolved before the freeze has completed and every bit that waits for its line write stands in its line. Tasks that
run from a code object have no request open on it (DESIGN CHOICE, log entry 113). -/
def execMoveCopy (oid : BitVec 48) (s : State) : Res :=
  match s.moves.find? fun m => m.oid == oid && !m.copied with
  | some m =>
    if s.objBusy oid then .next s
    else
      let s := s.sendWaiting oid
      if s.linesWait oid then .next s else .next (s.copyMove m).refire
  | none => .next s

/-- MOVE_COMMIT (R66). -/
def execMoveCommit (oid : BitVec 48) (s : State) : Res :=
  match s.moves.find? fun m => m.oid == oid && m.copied with
  | some m => .next (s.commitMove m).refire
  | none => .next s

/-- MOVE_ABANDON (R66): the copy fails. -/
def execMoveAbandon (oid : BitVec 48) (s : State) : Res :=
  match s.moves.find? fun m => m.oid == oid && !m.copied with
  | some m => .next (s.abandonMove m).refire
  | none => .next s

end Sys2Proof.Machine
end

