-- ==== Sys2Proof/Machine/Handles.lean ====
section
/-!
DEFINITION. The handle words (R59 to R62, R353): `HQRY`, `HDUP`, `HDROP`, `OMCALL` and the arrival of Mason's replies.
-/

namespace Sys2Proof.Machine

/-- Results of HQRY (R59). -/
def hqryVal (a : Acc) (sel j : Nat) : Word :=
  let o := a.o
  match sel with
  | 0 => csrFields [(0, o.rank.toNat), (3, o.coherent.toNat), (4, o.sealed.toNat), (5, o.hostsh.toNat), (6, o.fmt.toNat),
      (10, o.mxk.toNat), (12, o.layout.toNat), (16, a.e.rights.toNat), (24, (a.e.rights &&& o.rightsMask).toNat),
      (32, o.res.toNat), (34, o.moving.toNat)]
  | 1 => BitVec.ofNat 64 (o.extent j)
  | 2 => BitVec.ofNat 64 (a.e.lo j)
  | 3 => BitVec.ofNat 64 (a.e.hiEff o j)
  | 4 => o.version.setWidth 64
  | 5 => a.oid.setWidth 64
  | 6 => csrFields [(0, o.shcnt.toNat + 1), (12, o.split.toNat),
      (32, if o.shcnt = 0 then o.extent o.split.toNat else o.shsize.toNat)]
  | 7 => o.keyslot.setWidth 64
  | _ => BitVec.ofNat 64 o.bytes

/-- HQRY (R59). It does not stall on a move. The handle's checks of R55 come before that of b (DESIGN CHOICE, log entry 106). -/
def execHqry (S : Bool) (d a b : BitVec 5) (f : BitVec 6) (s : State) : Res :=
  let w := whoOf (.hqry S d a b f)
  match s.poisoned w [s.pS a, s.pS b] with
  | some i => .next (s.trapWord i)
  | none => match s.classChecked s.t.ctx (s.sv a) rQUERY w false with
    | .stall => .next (s.block .other .plain)
    | .trap i => .next (s.trapWord i)
    | .ok acc =>
      let j := (s.sv b).toNat
      if 1 ≤ f.toNat ∧ f.toNat ≤ 3 ∧ 3 < j then .next (s.trapWord (boundsTrap w 1 acc.h acc.oid.toNat 3 j j))
      else .next ((s.wrS d (hqryVal acc f.toNat j)).advance S)

/-- The smallest granule shift of a range (R60). -/
def granule (lo hi : Nat) : Option Nat :=
  (List.range 17).find? fun g =>
    lo % 2 ^ g == 0 && (hi + 1) % 2 ^ g == 0 && lo / 2 ^ g ≤ 65535 && (hi + 1 - lo) / 2 ^ g ≤ 65536

/-- The box of a narrowing record, from dimension j on, or the first trap (R60). -/
def narrowBox (w : Who) (a : Acc) (bs : List Byte) : List Nat → Except TrapInfo (List Bnd)
  | [] => .ok []
  | j :: js =>
    let lo := recBits bs (64 + 64 * j) 32
    let hi := recBits bs (96 + 64 * j) 32
    let t := fun sub => boundsTrap w sub a.h a.oid.toNat j lo hi
    if hi < lo ∨ lo < a.e.lo j ∨ a.e.hiEff a.o j < hi then .error (t 5)
    else match granule lo hi with
      | none => .error (t 4)
      | some g => match narrowBox w a bs js with
        | .error e => .error e
        | .ok r => .ok ({ gs := BitVec.ofNat 5 g, lo := BitVec.ofNat 16 (lo / 2 ^ g),
                          cnt := BitVec.ofNat 16 ((hi + 1 - lo) / 2 ^ g - 1) } :: r)

/-- A new entry derived from entry n (R60). -/
def State.derive (s : State) (S : Bool) (w : Who) (d : BitVec 5) (n : Nat) (e : HEntry) (m : BitVec 6) (box : Vector Bnd 4) : Res :=
  match s.freeHandle s.t.ctx with
  | none => .next (s.trapWord (mkTrap .quota w 1 0 0 0))
  | some h =>
    let x : HEntry := { st := .live, oid := e.oid, rights := e.rights &&& m, box := box, pctx := BitVec.ofNat 12 s.t.ctx,
                        phandle := BitVec.ofNat 24 n }
    .next (((s.setH s.t.ctx h x).wrS d (BitVec.ofNat 64 h)).advance S)

/-- The record form of HDUP (R60). -/
def State.hdupRecord (s : State) (S : Bool) (w : Who) (d : BitVec 5) (n : Nat) (e : HEntry) (b : Word) : Res :=
  match s.recordAt w b 40 3 with
  | some i => .next (s.trapWord i)
  | none =>
    let bs := s.spad b.toNat 40
    if recBits bs 6 58 ≠ 0 then .next (s.trapWord (mkTrap .bounds w 6 n e.oid.toNat 0))
    else match s.objChecked n e w false with
      | .stall => .next (s.block .other .plain)
      | .trap i => .next (s.trapWord i)
      | .ok acc => match narrowBox w acc bs [0, 1, 2, 3] with
        | .error i => .next (s.trapWord i)
        | .ok l => s.derive S w d n e (BitVec.ofNat 6 (recBits bs 0 6))
            (Vector.ofFn fun j => l[j.val]?.getD { gs := 0, lo := 0, cnt := 0 })

/-- HDUP (R60). -/
def execHdup (S : Bool) (d a b : BitVec 5) (m : Bool) (s : State) : Res :=
  let w := whoOf (.hdup S d a b m)
  match s.poisoned w [s.pS a, s.pS b] with
  | some i => .next (s.trapWord i)
  | none => match s.entryChecked s.t.ctx (s.sv a) w with
    | .stall => .next (s.block .other .plain)
    | .trap i => .next (s.trapWord i)
    | .ok (n, e) => if m then s.derive S w d n e ((s.sv b).setWidth 6) e.box else s.hdupRecord S w d n e (s.sv b)

/-- An earlier access of the task that names handle n has requests left to resolve (R353): a queued, released or issuing command, a binding
until its own checks, or the image copy. The walk of a binding is awaited for nothing. -/
def State.handleOpen (s : State) (n : Nat) : Bool :=
  let f := s.t.f
  let named := fun (a : FCmd) => a.v.handle.toNat == n || ((fetViews a.e.w).length == 2 && a.v2.handle.toNat == n)
  ((queuedViews f).any fun p => p.2.any fun h => h.toNat == n)
    || (f.live.any fun a => !a.ended && named a)
    || (s.t.image && trField s.t.tr 64 24 == n)

/-- HDROP once its wait is over: derived entries are revoked, the entry becomes FREE, and its host windows close (R61, R77). -/
def State.dropHandle (s : State) (n : Nat) : State :=
  let s := (s.sweep s.t.ctx n true).1
  let s := (s.setH s.t.ctx n HEntry.free).loseHandles [hkey s.t.ctx n]
  { s with wins := s.wins.filter fun w => !(w.ctx == s.t.ctx && w.handle.toNat == n) }.settle

/-- HDROP of a handle that has been checked: its wait, and then the drop (R353). -/
def State.dropWait (s : State) (S : Bool) (n : Nat) : Res :=
  if s.handleOpen n then .next (s.block .other (.begun (BitVec.ofNat 64 n))) else .next ((s.dropHandle n).advance S)

/-- HDROP (R61). -/
def execHdrop (S : Bool) (a : BitVec 5) (s : State) : Res :=
  let w := whoOf (.hdrop S a)
  let n := (s.sv a).toNat % 2 ^ 24
  match s.progress with
  | .begun v => s.dropWait S v.toNat
  | _ => match s.poisoned w [s.pS a] with
    | some i => .next (s.trapWord i)
    | none => match s.entryChecked s.t.ctx (s.sv a) w with
      | .trap i => if i.cause = .handleRevoked then s.dropWait S n else .next (s.trapWord i)
      | _ => s.dropWait S n

/-- Bytes and alignment of the record that a service takes from scratchpad (R62). -/
def serviceRecord (n : Nat) : Option (Nat × Nat) :=
  match n with
  | 0 => some (64, 64)
  | 5 => some (32, 32)
  | _ => none

/-- OMCALL's request with its record goes to Mason through the intake weir (R62, R291). -/
def State.callMason (s : State) (n : BitVec 6) (a b : Word) (bs : List Byte) : Res :=
  .next ((s.tickFresh.toMason (.omcall s.reqNo s.t.ctx s.t.part n a b bs)).block .reply (.sent s.reqNo))

/-- OMCALL (R62). -/
def execOmcall (S : Bool) (d a b : BitVec 5) (n : BitVec 6) (s : State) : Res :=
  match s.progress with
  | .answered v => .next ((s.wrS d v).advance S)
  | .sent _ => .next s
  | _ => match s.poisoned (whoOf (.omcall S d a b n)) [s.pS a, s.pS b] with
    | some i => .next (s.trapWord i)
    | none => match serviceRecord n.toNat with
      | none => s.callMason n (s.sv a) (s.sv b) []
      | some (len, al) =>
        if (s.sv a).toNat % al ≠ 0 ∨ s.t.window < (s.sv a).toNat + len then .next ((s.wrS d stBAD).advance S)
        else s.callMason n (s.sv a) (s.sv b) (s.spad (s.sv a).toNat len)

/-- A reply reaches the word that waits for it (R62). -/
def State.deliver (s : State) (no : Nat) (v : Word) : State := (s.mapTasks fun t => t.answer no (.answered v)).settle

/-- OMCALL_REPLY (R62): the oldest reply arrives; with none, Mason answers an unknown service −1. -/
def execOmcallReply (s : State) : Res :=
  match s.replies with
  | (no, v) :: r => .next ({ s with replies := r }.deliver no v)
  | [] => s.serveReq (fun s r => match r with
    | .omcall no _ _ n _ _ _ => if 8 ≤ n.toNat then some (0, .begun (s.deliver no stUNKNOWN)) else none
    | _ => none) [] s.mason

end Sys2Proof.Machine
end

