-- ==== Sys2Proof/Machine/Contexts.lean ====
section
/-!
DEFINITION. The context words (R315 to R322, R325, R326): creation, grants, changes, running, stopping, deletion, revocation, dirty logs and
counters; the end of a task that is not placed; PREQ reasons (R305).
-/

namespace Sys2Proof.Machine

/-- PRIVILEGE, CONTEXT (R315). -/
def ctxTrap (w : Who) (a : Word) : TrapInfo := privTrap w 1 (a.toNat % 4096)

/-- A child of the caller's context (R315). -/
def State.isChild (s : State) (a : Word) : Bool := (s.children s.t.ctx).contains a.toNat

/-- A word that returns a status or a value. -/
def State.give (s : State) (S : Bool) (d : BitVec 5) (v : Word) : Res := .next ((s.wrS d v).advance S)

/-- A context word with its poison checks and its child operand (R315). -/
def State.ctxWord (s : State) (w : Who) (a : BitVec 5) (bs : List (BitVec 5)) (ok : Word → Bool) (k : Word → Res) : Res :=
  match s.poisoned w ((a :: bs).map s.pS) with
  | some i => .next (s.trapWord i)
  | none => if ok (s.sv a) then k (s.sv a) else .next (s.trapWord (ctxTrap w (s.sv a)))

/-- A context's state; a number without a context is FREE. -/
def State.ctxIs (s : State) (c : Nat) (st : CtxSt) : Bool := match s.ctx c with | some x => x.st == st | none => false

/-- Fields of a record that are to be zero (R312). -/
def crReserved (r : BitVec 2048) : Bool :=
  let f := fun lo w => (r.extractLsb' lo w).toNat
  f 2016 32 != 0 || f 615 1 != 0 || f 576 5 != 0 || f 513 38 != 0 || f 0 464 != 0
    || (List.range 7).any (fun n => f (1280 + 64 * n + 56) 7 != 0) || (List.range 8).any fun n => f (768 + 64 * n + 32) 16 != 0

/-- The partitions that a record names (R312). -/
def crParts (r : BitVec 2048) : List Nat := (List.range 288).filter fun p => r.getLsbD (1728 + p)

/-- A word within a mask. -/
def subMask (a b : Nat) : Bool := a &&& b == a

/-- The status that CTXNEW returns for a record, or none when the context may be created (R316). -/
def State.newStatus (s : State) (p : Nat) (r : BitVec 2048) : Option Word :=
  let f := fun lo w => (r.extractLsb' lo w).toNat
  let depth := match s.ctx p with | some x => x.depth | none => 0
  let running := s.tasks.any fun t => t.st == .running && (crParts r).contains t.part
  let rate := fun n => f (768 + 64 * n) 32
  if depth = 7 ∨ (lowestFree (s.ctxs.map (·.1)) 1 4095).isNone then some stSPACE
  else if !(crParts r).all fun q => s.ownPart p q then some stBAD
  else if running then some stBUSY
  else if !subMask (f 672 32) (s.ctxField p 672 32) ∨ f 595 13 < s.ctxField p 595 13
      ∨ s.ctxField p 595 13 + s.ctxField p 581 14 < f 595 13 + f 581 14 ∨ f 616 24 < 2
      ∨ (List.range 8).any fun n => decide (0 < rate n) && f (768 + 64 * n + 48) 16 == 0 then some stBAD
  else if s.own p 608 7 < f 608 7 ∨ s.own p 564 12 < f 564 12 ∨ s.own p 551 13 < f 551 13
      ∨ (List.range 8).any (fun n => decide (s.ownRate p n < rate n)) ∨ s.freeFrames p < f 640 32
      ∨ f 640 32 < tableFrames (f 616 24) then some stSPACE
  else none

/-- A new child of context p (R316). -/
def State.newCtx (s : State) (p : Nat) (r : BitVec 2048) : State × Nat :=
  let n := (lowestFree (s.ctxs.map (·.1)) 1 4095).getD 0
  let depth := match s.ctx p with | some x => x.depth + 1 | none => 0
  ({ s with ctxs := alSet s.ctxs n { cr := r, parent := p, depth := depth, st := .stopped, ring := 0, log := none, counters := [] } }, n)

/-- CTXNEW (R316). -/
def execCtxnew (S : Bool) (d a : BitVec 5) (s : State) : Res :=
  let w := whoOf (.ctxnew S d a)
  match s.poisoned w [s.pS a] with
  | some i => .next (s.trapWord i)
  | none => match s.recordAt w (s.sv a) 256 8 with
    | some i => .next (s.trapWord i)
    | none =>
      let r := bitsOfBytes 2048 (s.spad (s.sv a).toNat 256)
      if crReserved r then .next (s.trapWord (boundsPlain w 6))
      else match s.newStatus s.t.ctx r with
        | some v => s.give S d v
        | none =>
          let (s1, n) := s.newCtx s.t.ctx r
          s1.give S d (BitVec.ofNat 64 n)

/-- CTXGRANT (R317). -/
def execCtxgrant (S : Bool) (d a b : BitVec 5) (m : BitVec 6) (s : State) : Res :=
  let w := whoOf (.ctxgrant S d a b m)
  s.ctxWord w a [b] s.isChild fun c => match s.classChecked s.t.ctx (s.sv b) rGRANT w true with
    | .stall => .next (s.block .other .plain)
    | .trap i => .next (s.trapWord i)
    | .ok acc =>
      if s.ctxIs c.toNat .deleting then s.give S d stBUSY
      else match s.freeHandle c.toNat with
        | none => s.give S d stSPACE
        | some h =>
          let x : HEntry := { st := .live, oid := acc.oid, rights := acc.e.rights &&& m, box := acc.e.box, pctx := BitVec.ofNat 12 s.t.ctx,
                              phandle := BitVec.ofNat 24 acc.h }
          (s.setH c.toNat h x).give S d (BitVec.ofNat 64 h)

/-- A field of a context record replaced. -/
def crSet (r : BitVec 2048) (lo w v : Nat) : BitVec 2048 :=
  let m := BitVec.ofNat 2048 ((2 ^ w - 1) * 2 ^ lo)
  (r &&& ~~~m) ||| BitVec.ofNat 2048 (v % 2 ^ w * 2 ^ lo)

/-- A field of a context's record replaced. -/
def State.setCr (s : State) (c lo w v : Nat) : State := s.modCtx c fun x => { x with cr := crSet x.cr lo w v }

/-- Every page of a ring object gets a frame from a die's pool; none when some page cannot (R324). -/
def State.ringFrames (s : State) (die : Nat) (oid : BitVec 48) (o : Obj) : Option State :=
  (List.range (cdiv (o.shardBytes 0) 65536)).foldl (fun (acc : Option State) p => match acc with
    | none => none
    | some s => match s.ensureFrame die oid o 0 p with
      | .ok s' => some s'
      | .error _ => none) (some s)

/-- A word is to set an object as a ring while it moves: the word stalls until it thaws (R56; DEDUCED, log entry 114). -/
def State.ringFrozen (s : State) (c : Nat) (h : Word) (unit least : Nat) : Bool :=
  h != 0 && decide (h.toNat < 2 ^ 24) && match s.ringObj c h.toNat unit least with
    | some (_, o) => o.moving
    | none => false

/-- Selector 0x19: the event ring of a context (R318, R323, R324). -/
def State.setRing (s : State) (c : Nat) (b : Word) : State × Word :=
  if b = 0 then (s.modCtx c fun x => { x with ring := 0 }, 0)
  else if 2 ^ 24 ≤ b.toNat then (s, stBAD)
  else match s.ringObj c b.toNat 16 32 with
    | none => (s.noteRing c b.toNat 16 32, stBAD)
    | some (oid, o) => match s.ringFrames s.die oid o with
      | none => (s, stSPACE)
      | some s' => (s'.modCtx c fun x => { x with ring := b.setWidth 24 }, 0)

/-- The status of CTXSET for a value of a child's record, 0 when it is set (R318). No word with selector 7 decodes (R17). DEDUCED, log entry 58. -/
def State.setStatus (s : State) (c : Nat) (sel : Nat) (b : Word) : Word :=
  let p := s.t.ctx
  let v := b.toNat
  if sel < 7 then if b.extractLsb' 56 7 ≠ 0 then stBAD else 0
  else if sel = 7 then stBAD
  else if sel < 16 then
    let n := sel - 8
    let rate := v % 2 ^ 32
    if v / 2 ^ 32 % 2 ^ 16 ≠ 0 ∨ rate < s.childSum c (768 + 64 * n) 32 ∨ (0 < rate ∧ v / 2 ^ 48 = 0) then stBAD
    else if s.ctxField c (768 + 64 * n) 32 + s.ownRate p n < rate then stSPACE else 0
  else if sel = 0x10 ∨ sel = 0x11 then if 2 ^ 32 ≤ v then stBAD else 0
  else if sel < 0x16 then if 2 ^ 12 ≤ v then stBAD else 0
  else if sel = 0x16 then
    if 2 ^ 32 ≤ v ∨ v < s.framesHeld c + s.childSum c 640 32 then stBAD
    else if s.ctxField c 640 32 + s.freeFrames p < v then stSPACE else 0
  else if sel = 0x17 then
    if 124 < v ∨ v < s.childSum c 608 7 then stBAD else if s.ctxField c 608 7 + s.own p 608 7 < v then stSPACE else 0
  else if 2 ^ 32 ≤ v ∨ !subMask v (s.ctxField p 672 32) ∨ !(s.children c).all fun g => subMask (s.ctxField g 672 32) v then stBAD
  else 0

/-- The place and width of the field that a selector sets (R312, R318). -/
def selField (sel : Nat) : Nat × Nat :=
  if sel < 8 then (1280 + 64 * sel, 64)
  else if sel < 16 then (768 + 64 * (sel - 8), 64)
  else match sel with
    | 0x10 => (704, 32) | 0x11 => (736, 32)
    | 0x12 => (464, 12) | 0x13 => (476, 12) | 0x14 => (488, 12) | 0x15 => (500, 12)
    | 0x16 => (640, 32) | 0x17 => (608, 7) | _ => (672, 32)

/-- CTXSET (R318). -/
def execCtxset (S : Bool) (d a b : BitVec 5) (f : BitVec 6) (s : State) : Res :=
  let w := whoOf (.ctxset S d a b f)
  let sel := f.toNat
  let self := fun (a : Word) => a == 0 && (decide (sel < 7) || sel == 0x19)
  s.ctxWord w a [b] (fun a => self a || s.isChild a) fun a =>
    let c := if a = 0 then s.t.ctx else a.toNat
    if sel = 0x19 then
      if s.ringFrozen c (s.sv b) 16 32 then .next (s.block .other .plain) else
      let (s1, v) := s.setRing c (s.sv b)
      s1.give S d v
    else
      let v := s.setStatus c sel (s.sv b)
      if v = 0 then (s.setCr c (selField sel).1 (selField sel).2 (s.sv b).toNat).give S d 0 else s.give S d v

/-- CTXRUN (R314, R319). -/
def execCtxrun (S : Bool) (d a : BitVec 5) (s : State) : Res :=
  s.ctxWord (whoOf (.ctxrun S d a)) a [] s.isChild fun c =>
    if s.ctxIs c.toNat .deleting then s.give S d stBUSY
    else (s.modCtx c.toNat fun x => { x with st := .running }).give S d 0

/-- A resolved access of a saved task's word completes in the background: its value is kept for the destination, or its trap for the word, or its
bytes come into the window (R55, R242, R272, R307). One whose place still sends no reply goes on (R73), and one whose trap finds no room (R124). -/
def State.finishWait (s : State) (x : Wait) : State × Option Wait :=
  match x.wake, x.progress.isOpen with
  | .access i h oid rs v v2, true => match s.obj oid with
    | none => (s, some x)
    | some o =>
      let a := resolvedAcc h oid o
      let fails := fun (e : Nat × Nat) (k : State × Option Wait) => match s.unanswered x.progress e.1 with
        | some t => (s, some { x with progress := .asked t })
        | none => k
      let kept := fun (s1 : State) (e : Nat × Nat) =>
        (s1.unpendRuns oid rs, some { x with progress := .failed (s1.fetchTrap (whoOf i) a e) })
      if s.storesHold a then (s, some x)
      else match i with
      | .imageCopy => match s.readRuns a true rs with
        | (s1, .ok bs) => ((s1.setSpad s.t.imagePos bs).imageDone (runBytes rs) s.t.imageOf.2, none)
        | (s1, .error e) =>
          let s2 := ((s1.unpendRuns oid rs).imageTrap (s.fetchTrap imageWho a e) false).imageDone (runBytes rs) s.t.imageOf.2
          fails e (if 9 < s2.fetTraps then (s, some x) else (s2, none))
      | .xld .. => match s.readRuns a true rs with
        | (s1, .ok bs) => (s1, some { x with progress := .answered (BitVec.ofNat 64 (leNat bs)) })
        | (s1, .error e) => fails e (kept s1 e)
      | _ => match s.rmw i a rs v v2 with
        | (s1, .ok old) => (s1, some { x with progress := .answered (BitVec.ofNat 64 old) })
        | (s1, .error e) => fails e (kept s1 e)
  | _, _ => (s, some x)

/-- The control engine's accesses of a saved task complete: its writes in the background, the access of its word, that of a word which its handler
has interrupted (R307, R309). -/
def State.finishAccesses (s : State) : State :=
  let s := State.runStores s.t.c.stores.length s
  let s := match s.t.c.wait with
    | some x => let r := s.finishWait x; r.1.modC fun c => { c with wait := r.2 }
    | none => s
  match s.t.x.kept.wait with
  | some x => let r := s.finishWait x; r.1.modX fun y => { y with kept := { y.kept with wait := r.2 } }
  | none => s

/-- The resolved access of a port's next element completes (R55, R309). -/
def State.finishPort (s : State) (q : Nat) : State :=
  let p := s.port q
  if !p.res then s
  else match s.portAcc p, p.fifo with
    | some acc, x :: _ => if p.out then (s.portWrite q p acc x).settleFunb else s.portFetch q p acc
    | some acc, [] => if p.out then s else s.portFetch q p acc
    | none, _ => s

/-- Every request that the task under execution has issued completes (R309, R321), but for one whose FETCH-ERROR finds no room among the traps
that wait (R124), which stays issued, and one whose place has not replied (R73). No two of them conflict: none was issued before the activities
that it conflicts with were over (R106). -/
def State.drainReqs (s : State) : State :=
  let s := s.finishAccesses
  let s := s.t.f.open_.foldl (fun s a => (List.range a.outst.length).foldl (fun (s : State) _ => match s.t.f.cmd a.seq with
    | some b => s.complete b none
    | none => s) s) s
  let s := (s.t.f.open_.filter FCmd.awaitsLines).foldl State.flushAgain s
  (List.range 4).foldl State.finishPort s

/-- Writes of a task that ends before their place has replied (R74, R276): each byte of them is written or not. -/
def State.loseStores (s : State) : State :=
  (s.t.c.stores.foldl (fun (s : State) p => match s.obj p.oid with
    | some o => (s.writeRuns (resolvedAcc p.h p.oid o) p.runs p.bytes).1
    | none => s) s).modC fun c => { c with stores := [] }

/-- A task that is not placed ends (R276, R319, R321): its issued requests complete, the elements that its outbound ports have accepted are
written, and what it holds is released. DEDUCED, log entry 53. -/
def State.killTask (s : State) (id : BitVec 64) : State :=
  let s := s.asTask id fun s => s.drainReqs.drainPorts.loseStores
  let s := match s.taskById id with
    | some t => { s with slots := s.slots.map fun (p : Nat × Slot) => if p.2.ownedBy t then (p.1, Slot.reset) else p }
    | none => s
  s.finishTask id

/-- A task parked by a reflected trap whose event reached context c, in the subtree of child a (R319). -/
def State.reflectedTo (s : State) (c a : Nat) (b : Word) : Bool :=
  match s.taskById b with
  | none => false
  | some t => t.st == .reflected && t.told == c && (s.subtree a).contains t.ctx
    && !(s.events.any fun e => e.ctx == c && e.ev.extractLsb' 64 64 == b)

/-- A word of a child and a task that a reflected trap has parked (R319). -/
def State.ctxTask (s : State) (S : Bool) (w : Who) (d a b : BitVec 5) (k : State) : Res :=
  s.ctxWord w a [b] s.isChild fun c =>
    if s.ctxIs c.toNat .deleting then s.give S d stBUSY
    else if s.reflectedTo s.t.ctx c.toNat (s.sv b) then k.give S d 0
    else s.give S d stBAD

/-- CTXRUN.resume (R319). -/
def execCtxrunResume (S : Bool) (d a b : BitVec 5) (s : State) : Res :=
  s.ctxTask S (whoOf (.ctxrunResume S d a b)) d a b
    (s.modTask (s.sv b) fun t => { t with st := .ready, readyAt := s.clk })
/-- CTXRUN.kill (R319). -/
def execCtxrunKill (S : Bool) (d a b : BitVec 5) (s : State) : Res :=
  s.ctxTask S (whoOf (.ctxrunKill S d a b)) d a b (s.killTask (s.sv b))

/-- A PREQ reason set in a task; with the first, REMAIN becomes LIMIT (R305). -/
def Trp.reason (x : Trp) (f : Trp → Trp) : Trp :=
  let first := !(x.slice || x.stop || x.system)
  f { x with remain := if first then x.limit else x.remain }

/-- A PREQ reason set in every RUNNING task that p selects (R305). -/
def State.askLeave (s : State) (p : Task → Bool) (f : Trp → Trp) : State :=
  s.mapTasks fun t => if t.st = .running ∧ p t then { t with x := t.x.reason f } else t

/-- A task of a subtree runs. -/
def State.subtreeRuns (s : State) (a : Nat) : Bool := s.tasks.any fun t => t.st == .running && (s.subtree a).contains t.ctx

/-- Every RUNNING task of a subtree gets PREQ.STOP (R320). -/
def State.stopTasks (s : State) (a : Nat) : State := s.askLeave (fun t => (s.subtree a).contains t.ctx) fun x => { x with stop := true }

/-- CTXSTOP's end (R320). -/
def State.stopWait (s : State) (S : Bool) (d : BitVec 5) (a : Nat) : Res :=
  if s.subtreeRuns a then .next (s.block .other (.begun (BitVec.ofNat 64 a))) else s.give S d 0

/-- CTXSTOP (R320). -/
def execCtxstop (S : Bool) (d a : BitVec 5) (s : State) : Res :=
  match s.progress with
  | .begun v => s.stopWait S d v.toNat
  | _ => s.ctxWord (whoOf (.ctxstop S d a)) a [] s.isChild fun c =>
    if s.ctxIs c.toNat .deleting then s.give S d stBUSY
    else ((s.modCtx c.toNat fun x => { x with st := .stopped }).stopTasks c.toNat).stopWait S d c.toNat

/-- The context and partition of a request to Mason. A trigger's comes from no partition. -/
def Req.source (r : Req) : Nat × Nat :=
  match r with
  | .trigger t => (t.ctx, 288)
  | .omcall _ c p _ _ _ _ => (c, p)
  | .fault _ c p _ => (c, p)
  | .event c _ ev => (c, (ev.extractLsb' 19 9).toNat)

/-- A request to Mason that goes with its contexts (R321, R328); an event record stays. -/
def Req.goes (cs : List Nat) (r : Req) : Bool :=
  match r with
  | .trigger t => cs.contains t.ctx
  | .omcall _ c _ _ _ _ _ => cs.contains c
  | .fault _ c _ _ => cs.contains c
  | .event .. => false

/-- Steps 2 to 6 of a deletion (R321), the counters added into context p. Tags of the L2 keep the numbers of deleted contexts (DESIGN CHOICE, log
entry 119). -/
def State.deleteTree (s : State) (p : Nat) (cs : List Nat) : State :=
  let s := ((s.tasks.filter fun t => cs.contains t.ctx).map (·.id)).foldl State.killTask s
  let s := ((s.objs.filter fun x => cs.contains x.2.ownerCtx.toNat && x.2.ownerEp == s.boot.ep).map fun x => BitVec.ofNat 48 x.1).foldl
    State.removeObj s
  let s := (cs.flatMap fun c => match s.ctx c with | some x => x.counters | none => []).foldl (fun s k => s.count p k.1 k.2) s
  { s with
    trigs := s.trigs.filter (fun t => !cs.contains t.ctx), fired := s.fired.filter (fun t => !cs.contains t.ctx),
    wins := s.wins.filter fun w => !cs.contains w.ctx, handles := s.handles.filter fun h => !cs.contains (h.1 / 2 ^ 24), events := s.events.filter fun e => !cs.contains e.ctx,
    intake := s.intake.filter fun p => !p.2.goes cs, mason := s.mason.filter fun r => !r.goes cs, transfers := s.transfers.filter fun x => !cs.contains x.ctx,
    weirs := s.weirs.map fun w => (w.1, { w.2 with buckets := w.2.buckets.filter fun b => !cs.contains b.ctx }),
    ctxs := s.ctxs.filter fun x => !cs.contains x.1 }

/-- An event of a subtree still waits at the intake weir (R291, R323). DEDUCED, log entry 81. -/
def State.subtreeTells (s : State) (a : Nat) : Bool :=
  s.intake.any fun r => match r.2 with | .event c _ _ => (s.subtree a).contains c | _ => false

/-- An object of a subtree is frozen by a move; its deletion stalls (R56, R62, R321). -/
def State.subtreeMoves (s : State) (a : Nat) : Bool :=
  s.objs.any fun p => p.2.moving && p.2.ownerEp == s.boot.ep && (s.subtree a).contains p.2.ownerCtx.toNat

/-- CTXDEL once its context is DELETING (R321): while a task of the subtree runs, an event of it still waits for Mason or an object of it
moves, it waits. -/
def State.delWait (s : State) (S : Bool) (d : BitVec 5) (a : Nat) : Res :=
  if s.subtreeRuns a || s.subtreeTells a || s.subtreeMoves a then .next (s.block .other (.begun (BitVec.ofNat 64 a)))
  else (s.deleteTree s.t.ctx (s.subtree a)).give S d 0

/-- CTXDEL (R314, R321). -/
def execCtxdel (S : Bool) (d a : BitVec 5) (s : State) : Res :=
  match s.progress with
  | .begun v => s.delWait S d v.toNat
  | _ => s.ctxWord (whoOf (.ctxdel S d a)) a [] s.isChild fun c =>
    if (s.subtree c.toNat).any fun n => s.ctxIs n .deleting then s.give S d stBUSY
    else
      let s1 := (s.subtree c.toNat).foldl (fun s c => s.modCtx c fun x => { x with st := .deleting }) s
      (s1.stopTasks c.toNat).delWait S d c.toNat

/-- CTXREVOKE once its wait is over (R322, R353). -/
def State.revokeWait (s : State) (S : Bool) (d : BitVec 5) (n : Nat) (kids : Bool) : Res :=
  if s.handleOpen n then .next (s.block .other (.begun (BitVec.ofNat 64 n)))
  else
    let (s1, k) := s.sweep s.t.ctx n kids
    s1.settle.give S d (BitVec.ofNat 64 k)

/-- CTXREVOKE (R322). -/
def execCtxrevoke (S : Bool) (d a : BitVec 5) (k : Bool) (s : State) : Res :=
  let w := whoOf (.ctxrevoke S d a k)
  match s.progress with
  | .begun v => s.revokeWait S d v.toNat k
  | _ => match s.poisoned w [s.pS a] with
    | some i => .next (s.trapWord i)
    | none => match s.entryChecked s.t.ctx (s.sv a) w with
      | .trap i => .next (s.trapWord i)
      | .stall => .next (s.block .other .plain)
      | .ok (n, _) => s.revokeWait S d n k

/-- LOGARM (R325). DEDUCED, log entry 82. -/
def execLogarm (S : Bool) (d a b : BitVec 5) (s : State) : Res :=
  s.ctxWord (whoOf (.logarm S d a b)) a [b] s.isChild fun c =>
    let h := (s.sv b).toNat
    if 2 ^ 24 ≤ h then s.give S d stBAD
    else if s.ringFrozen s.t.ctx (s.sv b) 4 20 then .next (s.block .other .plain)
    else match s.ringObj s.t.ctx h 4 20 with
      | none => (s.noteRing s.t.ctx h 4 20).give S d stBAD
      | some (oid, o) => match s.ringFrames s.die oid o with
        | none => s.give S d stSPACE
        | some s1 =>
          let l : DLog := { ring := BitVec.ofNat 24 h, rctx := s.t.ctx, pages := [], told := false }
          (s1.modCtx c.toNat fun x => { x with log := some l }).give S d 0
/-- LOGARM.off (R325). -/
def execLogarmOff (S : Bool) (d a : BitVec 5) (s : State) : Res :=
  s.ctxWord (whoOf (.logarmOff S d a)) a [] s.isChild fun c => (s.modCtx c.toNat fun x => { x with log := none }).give S d 0

/-- A counter number that a table allocates (R98, R292, R326). -/
def counterOk (k : Nat) : Bool := k ≤ 7 || (0x100 ≤ k && k ≤ 0x10D) || (0x180 ≤ k && k ≤ 0x19F)

/-- Counter k of a context (R98, R292, R326). -/
def State.counter (s : State) (c k : Nat) : Nat :=
  if k = 7 then s.framesHeld c
  else if k = 0x100 then s.tagsOwned c
  else if k = 0x101 then s.sectorsHeld c
  else if 0x180 ≤ k ∧ k % 4 = 3 then 0
  else match s.ctx c with | some x => (alGet x.counters k).getD 0 | none => 0

/-- PERFR (R326): its context operand is checked before its counter number (DESIGN CHOICE, log entry 106). -/
def execPerfr (S : Bool) (d a b : BitVec 5) (t : Bool) (s : State) : Res :=
  let w := whoOf (.perfr S d a b t)
  s.ctxWord w a [b] (fun a => a == 0 || s.isBelow s.t.ctx a.toNat) fun a =>
    let c := if a = 0 then s.t.ctx else a.toNat
    let k := (s.sv b).toNat
    if !counterOk k then .next (s.trapWord (boundsPlain w 0x0C))
    else s.give S d (BitVec.ofNat 64 (if t then ((s.subtree c).map fun x => s.counter x k).sum else s.counter c k))

end Sys2Proof.Machine
end

