-- ==== Sys2Proof/Machine/Matrix.lean ====
section
/-!
DEFINITION. The matrix engine (R202 to R229): the turn of a matrix word, tiles, MMA and MMAT, loading, scaling and draining of tiles, slots,
waits, tokens and matrix traps.
-/

namespace Sys2Proof.Machine

/-- What a matrix word at the head of its queue comes to: it is not eligible, it traps, or it takes its whole effect (R202, R203). -/
inductive Served1 where
  | waits
  | trap (s : State) (i : TrapInfo)
  | done (s : State)

/-- A matrix trap halts the partition's matrix queue (R228). -/
def State.matHalt (s : State) (e : QEntry) (i : TrapInfo) : State :=
  (s.pendTrap 3 i (csrFields [(32, e.pc.toNat % 2 ^ 32), (0, (whoOf e.w).op)]) 0 true).modT fun t => { t with mhalted := true }

/-- The grant of the matrix-issue weir to the partition under execution is spent (R202). -/
def State.spendGrant (s : State) : State := { s with grants := s.grants.erase s.t.part }

/-- A matrix word: dispatched at the control engine's turn, served at the matrix engine's turn when it heads its queue
and the weir has granted the partition (R202). -/
def State.mword (s : State) (S : Bool) (i : Instr) (eff : QEntry → Served1) : Res :=
  match s.turn with
  | .matrix => match s.t.mq.head? with
    | none => .next s
    | some e =>
      if e.w ≠ i ∨ s.t.mhalted ∨ !s.grants.contains s.t.part then .next s
      else match eff e with
        | .waits => .next s
        | .trap s1 t => .next (s1.spendGrant.matHalt e t)
        | .done s1 => .next (s1.spendGrant.modT fun t => { t with mq := t.mq.drop 1, eligAt := none })
  | _ => s.dispatch S i

/-- ACC-NOT-HELD (R205). -/
def accTrap (w : Who) (a : BitVec 4) : TrapInfo := mkTrap .slotOwner w 3 (a.toNat + 256 * 0x3FF) 0 0

/-- A word that names a tile: its task must hold it (R205). -/
def State.withTile (s : State) (w : Who) (a : BitVec 4) (k : Tile → Served1) : Served1 :=
  if s.t.ownsAcc a.toNat then k (s.tile s.core a.toNat) else .trap s (accTrap w a)

/-- An element's bits (R206). -/
def Tile.elem (x : Tile) (m n : Nat) : Nat := leNat (x.data.read (1024 * m + 4 * n) 4)

/-- The elements of a tile from their bits. -/
def tileData (f : Nat → Nat → Nat) : Mem :=
  Mem.cells 0 ((List.range 32768).flatMap fun i => leBytes 4 (f (i / 256) (i % 256)))

/-- Every row of a tile with an uncorrectable error found and replaced (R217). DEDUCED, log entry 65. -/
def Tile.heal (x : Tile) : Tile := x.healIf fun _ => true

/-- A tile of the core under execution replaced; its context holds it (R205). -/
def State.putTile (s : State) (a : BitVec 4) (x : Tile) : State := s.setTile s.core a.toNat { x with ctx := s.t.ctx }

/-- The operands of an MMA (R209, R210): types, MX, depth, group size, whether the tile is overwritten. -/
structure MmaOp where
  ta : Fmt
  tb : Fmt
  mx : Bool
  k : Nat
  g : Nat
  ow : Bool
  deriving DecidableEq, Repr

/-- The own type of a format (R209). -/
def mmaType (f : BitVec 3) : Fmt :=
  match f.toNat with | 0 => .bf16 | 1 => .f16 | 2 => .e4m3 | 3 => .e5m2 | 4 => .e4m3 | 5 => .e2m1 | 6 => .e3m2 | _ => .i8

/-- Types, depth and overwrite of a format with its prefix (R23, R209). -/
def mmaOp (f : BitVec 3) (p : Option (BitVec 28)) : MmaOp :=
  let code := fun lo => match p with | some b => (b.extractLsb' lo 4).toNat | none => 0
  let ty := fun c => if c = 0 then mmaType f else (fmtOfCode c).getD .f32
  let ta := ty (code 7)
  let tb := ty (code 3)
  let mx := f.toNat = 4 ∨ f.toNat = 5 ∨ f.toNat = 6
  { ta := ta, tb := tb, mx := mx, k := if f.toNat < 2 then 64 else if mx ∧ ta = .e2m1 ∧ tb = .e2m1 then 256 else 128,
    g := if f.toNat < 2 then 16 else 32, ow := match p with | some b => b.getLsbD 2 | none => false }

/-- The version that a prefix expects, if it checks one (R209). -/
def mmaVersion (p : Option (BitVec 28)) : Option (BitVec 16) :=
  match p with | some b => if b.getLsbD 11 then some (b.extractLsb' 12 16) else none | none => none

/-- Element (r, c) of a slot. -/
def Slot.elem (x : Slot) (r c : Nat) : Nat := let e := fmtWidth x.fmt; x.data.getBits (x.arr.bit e r c) e

/-- The scale code of element (r, c) of a slot. -/
def Slot.scaleAt (x : Slot) (r c : Nat) : Nat := (x.data.get (x.arr.side (fmtWidth x.fmt) r c)).toNat

/-- b(k, n) of R210. -/
def Slot.bElem (x : Slot) (k n : Nat) : Nat := if x.arr = .bt then x.elem n k else x.elem k n

/-- The sum of exact numbers. -/
def exSum : List Ex → Ex
  | [] => .num { m := 0, e := 0 } false
  | x :: xs => xs.foldl Ex.add x

/-- The largest floor(log2 |p|) over the finite nonzero products (R213). -/
def topLog (ps : List Ex) : Option Int :=
  ps.foldl (fun (best : Option Int) p => match p with
    | .num d _ => if d.m = 0 then best else some (match best with | some b => max b d.log2 | none => d.log2)
    | _ => best) none

/-- A finite product truncated toward zero to a multiple of 2^q (R213). -/
def Ex.truncate (q : Int) (p : Ex) : Ex :=
  match p with
  | .num d z => if d.m = 0 then .num d z else .num { m := d.m.sign * ((splitAt d q).1 : Int), e := q } false
  | x => x

/-- aligned_sum (R213). -/
def alignedSum (ps : List Ex) : Ex :=
  match topLog ps with
  | some t => exSum (ps.map (Ex.truncate (t - 48)))
  | none => exSum ps

/-- An exact sum times 2^k. -/
def Ex.shift (k : Int) (p : Ex) : Ex := match p with | .num d z => .num (d.scale k) z | x => x

/-- The exact sum of group g of element (m, n) of a float format, scaled (R212, R213, R215). -/
def groupSum (o : MmaOp) (sa sb : Slot) (m n g : Nat) : Ex :=
  let ps := (List.range o.g).map fun j => (exOf o.ta (sa.elem m (o.g * g + j))).mul (exOf o.tb (sb.bElem (o.g * g + j) n))
  let sum := if o.g = 16 then alignedSum ps else exSum ps
  if o.mx then
    let ca := sa.scaleAt m (32 * g)
    let cb := sb.scaleAt n (32 * g)
    if ca = 255 ∨ cb = 255 then .nan else sum.shift ((ca : Int) + cb - 254)
  else sum

/-- One group addition of a float format (R212, R215). -/
def addGroup (x : Nat) (s : Ex) : Nat := (((exOf .f32 x).add s).round .f32 .rne 0 0).1

/-- The exact sum of group g of element (m, n) of INT8 (R214). -/
def groupInt (o : MmaOp) (sa sb : Slot) (m n g : Nat) : Int :=
  ((List.range o.g).map fun j => intVal o.ta (sa.elem m (o.g * g + j)) * intVal o.tb (sb.bElem (o.g * g + j) n)).sum

/-- Element (m, n) after an MMA, with its wraps (R212, R214). -/
def mmaElem (o : MmaOp) (sa sb : Slot) (x m n : Nat) : Nat × Nat :=
  (List.range (o.k / o.g)).foldl (fun (a : Nat × Nat) g =>
    if fmtIsInt o.ta then
      let s := intVal .i32 a.1 + groupInt o sa sb m n g
      (intEnc .i32 s, a.2 + (if s < -2 ^ 31 ∨ 2 ^ 31 - 1 < s then 1 else 0))
    else (addGroup a.1 (groupSum o sa sb m n g), a.2)) (if o.ow then 0 else x, 0)

/-- NANS of an element (R216). -/
def nanNew (before after : Nat) : Bool := fval .f32 after == .nan && fval .f32 before != .nan

/-- INFS of an element (R216). -/
def infNew (before after : Nat) : Bool :=
  let inf := fun v => match v with | FVal.inf _ => true | _ => false
  inf (fval .f32 after) && !inf (fval .f32 before) && fval .f32 before != .nan

/-- A tile after an MMA or MMAT has passed its checks (R212, R216). -/
def Tile.mma (x : Tile) (o : MmaOp) (sa sb : Slot) : Tile :=
  let ix := (List.range 32768).map fun i => (i / 256, i % 256)
  let res := ix.map fun p =>
    let old := x.elem p.1 p.2
    (if o.ow then 0 else old, mmaElem o sa sb old p.1 p.2)
  let int := fmtIsInt o.ta
  let count := fun (f : Nat → Nat → Bool) => if int then 0 else countIf (fun (r : Nat × Nat × Nat) => f r.1 r.2.1) res
  { x with
    data := Mem.cells 0 (res.flatMap fun r => leBytes 4 r.2.1), kind := int, ver := x.ver + 1, mmas := x.mmas + 1,
    nans := x.nans + BitVec.ofNat 64 (count nanNew), infs := x.infs + BitVec.ofNat 64 (count infNew),
    wraps := x.wraps + BitVec.ofNat 64 ((res.map fun r => r.2.2).sum) }

/-- The first of the slots of an MMA that is not the task's or is FAULTED (R211). -/
def State.slotBad (s : State) (w : Who) : List (BitVec 7) → Option TrapInfo
  | [] => none
  | n :: ns =>
    let x := s.slot s.core n.toNat
    if !x.ownedBy s.t then some (s.slotTrap .slotOwner w 1 n.toNat)
    else if x.st = .faulted then some (s.slotTrap .slotFaulted w 1 n.toNat)
    else s.slotBad w ns

/-- A slot that a matrix word may read (R137). -/
def Slot.readable (x : Slot) : Bool := x.st == .full || x.st == .draining

/-- A slot in which an uncorrectable error is found becomes FAULTED (R217). DEDUCED, log entry 60. -/
def State.slotLost (s : State) (w : Who) (n : BitVec 7) : Served1 :=
  let x := s.slot s.core n.toNat
  let s1 := s.setSlot s.core n.toNat { x with st := .faulted, fcause := 0x0C, fsub := 2 }
  .trap s1 (s1.slotTrap .slotFaulted w 2 n.toNat)

/-- MMA and MMAT at their turn (R211, R212, R217). Of two operand slots with an uncorrectable error the first is reported and becomes FAULTED
(DESIGN CHOICE, log entry 109). -/
def State.doMma (s : State) (w : Who) (bt : Bool) (a : BitVec 4) (x y : BitVec 7) (f : BitVec 3) (e : QEntry) : Served1 :=
  s.withTile w a fun t => match s.slotBad w [x, y] with
    | some i => .trap s i
    | none =>
      let sa := s.slot s.core x.toNat
      let sb := s.slot s.core y.toNat
      let o := mmaOp f e.pfx
      let ver := match mmaVersion e.pfx with | some v => t.ver == v | none => true
      if !sa.readable ∨ !sb.readable ∨ !ver then .waits
      else if sa.arr ≠ .a ∨ sb.arr ≠ (if bt then .bt else .b) ∨ sa.fmt ≠ o.ta ∨ sb.fmt ≠ o.tb ∨ sa.mx ≠ o.mx ∨ sb.mx ≠ o.mx then
        .trap s (boundsPlain w 8)
      else if sa.bad then s.slotLost w x
      else if sb.bad then s.slotLost w y
      else .done (s.putTile a (t.heal.mma o sa sb))

/-- MMA (R212). -/
def execMma (S : Bool) (a : BitVec 4) (x y : BitVec 7) (f : BitVec 3) (s : State) : Res :=
  s.mword S (.mma S a x y f) (s.doMma (whoOf (.mma S a x y f)) false a x y f)
/-- MMAT (R212). -/
def execMmat (S : Bool) (a : BitVec 4) (x y : BitVec 7) (f : BitVec 3) (s : State) : Res :=
  s.mword S (.mmat S a x y f) (s.doMma (whoOf (.mmat S a x y f)) true a x y f)

/-- MZERO (R218). -/
def execMzero (S : Bool) (a : BitVec 4) (s : State) : Res :=
  s.mword S (.mzero S a) fun _ => s.withTile (whoOf (.mzero S a)) a fun t =>
    let t := t.heal
    .done (s.putTile a { t with data := [], ver := t.ver + 1 })

/-- The offset checks of R219 on a span of n bytes. -/
def State.matSpan (s : State) (w : Who) (off : Word) (n : Nat) : Option TrapInfo :=
  if off.toNat % 64 ≠ 0 then some (alignTrap w 1 off 6)
  else if s.t.window < off.toNat + n then some (boundsPlain w 0x0A)
  else none

/-- A word whose offset has passed its checks. -/
def State.withSpan (s : State) (w : Who) (off : Word) (n : Nat) (k : Served1) : Served1 :=
  match s.matSpan w off n with
  | some i => .trap s i
  | none => k

/-- MLDA (R219). The tile is checked before the span (DESIGN CHOICE, log entry 106). -/
def execMlda (S : Bool) (a : BitVec 4) (r : BitVec 5) (s : State) : Res :=
  let w := whoOf (.mlda S a r)
  s.mword S (.mlda S a r) fun e => s.withTile w a fun t => s.withSpan w (e.cap 0) 131072
    (let t := t.heal
     .done (s.putTile a { t with data := Mem.cells 0 (s.spad (e.cap 0).toNat 131072), ver := t.ver + 1 }))

/-- The format in which a tile's elements are read (R206). -/
def Tile.fmt (x : Tile) : Fmt := if x.kind then .i32 else .f32

/-- An element times an F32 factor (R220). -/
def scaleElem (f : Fmt) (v k : Nat) : Nat := (((exOf f v).mul (exOf .f32 k)).round .f32 .rne 0 0).1

/-- MSCAL (R220). The tile is checked before the span (DESIGN CHOICE, log entry 106). -/
def execMscal (S : Bool) (a : BitVec 4) (r : BitVec 5) (c : Bool) (s : State) : Res :=
  let w := whoOf (.mscal S a r c)
  s.mword S (.mscal S a r c) fun e => s.withTile w a fun t => s.withSpan w (e.cap 0) (if c then 1024 else 512)
    (let t := t.heal
     let k := fun m n => leNat (s.spad ((e.cap 0).toNat + 4 * (if c then n else m)) 4)
     .done (s.putTile a { t with data := tileData fun m n => scaleElem t.fmt (t.elem m n) (k m n), kind := false, ver := t.ver + 1 }))

/-- Positions per lane of a type under SR (R222). -/
def srP (dst : Fmt) : Nat := match fmtWidth dst with | 32 => 1 | 16 => 2 | 4 => 8 | _ => 4

/-- One element of a drain (R221, R222). -/
def Tile.drain (x : Tile) (e : QEntry) (dst : Fmt) (mode : Rnd) (sat : Bool) (m n : Nat) : Nat × Fl :=
  let P := srP dst
  convert x.fmt dst mode (32 / P) (e.random P (256 * m + n)) sat (x.elem m n)

/-- A list of element positions of a tile drained under MX (R157, R221): scales, elements, flags. No position stands for a zero. -/
def Tile.drainMx (x : Tile) (e : QEntry) (dst : Fmt) (mode : Rnd) (sat : Bool) (l : List (Option (Nat × Nat))) : List Nat × List Nat × Fl :=
  let P := srP dst
  let ins := l.map fun p => match p with
    | some (m, n) => if sat && !x.kind then clampInf .f32 (x.elem m n) else (x.elem m n, 0)
    | none => (0, 0)
  let at_ := fun i => match l.getD i none with | some (m, n) => 256 * m + n | none => 0
  let (sc, es, fl) := quantBlocks dst mode (32 / P) (fun i => e.random P (at_ i)) (l.length / 32) 0 (ins.map fun p => fval x.fmt p.1)
  (sc, es, fl ||| orFlags ins)

/-- The tile positions of MDRN's rows in order (R221). -/
def drainOrder (tr : Bool) : List (Nat × Nat) :=
  (List.range 32768).map fun i => if tr then (i % 128, i / 128) else (i / 256, i % 256)

/-- Flags of a matrix word commit at its completion (R160, R222). -/
def State.commitFlags (s : State) (f : Fl) : State := s.modX fun x => { x with flags := x.flags ||| f }

/-- MDRN (R221). The tile is checked before the span (DESIGN CHOICE, log entry 106). -/
def execMdrn (S : Bool) (a : BitVec 4) (r : BitVec 5) (t : BitVec 4) (o : BitVec 3) (y x p : Bool) (s : State) : Res :=
  let w := whoOf (.mdrn S a r t o y x p)
  let dst := fmtOf t
  let n := 4096 * fmtWidth dst
  s.mword S (.mdrn S a r t o y x p) fun e => s.withTile w a fun tl => s.withSpan w (e.cap 0) (n + if x then 1024 else 0)
    (let tl := tl.heal
     let s1 := s.putTile a tl
     let off := (e.cap 0).toNat
     if x then
       let (sc, es, fl) := tl.drainMx e dst (rndOf o) y ((drainOrder p).map some)
       .done (((s1.setSpad off (leBytes n (packElems (fmtWidth dst) es))).setSpad (off + n) (sc.map (BitVec.ofNat 8))).commitFlags fl)
     else
       let rs := (drainOrder p).map fun q => tl.drain e dst (rndOf o) y q.1 q.2
       .done ((s1.setSpad off (leBytes n (packElems (fmtWidth dst) (rs.map (·.1))))).commitFlags (orFlags rs)))

/-- The slot arrangement of MDRS (R223). -/
def mdrsArr (x l : Bool) : Arr := if !l then .a else if x then .bt else .b

/-- The tile positions of MDRS's slot elements in order (R223); none where no tile element is carried. -/
def mdrsOrder (x l : Bool) (k : Nat) : List (Option (Nat × Nat)) :=
  if !l then (List.range (128 * k)).map fun i => some (i / k, i % k)
  else if x then (List.range (256 * k)).map fun i => if i % k < 128 then some (i % k, i / k) else none
  else (List.range (256 * min k 128)).map fun i => some (i / 256, i % 256)

/-- MDRS (R223). The tile is checked before the slot (DESIGN CHOICE, log entry 106). -/
def execMdrs (S : Bool) (a : BitVec 4) (o : BitVec 7) (t : BitVec 4) (r : BitVec 3) (y x l : Bool) (s : State) : Res :=
  let w := whoOf (.mdrs S a o t r y x l)
  let dst := fmtOf t
  let wd := fmtWidth dst
  s.mword S (.mdrs S a o t r y x l) fun e => s.withTile w a fun tl => match s.slotBad w [o] with
    | some i => .trap s i
    | none =>
      let z := s.slot s.core o.toNat
      if z.st ≠ .empty then .waits
      else
        let tl := tl.heal
        let ps := mdrsOrder x l (slotK wd)
        let new := { z with st := .full, arr := mdrsArr x l, fmt := dst, mx := x, bad := false }
        if x then
          let (sc, es, fl) := tl.drainMx e dst (rndOf r) y ps
          let d := Mem.write (Mem.cells 0 (leBytes 32768 (packElems wd es))) 32768 (sc.map (BitVec.ofNat 8))
          .done (((s.putTile a tl).setSlot s.core o.toNat { new with data := d }).commitFlags fl)
        else
          let rs := ps.map fun q => match q with | some (m, n) => tl.drain e dst (rndOf r) y m n | none => (0, 0)
          let d := Mem.cells 0 (leBytes 32768 (packElems wd (rs.map (·.1))))
          .done (((s.putTile a tl).setSlot s.core o.toNat { new with data := d }).commitFlags (orFlags rs))

/-- MREL (R137, R224). -/
def execMrel (S : Bool) (o : BitVec 7) (k : Bool) (s : State) : Res :=
  s.mword S (.mrel S o k) fun _ =>
    let z := s.slot s.core o.toNat
    if !z.ownedBy s.t then .trap s (s.slotTrap .slotOwner (whoOf (.mrel S o k)) 1 o.toNat)
    else if z.st = .filling ∨ z.st = .draining then .waits
    else .done (s.setSlot s.core o.toNat (if k then { z with st := .empty } else Slot.reset)).settle

/-- MWAIT (R225). -/
def execMwait (S : Bool) (a : BitVec 4) (v : BitVec 16) (s : State) : Res :=
  s.mword S (.mwait S a v) fun _ => s.withTile (whoOf (.mwait S a v)) a fun t => if 0 ≤ (t.ver - v).toInt then .done s else .waits

/-- MTKS (R226): earlier matrix words of the partition have completed, as they are served in order. -/
def execMtks (S : Bool) (k : BitVec 3) (s : State) : Res :=
  s.mword S (.mtks S k) fun _ => if s.pushFits k 1 then .done (s.pushToken k) else .waits
/-- MTKW (R226). -/
def execMtkw (S : Bool) (k : BitVec 3) (s : State) : Res :=
  s.mword S (.mtkw S k) fun _ => if 0 < s.tokens k then .done (s.popToken k) else .waits

/-- Clk for which a matrix word occupies the engine (R204). -/
def occOf (i : Instr) : Nat :=
  match i with
  | .mma .. | .mmat .. | .mdrs .. | .mscal .. => 32
  | .mzero .. => 4
  | .mlda .. => 128
  | .mdrn _ _ _ t _ _ _ _ => match fmtWidth (fmtOf t) with | 32 => 128 | 16 => 64 | _ => 32
  | _ => 1

/-- Whether the word at the head of a task's matrix queue is eligible for the matrix-issue weir (R202): its wait conditions hold, or a
check would raise its trap. The task is the one under execution. A handler may hold the queue (R266). -/
def State.matEligible (s : State) : Bool :=
  s.t.st == .running && !s.t.mhalted && !(s.t.x.hmode && decide (s.t.mq.length ≤ s.watermark 8 7 Config.subDepth))
    && match s.t.mq with
      | [] => false
      | e :: _ =>
        let held := fun (a : BitVec 4) => s.t.ownsAcc a.toNat
        match e.w with
        | .mma _ a x y _ | .mmat _ a x y _ =>
          let ver := match mmaVersion e.pfx with | some v => (s.tile s.core a.toNat).ver == v | none => true
          !held a || (s.slotBad { eng := 0, op := 0 } [x, y]).isSome
            || ((s.slot s.core x.toNat).readable && (s.slot s.core y.toNat).readable && ver)
        | .mdrs _ a o .. => !held a || (s.slotBad { eng := 0, op := 0 } [o]).isSome || (s.slot s.core o.toNat).st == .empty
        | .mrel _ o _ =>
          let z := s.slot s.core o.toNat
          !z.ownedBy s.t || !(z.st == .filling || z.st == .draining)
        | .mwait _ a v => !held a || decide (0 ≤ ((s.tile s.core a.toNat).ver - v).toInt)
        | .mtks _ k => s.pushFits k 1
        | .mtkw _ k => decide (0 < s.tokens k)
        | _ => true

end Sys2Proof.Machine
end

