-- ==== Sys2Proof/Machine/Sched.lean ====
section
/-!
DEFINITION. The passing of time, the task under execution, the word at hand for an engine, and how an instruction's bits are placed as the
next word.
-/

namespace Sys2Proof.Machine

/-- The clk of a die while n clk of nominal length pass, and its clock after them (R6, R338). DEDUCED, log entry 78. -/
def Die.pass (d : Die) (n : Nat) : Nat × Die :=
  let x := d.phase + n * d.clock
  (x / 16, { d with since := d.since + x / 16, phase := x % 16, count := d.count + x / 16 })

/-- A running task over n clk of its die: PREQ.REMAIN falls to 0 at most (R305), its slice and its wait count (R278). -/
def Task.pass (t : Task) (n : Nat) : Task :=
  if t.st = .running then
    { t with ranClk := t.ranClk + n,
             x := { t.x with remain := if t.x.slice || t.x.stop || t.x.system then BitVec.ofNat 32 (t.x.remain.toNat - n) else t.x.remain },
             c := { t.c with wait := t.c.wait.map fun w => { w with clk := w.clk + n } } }
  else t

/-- Ticks of 1 ns that begin while n clk of 1.8 GHz pass after the first c (R6). -/
def ticksOf (c n : Nat) : Nat := 5 * (c + n) / 9 - 5 * c / 9

/-- Time passes on the package (R6): clk of nominal length, with the ticks of global time that they take. -/
def State.pass (s : State) (clk : Nat) : State :=
  let n := fun (t : Task) => ((s.dieOf (dieOfCore t.coreNo)).pass clk).1
  { s.mapTasks fun t => t.pass (n t) with
    clk := s.clk + clk, ticks := s.ticks + BitVec.ofNat 64 (ticksOf s.clk clk), dies := s.dies.map fun d => (d.pass clk).2 }

/-- The task that runs on a partition comes under execution. -/
def State.focus (s : State) (p : Nat) : State :=
  match s.others.find? fun t => t.st == .running && t.part == p with
  | none => s
  | some t =>
    let rest := s.others.filter fun u => u.id != t.id
    { s with t := t, others := if s.t.st = .none then rest else s.t :: rest }

/-- The word that the control engine has at hand: of a running group the word at the program counter, past a group the `END`, `YIELD` or
`ERET` that waits (R26, R276, R277, R298). -/
def State.controlWord (s : State) : Option Instr :=
  match s.t.c.phase with
  | .running => s.wordAtPc
  | .ending => some (match s.t.c.xfer with | .yield => .yield true | .eret => .eret true | _ => .taskEnd true)
  | _ => none

/-- The word at hand for an engine: the control engine's, or the one at the head of its queue. -/
def State.headWord (s : State) (u : Turn) : Option Instr :=
  match u with
  | .control => s.controlWord
  | .vector => s.t.v.q.head?.map (·.w)
  | .matrix => s.t.mq.head?.map (·.w)
  | .fetch => s.t.f.q.head?.map (·.w)

/-- Whether the control engine stands where an engine trap or a forced save takes it: a boundary, a stall or a waiting word
(R124, R307). -/
def State.interruptible (s : State) : Bool :=
  match s.t.c.phase with
  | .running => s.isWaiting
  | _ => true

/-- A one-word code object that holds a word, and a task that has just been admitted to it: what a loader and the dispatcher leave
(DEDUCED, log entry 17). A word that does not decode stands in a group that has yet to be checked (R28). -/
def State.placeWord (s : State) (w : IWord) : State :=
  let oid : BitVec 48 := 1
  let o : Obj :=
    { rank := 1, coherent := false, sealed := false, hostsh := false, fmt := 14, mxk := 0, layout := 0,
      ext := Vector.replicate 4 1, shsize := 1, shcnt := 0, split := 0, home := 1, res := 2, moving := false, version := 0,
      keyslot := 0, hmap := 0, ownerEp := 1, ownerCtx := 0, repl := [], xmap := 0, rsv := 0, pubs := [] }
  let t := { Task.idle with
    st := .running, id := 0x10000, ctx := 1, core := some 0,
    c := { Ctl.reset with
      codeH := 1, codeO := oid, words := [w]
      phase := if (decode w).toOption.isSome then .running else .boundary } }
  { s with t := t, turn := .control, agenda := [], objs := alSet s.objs 1 o,
           remote := s.remote.write (remKey oid 0 0) (leBytes 4 w.toNat) }

end Sys2Proof.Machine
end

