-- ==== Sys2Proof/Machine/Tasks.lean ====
section
/-!
DEFINITION. The dispatcher and the life of a task: placement with its conditions and spills (R271 to R273, R308, R309), parking (R278), the
slice, forced saves and their completion (R305 to R310), trap entry (R296), and the append of a waiting event (R324).
-/

namespace Sys2Proof.Machine

/-- The weir of a class at a unit. -/
def weirKey (cls unit : Nat) : Nat := cls * 1024 + unit

/-- A weir (R287). -/
def State.weir (s : State) (cls unit : Nat) : Weir := (alGet s.weirs (weirKey cls unit)).getD Weir.reset

/-- The bucket of a context at a weir, empty when it never was refilled (R289). -/
def Weir.bucket (w : Weir) (c : Nat) : Bucket :=
  (w.buckets.find? fun b => b.ctx == c).getD { ctx := c, tokens := 0, credit := 0, part := 287 }

/-- A task holds its window on a core (R132, R308). -/
def Task.holdsWin (t : Task) (k : Nat) : Bool := t.core == some k && t.st != .none && !t.spilled

/-- Whether n bytes of windows fit beside those that a core holds (R130, R132). DESIGN CHOICE, log entry 67. -/
def State.winFits (s : State) (k n : Nat) : Bool :=
  ((s.tasks.filter fun t => t.holdsWin k).map Task.window).sum + n ≤ s.spn k * 524288

/-- A window is copied out, its frames charged to its owner and no weir (R308; DESIGN CHOICE, log entry 110). -/
def State.spillWin (s : State) (u : Task) : State :=
  if s.freeFrames u.ctx < u.window / 65536 then s
  else (s.modTask u.id fun u => { u with spilled := true }).count u.ctx 5 1

/-- Room for a task's window on a core, windows of other contexts' parked tasks copied out as needed (R271, R308). -/
def State.makeWin (s : State) (t : Task) (k : Nat) : Option State :=
  let n := if t.holdsWin k then 0 else t.window
  let parked := s.tasks.filter fun u => u.holdsWin k && u.st != .running && u.ctx != t.ctx && 0 < u.window
  let s1 := parked.foldl (fun (s : State) u => if s.winFits k n then s else s.spillWin u) s
  if s1.winFits k n then some s1 else none

/-- A tile that another context holds is copied out for one of its parked tasks, no weir being charged; none when a running task names it or the
frames are lacking (R205, R308; DESIGN CHOICE, log entry 110). -/
def State.spillTile (s : State) (k a : Nat) (x : Tile) : Option State :=
  let hold := s.tasks.filter fun u => u.onCore k && u.ctx == x.ctx && u.ownsAcc a
  if hold.any fun u => u.st == .running then none
  else match hold with
    | [] => some { s with tiles := alDel s.tiles (k * 16 + a) }
    | u :: _ =>
      if s.freeFrames x.ctx < 2 then none
      else some (({ s with tiles := alDel s.tiles (k * 16 + a) }.modTask u.id fun u =>
        { u with spillTiles := u.spillTiles ++ [(a, x)] }).count x.ctx 5 1)

/-- No tile in the mask of a task is held by another context, spills made as needed (R271, R308). -/
def State.makeTiles (s : State) (t : Task) (k : Nat) : Option State :=
  ((List.range 16).filter t.ownsAcc).foldl (fun (acc : Option State) a => acc.bind fun s =>
    match alGet s.tiles (k * 16 + a) with
    | none => some s
    | some x => if x.ctx = t.ctx then some s else s.spillTile k a x) (some s)

/-- The record of a root in a layout; root i is context i + 1 (R332). -/
def Layout.root (l : Layout) (i : Nat) : Option (BitVec 2048) := l.roots[i]?

/-- The root that owns a partition. -/
def Layout.owner (l : Layout) (p : Nat) : Option Nat := (List.range 48).find? fun i => match l.root i with | some r => r.getLsbD (1728 + p) | none => false

/-- The cores that hold a partition whose root changes (R336). -/
def affected (a b : Layout) : List Nat := (List.range 48).filter fun k => (List.range 6).any fun n => a.owner (6 * k + n) != b.owner (6 * k + n)

/-- The cores that the change under way affects (R336). -/
def State.changing (s : State) : List Nat :=
  match s.boot.shadow, s.boot.journal with
  | some l, .none => affected s.boot.layout l
  | _, _ => []

/-- The dispatcher places nothing on a core (R336): it is held or quiesced, or a change that affects it is being prepared (DESIGN CHOICE, log
entry 70). -/
def State.coreHeld (s : State) (k : Nat) : Bool := s.boot.held.contains k || s.changing.contains k

/-- A partition runs no task. -/
def State.partFree (s : State) (p : Nat) : Bool := !(s.tasks.any fun t => t.st == .running && t.part == p)

/-- The code object of a task is frozen by a move; its placement waits (R56, R245). -/
def State.codeFrozen (s : State) (t : Task) : Bool :=
  match s.codeObj t.ctx t.c.codeH t.c.pc.toNat true with | .stall => true | _ => false

/-- Subscription n of a record as a first placement checks it (R234, R270); none for an unused one. -/
def State.subChecked (s : State) (t : Task) (n : Nat) : Option (Chk Acc) :=
  let sub := t.tr.extractLsb' (256 + 64 * n) 64
  if sub.getLsbD 63 then some (s.classChecked t.ctx ((sub.extractLsb' 32 24).setWidth 64) rREAD { eng := 0, op := 0 } true) else none

/-- An object that a task subscribes to is frozen by a move; its first placement waits (R56, R234). -/
def State.subsFrozen (s : State) (t : Task) : Bool :=
  t.core.isNone && (List.range 4).any fun n => match s.subChecked t n with | some .stall => true | _ => false

/-- The conditions of R271, R309 and R336 for a READY task on a free partition: the machine once room has been made, or none. -/
def State.roomFor (s : State) (t : Task) (p : Nat) : Option State :=
  let k := coreOfPart p
  let may := t.st == .ready && !t.saving && p < 288 && dieOfId t.id == dieOfCore k && s.ownPart t.ctx p && s.runnable t.ctx
    && !s.coreHeld k && !s.codeFrozen t && !s.subsFrozen t && (t.core.isNone || t.core == some k) && (t.core.isSome || 4 ≤ s.freeFrames t.ctx)
  if may then (s.makeWin t k).bind fun s => s.makeTiles t k else none

/-- Issue tokens of a context at a core's matrix-issue and fetch-issue weirs (R273). -/
def State.issueTokens (s : State) (c k : Nat) : Int := ((s.weir 0 k).bucket c).tokens + ((s.weir 1 k).bucket c).tokens

/-- Task a precedes task b in dispatch order on a core (R273). -/
def State.precedes (s : State) (k : Nat) (a b : Task) : Bool :=
  let ta := s.issueTokens a.ctx k
  let tb := s.issueTokens b.ctx k
  if a.prio ≠ b.prio then b.prio < a.prio
  else if ta ≠ tb then tb < ta
  else if a.readyAt ≠ b.readyAt then a.readyAt < b.readyAt
  else a.id.extractLsb' 0 12 < b.id.extractLsb' 0 12

/-- The first task in dispatch order that may take a free partition (R273), with the room made. -/
def State.pick (s : State) (p : Nat) : Option (Task × State) :=
  s.tasks.foldl (fun (best : Option (Task × State)) t => match s.roomFor t p with
    | none => best
    | some r => match best with
      | some b => if s.precedes (coreOfPart p) t b.1 then some (t, r) else some b
      | none => some (t, r)) none

/-- The subscription checks of a first placement (R234, R270): the machine with the links of those that pass, and the traps of the others. -/
def State.placeSubs (s : State) (t : Task) (k : Nat) : State × List TrapInfo :=
  (List.range 4).foldl (fun (acc : State × List TrapInfo) n =>
    match acc.1.subChecked t n with
    | some (.ok a) => ({ acc.1 with l1 := acc.1.l1.filter fun x => !(x.core == k && x.oid == a.oid) }, acc.2)
    | some (.trap i) => (acc.1, acc.2 ++ [i])
    | _ => acc) (s, [])

/-- The tiles of a mask on a core as its context holds them: the one in place, one copied back, or a new one of zeros (R205, R308). -/
def State.holdTiles (s : State) (t : Task) (k : Nat) : State :=
  ((List.range 16).filter t.ownsAcc).foldl (fun (s : State) a =>
    match alGet s.tiles (k * 16 + a) with
    | some _ => s
    | none =>
      match s.tasks.find? fun u => u.core == some k && u.ctx == t.ctx && u.spillTiles.any fun q => q.1 == a with
      | some u =>
        let x := ((u.spillTiles.find? fun q => q.1 == a).map (·.2)).getD Tile.reset
        (s.modTask u.id fun u => { u with spillTiles := u.spillTiles.filter fun q => q.1 != a }).setTile k a x
      | none => s.setTile k a { Tile.reset with ctx := t.ctx }) s

/-- A task comes onto a partition (R271, R295, R305, R309): its code is entered (R245), and it comes under execution. DEDUCED, log entry 30. -/
def State.placeTask (s : State) (id : BitVec 64) (p : Nat) : State :=
  match s.taskById id with
  | none => s
  | some t0 =>
    let k := coreOfPart p
    let s := s.holdTiles t0 k
    let t := (s.taskById id).getD t0
    let (s, subs) := if t.core.isNone then s.placeSubs t k else (s, [])
    let (oid, code) := match s.codeObj t.ctx t.c.codeH t.c.pc.toNat true with
      | .ok oid => (oid, [])
      | .trap i => (t.c.codeO, [i])
      | .stall => (t.c.codeO, [])
    let starts := t.starts ++ subs
    let lim := s.ctxField t.ctx 704 32
    let t := { t with
      st := .running, part := p, core := some k, ranClk := 0, spilled := false, told := 0, startAsk := .plain,
      starts := if starts.isEmpty && !t.x.hmode then code else starts, entryTrap := if t.x.hmode then code.head? else none, c := { t.c with codeO := oid },
      x := { t.x with forced := t.wasForced, slice := false, stop := false, system := false,
                      limit := if lim = 0 then 200000 else BitVec.ofNat 32 lim } }
    let rest := s.tasks.filter fun u => u.id != id
    { s with t := t, others := rest, grants := s.grants.filter fun q => q != p }.count t.ctx 0 1

/-- TASK_PLACE (R271 to R274): a free partition, none of lower number that could take a task, and the first task in dispatch order. -/
def execTaskPlace (p : Nat) (s : State) : Res :=
  if !s.partFree p ∨ (List.range p).any fun q => s.partFree q && (s.pick q).isSome then .next s
  else match s.pick p with
    | some (t, r) => .next (r.placeTask t.id p)
    | none => .next s

/-- The words that park their task (R278). -/
def parks (i : Instr) : Bool :=
  match i with
  | .subscribe .. | .pub .. | .bwait .. | .waitw .. | .omcall .. | .mclaim .. | .spawn .. => true
  | .barr _ _ w _ => w
  | _ => false

/-- The condition of a waiting word holds now (R143, R278). -/
def State.waitOver (s : State) (i : Instr) (w : Wake) : Bool :=
  match w, i with
  | .chunk a b, .waitw _ _ _ _ k => waitwMet k.toNat (bitsOfBytes 64 (s.spad a.toNat 8)) b
  | w, _ => s.wakeMet s.t w

/-- A PREQ reason is set (R305). -/
def Trp.asked (x : Trp) : Bool := x.slice || x.stop || x.system

/-- The second condition of R278: the task's engines are drained, and no outbound binding holds an element accepted and unwritten: its bits stand in
their lines, though the line write that is to carry them may still wait (log entry 61). -/
def State.drained (s : State) : Bool :=
  let f := s.t.f
  s.vecDrained && s.t.c.stores.isEmpty && s.t.v.deliv.isEmpty && s.t.mq.isEmpty && s.t.c.pend.isEmpty
    && f.q.isEmpty && f.act.isNone && f.run.isEmpty && f.rel.isEmpty && f.fdone.isEmpty && f.ftks.isEmpty
    && f.ports.toList.all fun p => !p.out || (p.fifo.isEmpty && !p.lands)

/-- The word at hand parks its task now (R278, R306). -/
def State.mayPark (s : State) : Bool :=
  s.t.st == .running && s.t.c.phase == .running && match s.wordAtPc, s.t.c.wait with
    | some i, some w => parks i && (decide (Config.parkClk ≤ w.clk) || s.t.x.asked) && s.drained && !s.waitOver i w.wake
    | _, _ => false

/-- TASK_PARK (R278). -/
def execTaskPark (s : State) : Res := .next (if s.mayPark then s.leavePart .parked false else s)

/-- SLICE_EXPIRY (R305): the slice has run and a READY task could take the partition, were the running task parked on its core. -/
def execSliceExpiry (s : State) : Res :=
  let n := s.ctxField s.t.ctx 736 32
  let s1 := s.modT fun t => { t with st := .parked }
  if s.t.st = .running ∧ n ≠ 0 ∧ n ≤ s.t.ranClk ∧ !s.t.x.slice ∧ (s.others.any fun u => (s1.roomFor u s.t.part).isSome) then
    .next (s.modX fun x => x.reason fun x => { x with slice := true })
  else .next s

/-- A forced save (R307): the partition is captured, the task becomes READY, and DEADLINE goes to the parent context. -/
def State.forceSave (s : State) : State :=
  let t := s.t
  let at_ := s.boundaryOff.setWidth 32
  let s := s.modX fun x => { x with fscnt := x.fscnt + 1 }
  let s := s.modC fun c => { c with phase := match c.phase with | .checked => .boundary | p => p }
  let s := (s.leavePart .ready true).count t.ctx 1 1
  s.deliverEvent t.ctx t.id fun chain => eventRec none 0 0 t.c.codeH chain t.id at_ t.part 0 0x20 2

/-- FORCED_SAVE (R306, R307). -/
def execForcedSave (s : State) : Res :=
  .next (if s.t.st = .running ∧ s.t.x.asked ∧ s.t.x.remain = 0 ∧ s.interruptible then s.forceSave else s)

/-- What the capture of the task under execution left in flight has not finished: a request that awaits Mason, or the reply of its place. One
whose FETCH-ERROR finds no room among the traps that wait (R124) is saved as it is. -/
def State.stillSaving (s : State) : Bool :=
  s.t.asksMason || ((!s.t.accesses.isEmpty || s.t.f.open_.any fun a => !a.outst.isEmpty || a.asked.isSome) && !s.fetStalled)

/-- SAVE_COMPLETE (R309): the requests that the capture of a task left in flight finish into its image; with Mason's answers to its
requests the save is complete. -/
def execSaveComplete (id : BitVec 64) (s : State) : Res :=
  match s.taskById id with
  | some t =>
    if t.saving then
      .next (s.asTask id fun s => let s := s.drainReqs; s.modT fun t => { t with saving := s.stillSaving }).settle
    else .next s
  | none => .next s

/-- A trap of placement: Mason is asked for a code object that is absent first, and entered when he has brought it (R245, R270, R300). `put` leaves
another trap in its place, or none. DEDUCED, log entry 32. -/
def State.startTrap (s : State) (i : TrapInfo) (put : Option TrapInfo → State → State) : State :=
  let left := fun (o : Option TrapInfo) => (put o s).modT fun t => { t with startAsk := .plain }
  let raise := fun (i : TrapInfo) => if s.handlerWaits i.cause then s else (left none).takeTrap i s.boundaryOff s.boundaryKept
  match s.t.startAsk with
  | .sent _ => s
  | .failed x => raise x
  | .resolved => match s.codeObj s.t.ctx s.t.c.codeH s.t.c.pc.toNat true with
    | .stall => s
    | .ok oid => (left none).modC fun c => { c with codeO := oid }
    | .trap x => left (some x)
  | _ =>
    if i.cause = .missingObject then
      (s.tickFresh.toMason (.fault s.reqNo s.t.ctx s.t.part i)).modT fun t => { t with startAsk := .sent s.reqNo }
    else raise i

/-- TRAP_ENTRY (R124, R245, R270, R296): at a boundary, a stall or a waiting word, the traps of placement first, within a handler that of its code
alone, then the oldest engine trap. While the handler's code object is frozen by a move, it waits (R56). -/
def execTrapEntry (s : State) : Res :=
  if s.t.st ≠ .running ∨ !s.interruptible then .next s
  else match s.t.entryTrap with
    | some i => .next (s.startTrap i fun o s => s.modT fun t => { t with entryTrap := o })
    | none =>
      if s.t.x.hmode then .next s
      else match s.t.starts with
        | i :: r => .next (s.startTrap i fun o s => s.modT fun t => { t with starts := o.toList ++ r })
        | [] => match s.t.x.pending with
          | p :: _ => .next (if s.handlerWaits p.info.cause then s else s.takeEngine p s.boundaryOff s.boundaryKept)
          | [] => .next s

/-- The chain of an event record (R324). -/
def evChain (ev : BitVec 512) : List Nat :=
  (List.range (ev.extractLsb' 28 4).toNat).map fun n => (ev.extractLsb' (128 + 12 * n) 12).toNat

/-- An event record with another chain. -/
def evRechain (ev : BitVec 512) (chain : List Nat) : BitVec 512 :=
  let m : BitVec 512 := BitVec.ofNat 512 ((2 ^ 96 - 1) * 2 ^ 128 + 15 * 2 ^ 28)
  let ch := ((chain.take 8).zipIdx.map fun p => p.1 * 2 ^ (12 * p.2)).sum
  (ev &&& ~~~m) ||| BitVec.ofNat 512 (ch * 2 ^ 128 + min chain.length 8 * 2 ^ 28)

/-- An event of KIND 1, which waits for room in its ring (R323). -/
def EvItem.isReflected (e : EvItem) : Bool := e.ev.extractLsb' 0 8 == 1

/-- A waiting event is appended once its ring has room; when its ring is no longer usable, the search goes on past it (R323, R324). None
when it still waits. One of KIND 2 or 3 has waited for its ring to thaw only, and a full ring drops it and counts (R56, R323). -/
def State.tryEvent (s : State) (e : EvItem) : Option State :=
  let usable := match s.ctx e.ctx with | some x => x.ring != 0 && (s.ringObj e.ctx x.ring.toNat 16 32).isSome | none => false
  let task := e.ev.extractLsb' 64 64
  if usable then match s.appendEvent e.ctx e.ev with
    | (s', true) => some { s' with events := s'.events.erase e }
    | (_, false) =>
      if e.isReflected || s.ringMoving e.ctx then none
      else some ({ s with events := s.events.erase e }.count e.ctx 0x0003 1)
  else
    let s0 : State := { s with events := s.events.erase e }
    let s := s0.noteRings 8 e.ctx s0
    match s0.findRing 8 (s.parent e.ctx) (evChain e.ev ++ [e.ctx]) with
    | (some c, chain) =>
      let x : EvItem := { ctx := c, ev := evRechain e.ev chain }
      some { s.modTask task fun t => { t with told := c } with events := s.events ++ [x] }
    | (none, chain) => some ((s.modTask task fun t => { t with told := 0 }).toMason (.event e.ctx task (evRechain e.ev chain)))

/-- The first event that can go on, in the order in which they arose: behind one that waits for room only an event that never does. -/
def State.firstEvent (s : State) : List EvItem → List Nat → Option State
  | [], _ => none
  | e :: es, seen =>
    if seen.contains e.ctx && e.isReflected then s.firstEvent es seen
    else match s.tryEvent e with
      | some s' => some s'
      | none => s.firstEvent es (e.ctx :: seen)

/-- EVENT_APPEND (R323, R324). -/
def execEventAppend (s : State) : Res := .next ((s.firstEvent s.events []).getD s)

end Sys2Proof.Machine
end

