-- ==== Sys2Proof/Machine/Boot.lean ====
section
/-!
DEFINITION. Resets, boot, attestation, keys and dumps (R330 to R334), partition layouts and their journal (R335 to R337), migration (R328), and
the dies' clocks (R338, R339).
-/

namespace Sys2Proof.Machine

/-- COLD_RESET (R331, R334, R337): nothing is kept; the journal is cleared, the device key derived, and the root firmware image comes next.
What has been sent to the outside stays there, and so does what stands outside; object numbers go on from where they stood (R45; log
entry 6). -/
def State.coldReset (s : State) : State :=
  { State.reset with
    agenda := s.agenda, fresh := s.fresh, hosts := s.hosts, answers := s.answers, hostData := s.hostData, pcie := s.pcie, moved := s.moved,
    inbound := s.inbound, trouble := s.trouble, nextObj := s.nextObj, boot := { Boot.reset with keyDerived := true, step := 2 } }

/-- COLD_RESET (R331). -/
def execColdReset (s : State) : Res := .next s.coldReset

/-- The cores that an unfinished change affects (R336, R337). -/
def State.underChange (s : State) : List Nat :=
  match s.boot.shadow with
  | some l => affected s.boot.layout l
  | none => []

/-- WATCHDOG_RESET (R331, R337): the boot sequence starts over, the journal and the layouts stay, the cores that an unfinished change affects are
quiesced, and the others go on. DEDUCED, log entry 69. -/
def execWatchdogReset (s : State) : Res :=
  .next { s with boot := { s.boot with
    step := 2, watchdog := true, keyDerived := true, rootImg := none, masonImg := none, stash := none, manifest := none
    held := (s.boot.held ++ s.underChange).eraseDups } }

/-- A boot step has failed (R331): every compute core is quiesced, the ports are disabled, and a download starts again at step 2. -/
def State.failBoot (s : State) : State :=
  { s with boot := { s.boot with
    step := 2, rootImg := none, masonImg := none, stash := none, manifest := none, held := List.range 48, portsUp := false } }

/-- Bytes in a signature (R332). -/
def sigBytes : Nat := 114

/-- An image whose last 114 bytes are an Ed448ph signature over every byte before them (R332). -/
def imageOk (img : List Byte) : Bool :=
  let n := img.length - sigBytes
  sigBytes ≤ img.length && Config.signatureOk (Config.shake256 (img.take n)) (img.drop n)

/-- ROOT_FIRMWARE_IMAGE (R331). -/
def execRootFirmwareImage (img : List Byte) (s : State) : Res :=
  if s.boot.step ≠ 2 then .next s
  else if imageOk img then .next { s with boot := { s.boot with rootImg := some (Config.shake256 img), step := 3 } }
  else .next s.failBoot

/-- The number at a byte offset of an image. -/
def imgNat (img : List Byte) (off n : Nat) : Nat := leNat ((img.drop off).take n)

/-- The root records of a manifest (R332). -/
def manifestRoots (img : List Byte) : List (BitVec 2048) :=
  (List.range (imgNat img 24 2)).map fun i => BitVec.ofNat 2048 (imgNat img (4176 + 256 * i) 256)

/-- The members of a manifest (R332). -/
def manifestMembers (img : List Byte) : List Nat := (List.range (imgNat img 14 2)).map fun i => imgNat img (32 + 2 * i) 2

/-- The layout of a manifest (R332, R335). -/
def manifestLayout (img : List Byte) : Layout := { spn := (img.drop 4128).take 48, roots := manifestRoots img }

/-- The fields of a manifest are in range, its reserved bytes zero, its members ascending, EP among them, and its signature verifies (R332). -/
def manifestOk (img : List Byte) : Bool :=
  let ms := manifestMembers img
  img.take 8 == [0x43, 0x58, 0x4D, 0x4E, 0x46, 0x53, 0x54, 0x31] && imgNat img 12 2 ≤ 0xFFE
    && 1 ≤ imgNat img 14 2 && imgNat img 14 2 ≤ 2048 && 1200 ≤ imgNat img 20 4 && imgNat img 20 4 ≤ 2400
    && 1 ≤ imgNat img 24 2 && imgNat img 24 2 ≤ 48 && imgNat img 26 6 == 0
    && img.length == 4176 + 256 * imgNat img 24 2 + sigBytes
    && decide (ms.Pairwise (· < ·)) && ms.all (· ≤ 0xFFE) && ms.contains (imgNat img 12 2)
    && (List.range (2048 - imgNat img 14 2)).all (fun i => imgNat img (32 + 2 * (imgNat img 14 2 + i)) 2 == 0xFFFF)
    && (manifestLayout img).spn.all (fun b => b.toNat ≤ 16) && imageOk img

/-- A field of a context record. -/
def crField (r : BitVec 2048) (lo w : Nat) : Nat := (r.extractLsb' lo w).toNat

/-- Every two of a list satisfy p. -/
def pairs {α : Type} (p : α → α → Bool) : List α → Bool
  | [] => true
  | x :: xs => xs.all (p x) && pairs p xs

/-- The conditions of R335 on the records of a layout, with the totals of R313 in place of a parent's share. -/
def Layout.sound (l : Layout) (intake : Nat) : Bool :=
  let sum := fun lo w => (l.roots.map fun r => crField r lo w).sum
  let keys := fun r => (crField r 595 13, crField r 595 13 + crField r 581 14)
  l.spn.length == 48 && l.spn.all (fun b => b.toNat ≤ 16) && l.roots.length ≤ 48
    && l.roots.all (fun r => !crReserved r && 2 ≤ crField r 616 24 && (keys r).2 ≤ 8192 && tableFrames (crField r 616 24) ≤ crField r 640 32
      && (List.range 8).all fun n => crField r (768 + 64 * n) 32 == 0 || crField r (816 + 64 * n) 16 != 0)
    && pairs (fun a b => crField a 1728 288 &&& crField b 1728 288 == 0 && crField a 672 32 &&& crField b 672 32 == 0
      && ((keys a).1 == (keys a).2 || (keys b).1 == (keys b).2 || (keys a).2 ≤ (keys b).1 || (keys b).2 ≤ (keys a).1)) l.roots
    && sum 608 7 ≤ 124 && sum 564 12 ≤ 4096 && sum 551 13 ≤ 8192 && sum 640 32 ≤ 2 ^ 23 + 2 ^ 25
    && (List.range 8).all fun n => sum (768 + 64 * n) 32 ≤ Config.weirCapacity n intake * 2 ^ 16

/-- SPN of a core in a layout. -/
def Layout.spnOf (l : Layout) (k : Nat) : Nat := ((l.spn[k]?).getD 0).toNat

/-- What the children of a context hold fits into a record of it (R92, R313): their partitions, ways and key ranges lie within its own, and the
shares that are divided sum to no more than it has. -/
def State.coversKids (s : State) (c : Nat) (r : BitVec 2048) : Bool :=
  let sum := fun lo w => decide (s.childSum c lo w ≤ crField r lo w)
  (s.children c).all (fun d =>
      (s.partsOf d).all (fun p => r.getLsbD (1728 + p)) && subMask (s.ctxField d 672 32) (crField r 672 32)
        && decide (crField r 595 13 ≤ s.ctxField d 595 13)
        && decide (s.ctxField d 595 13 + s.ctxField d 581 14 ≤ crField r 595 13 + crField r 581 14))
    && sum 608 7 && sum 564 12 && sum 551 13 && sum 640 32 && (List.range 8).all fun n => sum (768 + 64 * n) 32

/-- The records of the contexts without a parent here that no layout names: subtrees that came from other packages (R328). -/
def State.guests (s : State) : List (BitVec 2048) :=
  (s.ctxs.filter fun p => (s.ctx p.2.parent).isNone && (p.1 = 0 || (s.boot.layout.root (p.1 - 1)).isNone)).map (·.2.cr)

/-- The conditions of R335 on the present state: roots that change are STOPPED, no window stands on a core whose SPN changes, a new root's
number is FREE, a changed record covers what its children hold (DESIGN CHOICE, log entry 70), and the roots have room beside those that came
from other packages (R92, log entry 71). -/
def State.admitsLayout (s : State) (l : Layout) : Bool :=
  let old := s.boot.layout
  (s.guests.isEmpty || ({ l with roots := l.roots ++ s.guests } : Layout).sound s.boot.intake) && (List.range 48).all (fun i => old.root i == l.root i || (match old.root i with
      | some _ => s.ctxIs (i + 1) .stopped && (match l.root i with | some r => s.coversKids (i + 1) r | none => true)
      | none => (s.ctx (i + 1)).isNone))
    && (List.range 48).all fun k => old.spnOf k == l.spnOf k || !(s.tasks.any fun t => t.holdsWin k && 0 < t.window)

/-- A layout becomes the layout of the package (R336): its roots' records, its SPN; a root whose record in the layout does not change keeps the one
that it has, with what CTXSET has set in it (R318); a new root comes RUNNING, a root without a record goes. DESIGN CHOICE, log entry 27. DESIGN CHOICE, log entry 70. -/
def State.applyLayout (s : State) (l : Layout) : State :=
  let old := s.boot.layout
  let s := (List.range 48).foldl (fun (s : State) i => if old.root i = l.root i then s else match old.root i, l.root i with
    | none, some r =>
      let x : Ctx := { cr := r, parent := 0xFFF, depth := 0, st := .running, ring := 0, log := none, counters := [] }
      { s with ctxs := alSet s.ctxs (i + 1) x }
    | some _, some r => s.modCtx (i + 1) fun x => { x with cr := r }
    | some _, none => s.deleteTree 0xFFF (s.subtree (i + 1))
    | none, none => s) s
  { s with boot := { s.boot with layout := l, laid := true }, l1 := s.l1.filter fun x => old.spnOf x.core == l.spnOf x.core }

/-- The journal is resolved after a watchdog reset (R337): rolled back before COMMITTED, forward after it. -/
def State.resolveJournal (s : State) : State :=
  let s := match s.boot.journal, s.boot.shadow with
    | .committed, some l => s.applyLayout l
    | _, _ => s
  { s with boot := { s.boot with journal := .none, shadow := none, held := [] } }

/-- Frames of a tier as the pools may hold them (R81). -/
def frameOfTier (tier : Nat) (f : BitVec 32) : Bool :=
  if tier = 0 then f.toNat < 2 ^ 23 else 2 ^ 25 ≤ f.toNat && f.toNat < 2 ^ 26

/-- The free-frame pools as root firmware loads them (R331). Pools that stand through a watchdog reset are kept. -/
def State.loadPools (s : State) : State :=
  if !s.pools.isEmpty then s
  else { s with pools := (List.range 8).map fun k => (k, ((Config.bootPool (k / 2) (k % 2)).filter (frameOfTier (k % 2))).eraseDups) }

/-- Steps 3 to 5 of R331 for a manifest, the Mason image having been verified. After a watchdog reset the layout that the journal leaves stands, and
the manifest's is not applied over it (R337; DEDUCED, log entry 69). -/
def State.finishBoot (s : State) (img : List Byte) : State :=
  if !manifestOk img then s.failBoot
  else
    let s := if s.boot.watchdog then s.resolveJournal else s
    let l := if s.boot.watchdog && s.boot.laid then s.boot.layout else manifestLayout img
    if !l.sound (imgNat img 16 4) || !s.admitsLayout l then s.failBoot
    else
      let s := (s.applyLayout l).loadPools
      let ms := (manifestMembers img).map fun e => BitVec.ofNat 12 e
      { s with boot := { s.boot with
        step := 6, watchdog := false, stash := none, manifest := some (Config.shake256 img), mver := BitVec.ofNat 32 (imgNat img 8 4),
        ep := BitVec.ofNat 12 (imgNat img 12 2), intake := imgNat img 16 4, pcap := imgNat img 20 4, members := ms, held := [], portsUp := true } }

/-- MASON_IMAGE (R331): a manifest that waits for it is then processed. -/
def execMasonImage (img : List Byte) (s : State) : Res :=
  if s.boot.step ≠ 3 ∨ s.boot.masonImg.isSome then .next s
  else if !imageOk img then .next s.failBoot
  else
    let s := { s with boot := { s.boot with masonImg := some (Config.shake256 img) } }
    match s.boot.stash with
    | some m => .next (s.finishBoot m)
    | none => .next s

/-- BOOT_MANIFEST (R331, R332). -/
def execBootManifest (img : List Byte) (s : State) : Res :=
  if s.boot.step ≠ 3 then .next s
  else if s.boot.masonImg.isSome then .next (s.finishBoot img)
  else if manifestOk img then .next { s with boot := { s.boot with stash := some img } }
  else .next s.failBoot

/-- The bytes of a layout whose digest is reported (R334; DESIGN CHOICE, log entry 121). -/
def Layout.bytes (l : Layout) : List Byte := l.spn ++ l.roots.flatMap fun r => leBytes 256 r.toNat

/-- SPDM_REQUEST (R334): the digests of the three images, MVER and the committed layout's digest, signed with the device key. Of an image that has not
been verified it reports 0, and of MVER and the layout what stands (DESIGN CHOICE, log entry 121). -/
def execSpdmRequest (req : List Byte) (s : State) : Res :=
  match s.boot.rootImg with
  | none => .next s
  | some d =>
    let b := s.boot
    let m := [d, b.masonImg.getD 0, b.manifest.getD 0, b.mver.setWidth 512, Config.shake256 b.layout.bytes]
    .next { s with pcie := s.pcie ++ [Config.spdmAnswer Config.deviceKey m req] }

/-- The tweak of a 16-byte block of a page (R78): OBJ_ID, page number, block index from bits 59, 12 and 0 up. -/
def tweakOf (pk : Nat) (b : Nat) : BitVec 128 := BitVec.ofNat 128 (pk / 2 ^ 35 * 2 ^ 44 + pk % 2 ^ 24 * 2 ^ 12 + b)

/-- What the tier's bytes of a page, written under one key, read as under another (R78). -/
def State.rekeyPage (s : State) (old new : BitVec 512) (p : Nat × BitVec 32) : State :=
  { s with mem := (List.range 4096).foldl (fun m b =>
      let a := p.2.toNat * 65536 + 16 * b
      m.write a (leBytes 16 (Config.rekey old new (tweakOf p.1 b) (bitsOfBytes 128 (m.read a 16))).toNat)) s.mem }

/-- The pages here of the objects of a key slot. -/
def State.slotPages (s : State) (slot : BitVec 13) : List (Nat × BitVec 32) :=
  s.pages.filter fun p => match alGet s.objs (p.1 / 2 ^ 35) with | some o => o.keyslot == slot | none => false

/-- A key slot takes a key: the frames that were written under another key read otherwise from then on (R78). -/
def State.loadKey (s : State) (slot : BitVec 13) (key : BitVec 512) : State :=
  let s1 := match alGet s.keys slot.toNat with
    | some old => if old = key then s else (s.slotPages slot).foldl (fun s p => s.rekeyPage old key p) s
    | none => s
  { s1 with keys := alSet s1.keys slot.toNat key }

/-- KEY_SLOT_LOAD (R78, R330, R334): `who` 0 is root firmware, with a key that arrived in an SPDM secure session; anyone else is refused. -/
def execKeySlotLoad (who : BitVec 2) (slot : BitVec 13) (key : BitVec 512) (s : State) : Res :=
  if who = 0 ∧ s.boot.rootImg.isSome then .next (s.loadKey slot key) else .next s

/-- The dump of a set (R83): its 32 tags from tag 0 on, 28 bytes each, then the map of its free sectors, bit k for sector k. -/
def L2Set.dump (st : L2Set) : List Byte :=
  (st.tags.toList.flatMap fun t => leBytes 28 t.bits.toNat) ++ leBytes 16 (st.freeSectors.map fun k => 2 ^ k).sum

/-- L2_SET_DUMP (R83, R330): `who` 0 is root firmware. -/
def execL2SetDump (who : BitVec 2) (slice : BitVec 2) (set : BitVec 16) (s : State) : Res :=
  if who = 0 ∧ s.boot.rootImg.isSome then
    .next { s with pcie := s.pcie ++ [(s.l2set (slice.toNat * 65536 + set.toNat)).dump] }
  else .next s

/-- A task runs on one of the cores. -/
def State.coresBusy (s : State) (ks : List Nat) : Bool := s.tasks.any fun t => t.st == .running && ks.contains t.coreNo

/-- The end of the prepare phase (R336): once no task runs on the affected cores, they are held and PREPARED is journalled. -/
def State.prepared (s : State) (l : Layout) : State :=
  let ks := affected s.boot.layout l
  if s.coresBusy ks then s else { s with boot := { s.boot with held := ks, journal := .prepared } }

/-- Root firmware runs and boot has ended (R330, R331). -/
def State.rootRuns (s : State) : Bool := s.boot.rootImg.isSome && s.boot.step == 6

/-- LAYOUT_CHANGE (R330, R335, R336), of root firmware alone. Asked again for the change under way, it goes on with the prepare phase. -/
def execLayoutChange (spn : List Byte) (roots : List (BitVec 2048)) (s : State) : Res :=
  let l : Layout := { spn := spn, roots := roots }
  if !s.rootRuns then .next s
  else match s.boot.shadow with
    | some x => if x = l ∧ s.boot.journal = .none then .next (s.prepared l) else .next s
    | none =>
      if !l.sound s.boot.intake || !s.admitsLayout l then .next s
      else
        let ks := affected s.boot.layout l
        let s := s.askLeave (fun t => ks.contains t.coreNo) fun x => { x with system := true }
        .next ({ s with boot := { s.boot with shadow := some l, journal := .none } }.prepared l)

/-- LAYOUT_COMMIT (R330, R336), of root firmware alone: the change under way goes on by one act. Once no task runs on the affected cores, PREPARED is
journalled; the shadow becomes the layout with COMMITTED; the cores' release goes with FINISHED. -/
def execLayoutCommit (s : State) : Res :=
  if !s.rootRuns then .next s
  else match s.boot.shadow with
    | none => .next s
    | some l => match s.boot.journal with
      | .none => .next (s.prepared l)
      | .prepared =>
        let s := s.applyLayout l
        .next { s with boot := { s.boot with journal := .committed } }
      | _ => .next { s with boot := { s.boot with journal := .finished, shadow := none, held := [] } }

/-- What a migration takes along (R328). -/
def State.carry (s : State) (ep : BitVec 12) (cs : List Nat) : Moved :=
  let ts := s.tasks.filter fun t => cs.contains t.ctx
  let named := (s.handles.filter fun h => cs.contains (h.1 / 2 ^ 24) && h.2.st != .free).map (·.2.oid.toNat)
  let maps := named.filterMap fun k => (alGet s.objs k).map (·.hmap.toNat)
  { ep := ep, objs := s.objs.filter (fun p => (named ++ maps).contains p.1), remote := [], events := s.events.filter (fun e => cs.contains e.ctx), ctxs := s.ctxs.filter (fun x => cs.contains x.1), handles := s.handles.filter (fun h => cs.contains (h.1 / 2 ^ 24)),
    groups := s.groups.filter (fun g => cs.contains (g.1 / 2 ^ 32)), trigs := s.trigs.filter (fun t => cs.contains t.ctx), tasks := ts,
    slots := s.slots.filter (fun p => ts.any fun t => p.2.ownedBy t), tiles := s.tiles.filter fun p => cs.contains p.2.ctx }

/-- A subtree leaves for another package (R77, R328): its windows close, its objects keep their homes, and the events that wait for room in its
rings go with it. -/
def State.depart (s : State) (ep : BitVec 12) (cs : List Nat) : State :=
  let m := s.carry ep cs
  { s with
    t := if cs.contains s.t.ctx then Task.idle else s.t, others := s.others.filter fun t => !cs.contains t.ctx, moved := s.moved ++ [m],
    ctxs := s.ctxs.filter fun x => !cs.contains x.1, handles := s.handles.filter fun h => !cs.contains (h.1 / 2 ^ 24),
    groups := s.groups.filter fun g => !cs.contains (g.1 / 2 ^ 32), trigs := s.trigs.filter fun t => !cs.contains t.ctx,
    slots := s.slots.filter fun p => !(m.slots.any fun q => q.1 == p.1), tiles := s.tiles.filter fun p => !cs.contains p.2.ctx,
    wins := s.wins.filter fun w => !cs.contains w.ctx, events := s.events.filter fun e => !cs.contains e.ctx, transfers := s.transfers.filter fun x => !cs.contains x.ctx,
    weirs := s.weirs.map fun (w : Nat × Weir) => (w.1, { w.2 with buckets := w.2.buckets.filter fun b => !cs.contains b.ctx }),
    objs := s.objs.map fun (p : Nat × Obj) => if cs.contains p.2.ownerCtx.toNat && p.2.ownerEp == s.boot.ep then (p.1, { p.2 with ownerEp := ep }) else p }.settle

/-- A task names a tile that a migration brings (R205, R328). -/
def Task.brings (t : Task) (p : Nat × Tile) : Bool := t.core == some (p.1 / 16) && p.2.ctx == t.ctx && t.ownsAcc (p.1 % 16)

/-- A task that arrives from another package (R328): under a new ID, its window copied out, its tiles too, of those that it shares with other tasks the
ones that none before it has taken (R205), and to resume as from a forced save. -/
def Task.arrives (t : Task) (m : Moved) (id : BitVec 64) : Task :=
  let mine := m.tiles.filter fun p => (m.tasks.find? fun u => u.brings p).any fun u => u.id == t.id
  { t with
    id := id, wasForced := t.core.isSome, spilled := t.core.isSome && 0 < t.window
    spillTiles := t.spillTiles ++ mine.map fun p => (p.1 % 16, p.2) }

/-- An event record names another task. -/
def EvItem.rename (e : EvItem) (old new : BitVec 64) : EvItem :=
  if e.ev.extractLsb' 64 64 = old then
    { e with ev := (e.ev &&& ~~~(BitVec.ofNat 512 ((2 ^ 64 - 1) * 2 ^ 64))) ||| BitVec.ofNat 512 (new.toNat * 2 ^ 64) }
  else e

/-- A task enters the pool of its die, its slots with it, and the events of it that wait, the last of the list, come under its new ID (R269, R323,
R328). -/
def State.land (s : State) (m : Moved) (t : Task) : Option State :=
  (s.enter (dieOfId t.id) fun id => { t.arrives m id with readyAt := s.clk }).map fun p =>
    let n := p.1.events.length - m.events.length
    { p.1 with
      slots := (m.slots.filter fun q => q.2.ownedBy t).foldl (fun l q => alSet l q.1 { q.2 with owner := p.2 }) p.1.slots
      events := p.1.events.take n ++ List.zipWith (fun e o => if o.ev.extractLsb' 64 64 == t.id then e.rename t.id p.2 else e) (p.1.events.drop n) m.events }

/-- The root of a subtree that another package sends: its context without a parent among the others. -/
def Moved.top (m : Moved) : Option (Nat × Ctx) := m.ctxs.find? fun x => !(m.ctxs.any fun y => y.1 == x.2.parent)

/-- The parent that such a root takes (R92, R313, R328): the context of its parent's number here when its share fits into that one's own; or none,
when it fits beside the roots. DESIGN CHOICE, log entry 71. -/
def State.topParent (s : State) (x : Ctx) : Option Nat :=
  let roots := (s.ctxs.filter fun p => (s.ctx p.2.parent).isNone).map (·.2.cr)
  if (s.ctx x.parent).isSome && (s.newStatus x.parent x.cr).isNone then some x.parent
  else if ({ s.boot.layout with roots := roots ++ [x.cr] } : Layout).sound s.boot.intake then some 0xFFF
  else none

/-- Depth of a root with a parent or none. -/
def State.topDepth (s : State) (p : Nat) : Nat := match s.ctx p with | some x => x.depth + 1 | none => 0

/-- A context of a subtree that arrives below parent p, its depth counted anew. -/
def Moved.place (m : Moved) (p d : Nat) (x : Nat × Ctx) : Nat × Ctx :=
  match m.top with
  | some t => (x.1, { x.2 with parent := if x.1 = t.1 then p else x.2.parent, depth := x.2.depth + d - t.2.depth })
  | none => x

/-- Where the root of a subtree comes to stand, when no context of the subtree would lie deeper than 7 (R312). -/
def State.topSeat (s : State) (m : Moved) : Option (Nat × Nat) :=
  m.top.bind fun t => (s.topParent t.2).bind fun p =>
    if m.ctxs.all fun x => decide (x.2.depth + s.topDepth p ≤ 7 + t.2.depth) then some (p, s.topDepth p) else none

/-- The numbers of a subtree that another package sends are FREE here, and so are the slots that its tasks hold (R328); its share fits (R92), and no
change of the layout, judged without it, is under way (log entry 71). -/
def State.takes (s : State) (m : Moved) : Bool :=
  (s.topSeat m).isSome && s.boot.shadow.isNone &&
  m.ctxs.all (fun x => (s.ctx x.1).isNone && !(s.handles.any fun h => h.1 / 2 ^ 24 == x.1 && h.2.st != .free))
    && m.slots.all fun p => (s.slot (p.1 / 128) (p.1 % 128)).st == .free

/-- A trigger that arrives keeps its number when it is free here, and takes the lowest free one otherwise. DESIGN CHOICE, log entry 71. -/
def State.landTrig (s : State) (t : Trigger) : State :=
  let used := s.trigs.map (·.num)
  let n := if used.contains t.num then (lowestFree used 0 8192).getD t.num else t.num
  { s with trigs := s.trigs ++ [{ t with num := n }] }

/-- The object-table entry of an object as another package sends it: an object homed on a peer is reached there (R63, R71, R328). -/
def Obj.away (o : Obj) (ep : BitVec 12) : Obj :=
  { o with moving := false, res := if o.shcnt = 0 ∧ o.home ≠ ep ∧ o.res.toNat < 2 then 2 else o.res }

/-- The object-table entries that a subtree brings, with what their homes hold; an object that is known here stands as it is (R328). -/
def State.landObjs (s : State) (m : Moved) : State :=
  let new := m.objs.filter fun p => (alGet s.objs p.1).isNone
  let its := fun (a : Nat) => new.any fun p => p.1 == a / 2 ^ 52
  { s with
    objs := new.foldl (fun l p => alSet l p.1 (p.2.away s.boot.ep)) s.objs
    remote := (m.remote.filter fun c => its c.1).foldl (fun r c => r.write c.1 [c.2]) s.remote }

/-- A subtree arrives (R328): its contexts, STOPPED until they run, its objects' entries, its handles, groups and triggers, its tasks under new IDs
and the events that wait for room in its rings; a trigger whose version has been reached fires (R70). None while a pool is full. DESIGN CHOICE, log
entry 71. -/
def State.landTree (s : State) (m : Moved) : Option State :=
  let seat := (s.topSeat m).getD (0xFFF, 0)
  let s := s.landObjs m
  let s1 := { s with
    events := s.events ++ m.events
    ctxs := (m.ctxs.map (m.place seat.1 seat.2)).foldl (fun l x => alSet l x.1 x.2) s.ctxs, handles := m.handles.foldl (fun l h => alSet l h.1 h.2) s.handles,
    groups := m.groups.foldl (fun l g => alSet l g.1 g.2) s.groups, inbound := s.inbound.erase m,
    objs := s.objs.map fun (p : Nat × Obj) =>
      if p.2.ownerEp == m.ep && m.ctxs.any (fun x => x.1 == p.2.ownerCtx.toNat) then (p.1, { p.2 with ownerEp := s.boot.ep }) else p }
  (m.tasks.foldl (fun (acc : Option State) t => acc.bind fun s => s.land m t) (some (m.trigs.foldl State.landTrig s1))).map fun s => s.fireTriggers.settle

/-- Mason takes a subtree that another package has sent (R328). -/
def State.admitTree (s : State) (ctx : Nat) : State :=
  match s.inbound.find? fun m => (m.ctxs.any fun x => x.1 == ctx) && s.takes m with
  | some m => (s.landTree m).getD s
  | none => s

/-- A request of a subtree stands before Mason, or a prefetch of it waits: they are answered before it moves (R328; DESIGN CHOICE, log entry 71). -/
def State.treeAsks (s : State) (cs : List Nat) : Bool :=
  (s.intake.any fun p => cs.contains p.2.source.1) || (s.mason.any fun r => cs.contains r.source.1) || s.fired.any fun t => cs.contains t.ctx

/-- MIGRATION (R305, R328): Mason asks the running tasks of a subtree to leave; once it is stopped, its saves are complete and its requests answered,
it moves. With this package's own endpoint, a subtree that another package has sent comes in. DESIGN CHOICE, log entry 71. -/
def execMigration (ctx : Nat) (ep : BitVec 12) (s : State) : Res :=
  let cs := s.subtree ctx
  if ep = s.boot.ep then .next (s.admitTree ctx)
  else if cs.isEmpty ∨ !s.boot.members.contains ep then .next s
  else if s.subtreeRuns ctx then .next (s.askLeave (fun t => cs.contains t.ctx && !t.x.system) fun x => { x with system := true })
  else if !s.ctxIs ctx .stopped ∨ (s.tasks.any fun t => cs.contains t.ctx && t.saving) ∨ s.treeAsks cs then .next s
  else .next (s.depart ep cs)

/-- A die's clock changed. -/
def State.modDie (s : State) (die : Nat) (f : Die → Die) : State :=
  { s with dies := Vector.ofFn fun (i : Fin 4) => if i.val = die then f s.dies[i] else s.dies[i] }

/-- A die's clock cut by 1/16 of nominal, down to 8/16 (R338). DESIGN CHOICE, log entry 77. -/
def Die.cut (d : Die) : Die := { d with clock := max 8 (d.clock - 1), since := 0 }

/-- DROOP_RESPONSE (R338). -/
def execDroopResponse (die : Nat) (s : State) : Res := .next (s.modDie die Die.cut)

/-- CLOCK_RECOVERY (R338): 1/16 after 1,024 clk. -/
def execClockRecovery (die : Nat) (s : State) : Res :=
  .next (s.modDie die fun d => if d.clock < 16 ∧ 1024 ≤ d.since then { d with clock := d.clock + 1, since := 0 } else d)

/-- Dies of a package: the four compute dies, the SRAM die beneath each, the I/O die (01_package_and_journey.md). -/
def packageDies : Nat := 9

/-- OVERTEMPERATURE (R339): a die at 115 °C causes a cold reset of the module. -/
def execOvertemperature (die : Nat) (s : State) : Res := .next (if die < packageDies then s.coldReset else s)

/-- Mason stops a root at the context unit, or runs it (R329, R335): as CTXSTOP and CTXRUN do for a child. It acts on a context that has no parent
here, and leaves a root that the change of the layout under way changes as it is. DESIGN CHOICE, log entry 27. -/
def State.runRoot (s : State) (c : Nat) (run : Bool) : State :=
  let changes : Bool := match s.boot.shadow with
    | some l => decide (1 ≤ c) && l.root (c - 1) != s.boot.layout.root (c - 1)
    | none => false
  if s.boot.step ≠ 6 ∨ (s.ctx (s.parent c)).isSome ∨ s.ctxIs c .deleting ∨ changes then s
  else if run then (s.modCtx c fun x => { x with st := .running }).settle
  else (s.modCtx c fun x => { x with st := .stopped }).stopTasks c

/-- JUNCTION_LIMIT (R339): root firmware steps the clock of a die at 105 °C down. -/
def execJunctionLimit (die : Nat) (s : State) : Res := .next (if s.boot.rootImg.isSome then s.modDie die Die.cut else s)

/-- POWER_CAP (R339): the draw has reached PCAP, and root firmware steps every die's clock down. -/
def execPowerCap (s : State) : Res := .next (if s.boot.step = 6 then { s with dies := s.dies.map Die.cut } else s)

end Sys2Proof.Machine
end

