-- ==== Sys2Proof/Machine/Device.lean ====
section
/-!
DEFINITION. What the package's devices and the outside do: L2 operations (R88 to R97), requests from peers (R71), spawn ports and host windows
(R75 to R77), and Mason's answers to fault requests and reflected traps (R300, R323).
-/

namespace Sys2Proof.Machine

/-- L2_FILL (R74, R88, R89, R97): a line that is poisoned or cannot be corrected is not delivered. -/
def execL2Fill (ctx : Nat) (pa : BitVec 48) (noalloc : Bool) (s : State) : Res := .next (s.l2fill ctx pa noalloc true).1

/-- L2_INSTALL (R88, R89, R95): of a line that no request holds pending, the miss reserves its tag and marks it pending; of a pending line, the
line read from its tier takes its sectors, or is not installed when it is poisoned or finds no room, a bypass of the context. A line that the
L2 holds is accessed (R83). -/
def execL2Install (ctx : Nat) (pa : BitVec 48) (s : State) : Res :=
  if (s.l2line pa).isSome then .next (s.l2touch pa)
  else match s.l2pending pa with
    | some _ =>
      let s1 := s.l2install pa
      .next (if (s1.l2line pa).isNone && !s1.lineBad pa then s1.count ctx 0x010D 1 else s1)
    | none => if s.lineBad pa then .next s
      else .next ((s.l2reserve ctx pa).getD (s.count ctx 0x010D 1))

/-- L2_LINE_WRITE (R74, R90, R97): a write of part of a line that is poisoned or cannot be corrected ends in FETCH-ERROR. -/
def execL2LineWrite (ctx : Nat) (pa : BitVec 48) (data mask : BitVec 512) (noalloc : Bool) (s : State) : Res :=
  if mask ≠ BitVec.allOnes 512 ∧ s.lineBad pa then .next ((s.l2lose pa).tearLine (lineAddr pa) data mask)
  else .next (s.l2write ctx pa data mask noalloc)

/-- L2_PIN (R96). -/
def execL2Pin (ctx : Nat) (pa : BitVec 48) (s : State) : Res := .next (s.l2pin ctx pa)

/-- L2_INVALIDATION (R91). -/
def execL2Invalidation (frame : BitVec 32) (wb : Bool) (s : State) : Res := .next (s.l2invalidate frame.toNat wb)

/-- What has been answered to the outside, with data for a read. -/
def State.answer (s : State) (a : BitVec 2) (data : List (List Byte)) : State :=
  { s with answers := s.answers ++ [a], hostData := s.hostData ++ data }

/-- The counters of a context as they stood: a peer's counts return with its reply (R98). DEDUCED, log entry 73. -/
def State.keepCounters (s old : State) (c : Nat) : State :=
  match old.ctx c with
  | some x => s.modCtx c fun y => { y with counters := x.counters }
  | none => s

/-- What a peer's request has presented to the weirs here, told from what contexts of this package present (R71, R292). -/
def State.markPeer (s old : State) : State :=
  { s with transfers := s.transfers.zipIdx.map fun p => if old.transfers.length ≤ p.2 then { p.1 with peer := true } else p.1 }

/-- The frames of the pages that a request writes, without a dirty log: none when a pool or a quota is spent (R301). -/
def State.framesFor (s : State) (die : Nat) (oid : BitVec 48) (o : Obj) (sh : Nat) : List Nat → Option State
  | [] => some s
  | p :: ps => match s.ensureFrame die oid o sh p with
    | .ok s1 => s1.framesFor die oid o sh ps
    | .error _ => none

/-- ACCEPTED, or done (R75, R77). -/
def ansACCEPTED : BitVec 2 := 0
/-- POOL-FULL (R75). -/
def ansFULL : BitVec 2 := 1
/-- REJECTED (R75, R77). -/
def ansREJECTED : BitVec 2 := 2

/-- What an atomic of a peer writes for an old value and its operand bytes (R71, R241): kinds 3 to 9 in the order of R241's table from `AADD`
to `ACAS`, 10 is `AFADD`, 11 and 12 are the unsigned `AMAX` and `AMIN`. -/
def peerAtomic (kind n old : Nat) (data : List Byte) : Option Nat :=
  let v := leNat (data.take n)
  match kind with
  | 3 => some (old + v)
  | 4 => some (if atVal false n old < atVal false n v then v else old)
  | 5 => some (if atVal false n v < atVal false n old then v else old)
  | 6 => some (old &&& v)
  | 7 => some (old ||| v)
  | 8 => some v
  | 9 => if old = v then some (leNat ((data.drop n).take n)) else none
  | 10 => some (fAdd .f32 old v).1
  | 11 => some (if old < v then v else old)
  | _ => some (if v < old then v else old)

/-- A peer's request answered with FETCH-ERROR, its subcode the one byte of data (R71, R73). -/
def State.peerError (s : State) (e : Nat) : State := s.answer ansREJECTED [[BitVec.ofNat 8 e]]

/-- Bytes read for a peer and what k makes of them, or FETCH-ERROR. -/
def State.peerRead (s : State) (ctx : Nat) (oid : BitVec 48) (o : Obj) (sh off n : Nat) (k : State → List Byte → State) : State :=
  match s.readObj 48 ctx oid o sh off n false false with
  | (s1, .ok bs) => k s1 bs
  | (s1, .error e) => s1.peerError e

/-- Bytes written for a peer, or FETCH-ERROR. -/
def State.peerStore (s : State) (ctx : Nat) (oid : BitVec 48) (o : Obj) (sh off : Nat) (bs : List Byte) (data : List (List Byte)) : State :=
  match s.writeObj 48 ctx oid o sh off bs false with
  | (s1, none) => s1.answer ansACCEPTED data
  | (s1, some e) => s1.peerError e

/-- A request of a peer on an object whose shard lies here (R71): kind 0 reads, 1 writes, and the others are the atomics of `peerAtomic`. -/
def State.peerServe (s : State) (ctx die : Nat) (oid : BitVec 48) (o : Obj) (sh off n kind : Nat) (data : List Byte) : State :=
  if kind = 0 then s.peerRead ctx oid o sh off n fun s1 bs => s1.answer ansACCEPTED [bs]
  else match s.framesFor (die % 4) oid o sh (pagesOf off (if kind = 1 then (data.take n).length else n)) with
    | none => s
    | some s1 =>
      if kind = 1 then s1.peerStore ctx oid o sh off (data.take n) []
      else s1.peerRead ctx oid o sh off n fun s2 bs => match peerAtomic kind n (leNat bs) data with
        | none => s2.answer ansACCEPTED [bs]
        | some x => s2.peerStore ctx oid o sh off (leBytes n x) [bs]

/-- PEER_REQUEST (R64, R71): kind 2 asks the directory home for an object-table entry; any other is a request that its package has checked and
resolved, served here for the requester's context tag. Once the object's frames have been copied for a move, it waits (R56, R66). -/
def execPeerRequest (ctx die : Nat) (oid : BitVec 48) (sh off n : Nat) (kind : BitVec 4) (data : List Byte) (s : State) : Res :=
  match s.obj oid with
  | none => .next s
  | some o =>
    if !s.boot.portsUp then .next s
    else if kind = 2 then
      if s.dirHome oid = s.boot.ep then .next (s.answer ansACCEPTED [leBytes 128 (o.bits oid).toNat]) else .next (s.answer ansREJECTED [])
    else if 2 ≤ s.placeOf o sh ∨ o.shardBytes sh < off + n ∨ s.moves.any (fun m => m.oid == oid && m.copied) then .next s
    else .next (((s.peerServe ctx die oid o sh off n kind.toNat data).keepCounters s ctx).markPeer s)

/-- First fabric offset of the spawn ports (R75). -/
def spawnBase : Nat := 0x004000000000
/-- First fabric offset of the host windows (R77). -/
def windowBase : Nat := 0x0001000000000000

/-- A fabric offset of the spawn ports (R75). -/
def inSpawn (off : Nat) : Bool := spawnBase ≤ off && off < spawnBase + 4096 * 4096

/-- A context admits an endpoint to its spawn port (R75, R312). -/
def State.admits (s : State) (c : Nat) (ep : BitVec 12) : Bool :=
  s.ctxField c 512 1 == 1 && (List.range 4).any fun t => s.notifyEp c t == some ep.toNat

/-- SPAWN_PORT_WRITE (R49, R75, R268, R269). DEDUCED, log entry 75. -/
def execSpawnPortWrite (ep : BitVec 12) (off : Nat) (data : List Byte) (s : State) : Res :=
  let x := off - spawnBase
  let c := x / 4096
  let die := x % 4096 / 128
  if !s.boot.portsUp ∨ !inSpawn off then .next s
  else if data.length ≠ 128 ∨ x % 128 ≠ 0 ∨ 4 ≤ die ∨ !s.admits c ep then .next (s.answer ansREJECTED [])
  else
    let r := bitsOfBytes 1024 data
    match s.recordChecked c die r { eng := 0, op := 0 } with
    | .stall => .next s
    | .trap i => .next ((s.reportTrap i).answer ansREJECTED [])
    | .ok rc => match s.fillEntry die r rc with
      | none => .next (s.answer ansFULL [])
      | some (s', _) => .next (s'.answer ansACCEPTED [])

/-- The bounds of a window access (R47, R77): every element that holds one of its bytes lies in the effective box.
The last byte of the storage may hold bits of no element (R51). -/
def windowBounds (a : Acc) (x n : Nat) : Bool :=
  let e := a.o.width
  let last := min ((8 * (x + n) - 1) / e) (a.o.extent 0 * a.o.extent 1 * a.o.extent 2 * a.o.extent 3 - 1)
  x + n ≤ a.o.bytes && (n == 0 || (List.range (last - 8 * x / e + 1)).all fun i =>
    (boundsChecked a (a.o.tuple (8 * x / e + i)) (fun _ => 1) { eng := 0, op := 0 } [0, 1, 2, 3]).isNone)

/-- A host write that finds a dirty log's ring full waits, and the first of an episode tells the parent (R303, R323). -/
def State.hostLogFull (s : State) (c : Nat) (oid : BitVec 48) (page : Nat) : State :=
  match s.newEpisode c with
  | none => s
  | some s1 => s1.deliverEvent c 0 fun chain => eventRec none (oid.setWidth 64) (BitVec.ofNat 64 page) 0 chain 0 0 0 0 0x0F 3

/-- A host's read or write through an open window that has passed its checks (R77); one that ends in FETCH-ERROR is answered REJECTED.
DESIGN CHOICE, log entry 72. -/
def State.windowAccess (s : State) (w : Window) (a : Acc) (x n : Nat) (wr : Bool) (data : List Byte) : State :=
  if wr then match State.prepPages 0 w.ctx a.oid a.o 0 (pagesOf x n) s with
    | .noFrame .. => s.answer ansREJECTED []
    | .logFull c => s.hostLogFull c a.oid (x / 65536)
    | .stall => s
    | .ready s1 => match s1.writeObj 48 w.ctx a.oid a.o 0 x data false with
      | (s2, none) => s2.answer ansACCEPTED []
      | (s2, some _) => s2.answer ansREJECTED []
  else match s.readObj 48 w.ctx a.oid a.o 0 x n false false with
    | (s1, .ok bs) => s1.answer ansACCEPTED [bs]
    | (s1, .error _) => s1.answer ansREJECTED []

/-- HOST_WINDOW_ACCESS (R75, R77): `kind` 0 reads, 1 writes, 2 and 3 are atomic. A read of a spawn port returns zero. -/
def execHostWindowAccess (ep : BitVec 12) (off n : Nat) (kind : BitVec 2) (data : List Byte) (s : State) : Res :=
  let x := (off - windowBase) % 2 ^ 36
  let wr := kind == 1
  if !s.boot.portsUp then .next s
  else if inSpawn off ∧ kind = 0 then .next (s.answer ansACCEPTED [List.replicate n 0])
  else if off < windowBase then .next s
  else match s.wins.find? fun w => w.num == (off - windowBase) / 2 ^ 36 with
    | none => .next (s.answer ansREJECTED [])
    | some w =>
      let need := if wr then rWRITE else rREAD
      let who : Who := { eng := 0, op := 0 }
      if w.ep ≠ ep ∨ 2 ≤ kind.toNat ∨ (wr ∧ data.length ≠ n) then .next (s.answer ansREJECTED [])
      else match (s.entryChecked w.ctx (w.handle.setWidth 64) who).bind fun p =>
          (s.objChecked p.1 p.2 who (!s.byReplica p.2.oid need)).bind fun a => rightsChecked a w.rights need who with
        | .stall => .next s
        | .trap i => .next ((s.reportTrap i).answer ansREJECTED [])
        | .ok a =>
          if s.shardStalls a.o 0 need then .next s
          else if !windowBounds a x n ∨ a.o.res = 3 then .next (s.answer ansREJECTED [])
          else .next (s.windowAccess w a x n wr data)

/-- A request of any task is answered (R300). -/
def State.answerTask (s : State) (no : Nat) (p : Progress) : State := (s.mapTasks fun t => t.answer no p).settle

/-- A frame moves from another die's pool of a tier to an empty one (R301). -/
def State.refillPool (s : State) (die tier : Nat) : State :=
  match (List.range 4).find? fun d => d != die && !(s.pool d tier).isEmpty with
  | none => s
  | some d =>
    let f := (s.pool d tier).take 1
    let ps := alSet s.pools (d * 2 + tier) ((s.pool d tier).drop 1)
    { s with pools := alSet ps (die * 2 + tier) (s.pool die tier ++ f) }

/-- What Mason does before he replies RESOLVED (R300): an absent object's contents come back, an empty pool gets a frame. -/
def State.repair (s : State) (part : Nat) (i : TrapInfo) : State :=
  let die := dieOfCore (coreOfPart part)
  let oid := i.x2.setWidth 48
  match i.cause with
  | .missingObject => s.bringBack die oid
  | .framePoolEmpty => match s.obj oid with
    | some o => if i.x0.extractLsb' 0 8 = 1 ∧ (s.pool die (o.res.toNat % 2)).isEmpty then s.refillPool die (o.res.toNat % 2) else s
    | none => s
  | _ => s

/-- MASON_REPLY_RESOLVED (R300): the access repeats its checks. -/
def execMasonReplyResolved (s : State) : Res :=
  s.serveReq (fun s r => match r with
    | .fault no _ part i => some (0, .begun ((s.repair part i).answerTask no .resolved))
    | _ => none) [] s.mason

/-- MASON_REPLY_FAILED (R300): the trap is raised to the task. -/
def execMasonReplyFailed (s : State) : Res :=
  s.serveReq (fun s r => match r with
    | .fault no _ _ i => some (0, .begun (s.answerTask no (.failed i)))
    | _ => none) [] s.mason

/-- MASON_ENDS_TASK (R323): Mason takes an event that found no usable ring, and ends the task of a reflected trap. -/
def execMasonEndsTask (s : State) : Res :=
  s.serveReq (fun s r => match r with
    | .event _ id ev => some (0, .begun (match s.taskById id with
      | some t => if ev.extractLsb' 0 8 = 1 ∧ t.st = .reflected ∧ t.told = 0 then s.killTask id else s
      | none => s))
    | _ => none) [] s.mason

end Sys2Proof.Machine
end

