-- ==== Sys2Proof/Machine/Weirs.lean ====
section
/-!
DEFINITION. The weirs (R287 to R292): refill, arbitration, lending and what a grant does; and the scratchpad banks' arbitration (R133).
-/

namespace Sys2Proof.Machine

/-- A request that waits at a weir: its context and partition (288: none), the clk since which it waits, its units, its place, whether a peer's
context has sent it. -/
structure WItem where
  ctx : Nat
  part : Nat
  since : Nat
  units : Nat
  place : Nat
  peer : Bool := false
  deriving DecidableEq, Repr

/-- The task that runs on a partition under execution. -/
def State.atPart (s : State) (p : Nat) : State := if s.t.st = .running ∧ s.t.part = p then s else s.focus p

/-- The matrix word that a partition's task presents to its core's matrix-issue weir (R202, R289): its context, its clk of occupancy and the
clk since which it is eligible. A word that the weir has granted is presented no more, and a quiesced core presents none (R331). -/
def State.matRequest (s : State) (p : Nat) : Option (Nat × Nat × Nat) :=
  let s := s.atPart p
  if s.t.st = .running ∧ s.t.part = p ∧ !s.grants.contains p ∧ !s.boot.held.contains (coreOfPart p) ∧ s.matEligible then
    s.t.mq.head?.map fun e => (s.t.ctx, occOf e.w, s.t.eligAt.getD (s.weirNow 0 (coreOfPart p)))
  else none

/-- The requests that wait at a weir (R287, R289): the matrix words at the head of their queues, the transfers, walks, lines, accesses and
flits that have been presented, the service requests at the intake. -/
def State.weirReqs (s : State) (cls unit : Nat) : List WItem :=
  match cls with
  | 0 => (List.range 6).filterMap fun n =>
      (s.matRequest (6 * unit + n)).map fun r => { ctx := r.1, part := 6 * unit + n, since := r.2.2, units := r.2.1, place := n }
  | 7 => s.intake.zipIdx.map fun q =>
      { ctx := q.1.2.source.1, part := q.1.2.source.2, since := q.1.1, units := 1, place := q.2 }
  | _ => s.transfers.zipIdx.filterMap fun q =>
      if q.1.cls = cls ∧ q.1.unit = unit then
        some { ctx := q.1.ctx, part := q.1.part, since := q.1.since, units := 1, place := q.2, peer := q.1.peer } else none

/-- A bucket replaced. -/
def Weir.put (w : Weir) (b : Bucket) : Weir :=
  { w with buckets := (w.buckets.filter fun x => x.ctx < b.ctx) ++ [b] ++ w.buckets.filter fun x => b.ctx < x.ctx }

/-- The refill of a weir in n of its clk: every context with a descriptor there (R288, R289). DESIGN CHOICE, log entry 74. -/
def State.refill (s : State) (cls n : Nat) (w : Weir) : Weir :=
  s.ctxs.foldl (fun w p =>
    let c := p.1
    if s.ctxField c (768 + 64 * cls) 64 = 0 then w
    else
      let b := w.bucket c
      let top : Int := s.weirDepth c cls * 2 ^ 26
      let x : Int := b.tokens + n * s.ownRate c cls
      w.put { b with tokens := if top < x then top else x }) w

/-- Weirs of a class: cores, dies, L2 slices, controllers, ports, the intake (R287). -/
def weirUnits (cls : Nat) : Nat :=
  match cls with | 0 => 48 | 1 => 48 | 2 => 4 | 3 => 4 | 4 => 8 | 5 => 2 | 6 => 18 | _ => 1

/-- Clk that a weir counts while n clk of nominal length pass: those of its die on a compute die, of the reference on the I/O die (R287). -/
def State.weirClks (s : State) (cls unit n : Nat) : Nat :=
  let die := fun d => ((s.dieOf d).pass n).1
  match cls with | 0 => die (dieOfCore unit) | 1 => die (dieOfCore unit) | 2 => die unit | 3 => die unit | _ => n

/-- A weir refilled for n of its clk from the clk at hand on, but for a clk for which it has been refilled already (R289). -/
def State.refillTo (s : State) (cls unit n : Nat) (w : Weir) : Weir :=
  let now := s.weirNow cls unit
  let w1 := s.refill cls (n - (w.ran - now)) { w with got := if w.ran ≤ now then [] else w.got }
  { w1 with ran := max w.ran (now + n) }

/-- Every weir refilled as n clk of nominal length pass (R289). -/
def State.refillAll (s : State) (n : Nat) : State :=
  { s with weirs := (List.range 8).foldl (fun ws cls =>
      if s.ctxs.all fun p => s.ctxField p.1 (768 + 64 * cls) 64 == 0 then ws
      else (List.range (weirUnits cls)).foldl (fun ws u =>
        alSet ws (weirKey cls u) (s.refillTo cls u (s.weirClks cls u n) ((alGet ws (weirKey cls u)).getD Weir.reset))) ws) s.weirs }

/-- How far a number lies after another in ascending order, wrapping. -/
def after (last n m : Nat) : Nat := (n + m - last - 1) % m

/-- The least element of a list under a measure. -/
def leastBy {α : Type} (f : α → Nat) : List α → Option α
  | [] => none
  | x :: xs => match leastBy f xs with
    | none => some x
    | some y => if f y < f x then some y else some x

/-- The request of a context that a weir takes: the oldest, of one clk the next partition after the one last granted (R289). -/
def Weir.request (w : Weir) (c : Nat) (rs : List WItem) : Option WItem :=
  leastBy (fun r => (r.since * 1024 + (if r.part < 288 then after (w.bucket c).part r.part 288 else 288)) * 2 ^ 32 + r.place)
    (rs.filter fun r => r.ctx == c)

/-- The weight of a context among the spare (R289). -/
def State.spareWt (s : State) (cls c : Nat) : Int := max 1 (s.ownRate c cls / 2 ^ 16)

/-- `spare_pick` (R289): smooth weighted round-robin over the contexts that wait, in ascending order. -/
def State.sparePick (s : State) (cls : Nat) (w : Weir) (cs : List Nat) : Weir × Option Nat :=
  let total : Int := (cs.map (s.spareWt cls)).sum
  let w1 := cs.foldl (fun w c => w.put { w.bucket c with credit := (w.bucket c).credit + s.spareWt cls c }) w
  let best := cs.foldl (fun (b : Option Nat) c => match b with
    | none => some c
    | some d => if (w1.bucket d).credit < (w1.bucket c).credit then some c else some d) none
  match best with
  | none => (w1, none)
  | some c => (w1.put { w1.bucket c with credit := (w1.bucket c).credit - total }, some c)

/-- Units of a clk over its capacity for which a unit keeps a weir busy (R287): 1,024 of them, so that it begins at most its capacity of units in
1,024 clk. -/
def weirUnit : Nat := 1024

/-- A weir can begin a request in the clk at hand (R289): the one before it ends within that clk. -/
def State.weirFree (s : State) (cls unit : Nat) : Bool :=
  decide ((s.weir cls unit).busy < (s.weirNow cls unit + 1) * Config.weirCapacity cls s.boot.intake)

/-- What a grant does (R105, R202, R291): the matrix word takes its turn, the request has passed, or it reaches Mason. -/
def State.granted (s : State) (cls : Nat) (r : WItem) : State :=
  match cls with
  | 0 => { s with grants := s.grants ++ [r.part], agenda := [.focus r.part, .turn .matrix] ++ s.agenda }
  | 7 => match s.intake[r.place]? with
    | some x => { s with intake := s.intake.eraseIdx r.place, mason := s.mason ++ [x.2] }
    | none => s
  | _ => { s with transfers := s.transfers.eraseIdx r.place }

/-- The context that a weir grants among those that wait, and whether from tokens (R289): the first holder of tokens after the one last granted,
or the spare pick. -/
def State.weirPick (s : State) (cls : Nat) (w : Weir) (cs : List Nat) : Weir × Option Nat × Bool :=
  let rich := cs.filter fun c => (2 ^ 26 : Int) ≤ (w.bucket c).tokens
  if rich.isEmpty then let (w1, c) := s.sparePick cls w cs; (w1, c, false)
  else (w, leastBy (fun c => after w.last c 4096) rich, true)

/-- One grant of a weir, when it can begin a request and one waits (R289, R292). What it grants to a peer's context counts at that context's own
package (R71, R292). -/
def State.weirGrant (s : State) (cls unit : Nat) : Option State :=
  let w := s.weir cls unit
  let rs := s.weirReqs cls unit
  let cs := (s.ctxs.map (·.1)).filter fun c => rs.any fun r => r.ctx == c
  if !s.weirFree cls unit then none
  else
    let (w1, pick, tok) := s.weirPick cls w cs
    (pick.bind fun c => w1.request c rs).map fun r =>
      let b := w1.bucket r.ctx
      let b := { b with tokens := if tok then b.tokens - r.units * 2 ^ 26 else b.tokens, part := if r.part < 288 then r.part else b.part }
      let start := max w.busy (s.weirNow cls unit * Config.weirCapacity cls s.boot.intake)
      let w2 := { w1.put b with last := if tok then r.ctx else w1.last, busy := start + weirUnit * r.units, got := r.ctx :: w1.got }
      let s2 := (s.count r.ctx (weirCounter cls (if tok then 0 else 1)) (if r.peer then 0 else r.units)).granted cls r
      { s2 with weirs := alSet s2.weirs (weirKey cls unit) w2 }

/-- Every request that a weir can begin in the clk at hand, at most n of them. -/
def State.weirServe (cls unit : Nat) : Nat → State → State
  | 0, s => s
  | n + 1, s => match s.weirGrant cls unit with
    | none => s
    | some s' => State.weirServe cls unit n s'

/-- The contexts that a weir has granted in the clk at hand. -/
def State.weirGot (s : State) (cls unit : Nat) : List Nat :=
  if s.weirNow cls unit < (s.weir cls unit).ran then (s.weir cls unit).got else []

/-- A weir refilled for the clk at hand, once (R289). -/
def State.refillOne (s : State) (cls unit : Nat) : State :=
  { s with weirs := alSet s.weirs (weirKey cls unit) (s.refillTo cls unit 1 (s.weir cls unit)) }

/-- A clk of one weir (R289, R292), refilled for it: its grants, and each context of this package that waits without one counts the clk. A clk of nominal
length in which no clk of the weir ends, its die being slowed, is none. -/
def State.weirClk (s : State) (cls unit : Nat) : State :=
  if s.weirClks cls unit 1 = 0 then s
  else
    let s1 := State.weirServe cls unit (s.weirReqs cls unit).length (s.refillOne cls unit)
    ((s1.ctxs.map (·.1)).filter fun c => !(s1.weirGot cls unit).contains c && (s1.weirReqs cls unit).any fun r => r.ctx == c && !r.peer).foldl
      (fun s c => s.count c (weirCounter cls 2) 1) s1

/-- The cores on which a running task has matrix words queued. -/
def State.matCores (s : State) : List Nat :=
  ((s.tasks.filter fun t => t.st == .running && !t.mq.isEmpty).map Task.coreNo).eraseDups

/-- The weirs at which requests wait. -/
def State.busyWeirs (s : State) : List (Nat × Nat) :=
  (s.matCores.filter fun k => !(s.weirReqs 0 k).isEmpty).map (fun k => (0, k))
    ++ (s.transfers.map fun x => (x.cls, x.unit)).eraseDups ++ (if s.intake.isEmpty then [] else [(7, 0)])

/-- The clk at which the matrix word at the head of each task's queue became eligible is noted (R289). -/
def State.markEligible (s : State) : State :=
  s.matCores.foldl (fun s k => (List.range 6).foldl (fun s n =>
    let p := 6 * k + n
    let at_ := (s.matRequest p).map (·.2.2)
    s.mapTasks fun t => if t.st = .running ∧ t.part = p then { t with eligAt := at_ } else t) s) s

/-- Time passes while no request waits at a weir (R6, R289). -/
def State.quietPass (s : State) (n : Nat) : State := (s.refillAll n).pass n

/-- One clk of nominal length in which requests wait (R289): every weir is refilled and serves, and the clk passes. -/
def State.oneClk (s : State) : State :=
  let s1 := (s.refillAll 1).markEligible
  (s1.busyWeirs.foldl (fun s u => s.weirClk u.1 u.2) s1).pass 1

/-- WEIR_CLK (R289): units present further requests to a weir, each with its context and partition; the weir is refilled for the clk at hand and
makes a grant if it can begin one. The clk's other grants, its count of those that wait (R292) and its end are `State.oneClk`'s. -/
def execWeirClk (cls unit : Nat) (waiting : List (Nat × Nat × Nat × Nat)) (s : State) : Res :=
  let new := waiting.map fun q => { cls := cls, unit := unit, ctx := q.1, part := q.2.1, since := s.weirNow cls unit : WReq }
  let s1 := (if 1 ≤ cls ∧ cls ≤ 6 then { s with transfers := s.transfers ++ new } else s).refillOne cls unit
  .next ((s1.weirGrant cls unit).getD s1)

/-- The access that a bank grants among those that wait (R133): its place in the list. An access is its requester (0 to 5 the vector engine of
that partition of the core, 6 the fetch engine, above these the matrix engine, the control engine and the L1), whether it writes, and
the clk it has waited. -/
def bankPick (b : Bank) (w : List (Nat × Bool × Nat)) : Option Nat :=
  let ws := w.zipIdx
  let oldest := fun (l : List ((Nat × Bool × Nat) × Nat)) =>
    (leastBy (fun (q : (Nat × Bool × Nat) × Nat) => (2 ^ 32 - q.1.2.2) * 2 ^ 32 + q.2) l).map (·.2)
  let fw := ws.filter fun q => q.1.1 == 6 && q.1.2.1
  let old := ws.filter fun q => 16 ≤ q.1.2.2
  let vec := ws.filter fun q => q.1.1 < 6
  if !fw.isEmpty && !b.fetchLast then oldest fw
  else if !old.isEmpty then oldest old
  else if !vec.isEmpty then
    (leastBy (fun (q : (Nat × Bool × Nat) × Nat) => after b.lastPart q.1.1 6 * 2 ^ 32 + q.2) vec).map (·.2)
  else oldest ws

/-- BANK_GRANT (R133). -/
def execBankGrant (core bank : Nat) (waiting : List (Nat × Bool × Nat)) (s : State) : Res :=
  let k := core * 32 + bank
  let b := (alGet s.banks k).getD Bank.reset
  let g := bankPick b waiting
  let x := g.bind fun i => waiting[i]?
  let b1 : Bank :=
    { lastPart := match x with | some q => if q.1 < 6 then q.1 else b.lastPart | none => b.lastPart,
      fetchLast := match x with | some q => q.1 == 6 | none => false, granted := g }
  .next { s with banks := alSet s.banks k b1 }

end Sys2Proof.Machine
end

