-- ==== Sys2Proof/Machine/Dispatch.lean ====
section
/-!
DEFINITION. The meaning of every instruction: one arm per constructor.
-/

namespace Sys2Proof.Machine

/-- The effect of an instruction on a state. -/
def exec (i : Instr) (s : State) : Host.Outcome State Fault Refusal :=
  match i with
  | .groupCheck => Sys2Proof.Machine.execGroupCheck s
  | .groupAdmit => Sys2Proof.Machine.execGroupAdmit s
  | .pfx p => Sys2Proof.Machine.execPfx p s
  | .add S d a b => Sys2Proof.Machine.execAdd S d a b s
  | .sub S d a b => Sys2Proof.Machine.execSub S d a b s
  | .mul S d a b => Sys2Proof.Machine.execMul S d a b s
  | .mulh S d a b u => Sys2Proof.Machine.execMulh S d a b u s
  | .div S d a b u => Sys2Proof.Machine.execDiv S d a b u s
  | .rem S d a b u => Sys2Proof.Machine.execRem S d a b u s
  | .and S d a b => Sys2Proof.Machine.execAnd S d a b s
  | .or S d a b => Sys2Proof.Machine.execOr S d a b s
  | .xor S d a b => Sys2Proof.Machine.execXor S d a b s
  | .shl S d a b => Sys2Proof.Machine.execShl S d a b s
  | .shr S d a b => Sys2Proof.Machine.execShr S d a b s
  | .sra S d a b => Sys2Proof.Machine.execSra S d a b s
  | .min S d a b u => Sys2Proof.Machine.execMin S d a b u s
  | .max S d a b u => Sys2Proof.Machine.execMax S d a b u s
  | .clz S d a => Sys2Proof.Machine.execClz S d a s
  | .popc S d a => Sys2Proof.Machine.execPopc S d a s
  | .sel S d a b c => Sys2Proof.Machine.execSel S d a b c s
  | .madd S d a b => Sys2Proof.Machine.execMadd S d a b s
  | .addi S d a imm => Sys2Proof.Machine.execAddi S d a imm s
  | .muli S d a imm => Sys2Proof.Machine.execMuli S d a imm s
  | .andi S d a imm => Sys2Proof.Machine.execAndi S d a imm s
  | .ori S d a imm => Sys2Proof.Machine.execOri S d a imm s
  | .xori S d a imm => Sys2Proof.Machine.execXori S d a imm s
  | .shli S d a imm => Sys2Proof.Machine.execShli S d a imm s
  | .shri S d a imm => Sys2Proof.Machine.execShri S d a imm s
  | .srai S d a imm => Sys2Proof.Machine.execSrai S d a imm s
  | .li S d imm => Sys2Proof.Machine.execLi S d imm s
  | .cmp S c a b k => Sys2Proof.Machine.execCmp S c a b k s
  | .cmpi S c a k imm => Sys2Proof.Machine.execCmpi S c a k imm s
  | .clog S d a b p => Sys2Proof.Machine.execClog S d a b p s
  | .ptb S b imm => Sys2Proof.Machine.execPtb S b imm s
  | .ptbs S d a => Sys2Proof.Machine.execPtbs S d a s
  | .brt S b c l => Sys2Proof.Machine.execBrt S b c l s
  | .brf S b c l => Sys2Proof.Machine.execBrf S b c l s
  | .jmp S b => Sys2Proof.Machine.execJmp S b s
  | .loop S l r n => Sys2Proof.Machine.execLoop S l r n s
  | .loopi S l c n => Sys2Proof.Machine.execLoopi S l c n s
  | .lexit S c => Sys2Proof.Machine.execLexit S c s
  | .nop S => Sys2Proof.Machine.execNop S s
  | .lds S d a imm => Sys2Proof.Machine.execLds S d a imm s
  | .sts S d a imm => Sys2Proof.Machine.execSts S d a imm s
  | .mbrd S d m => Sys2Proof.Machine.execMbrd S d m s
  | .mbwr S d m => Sys2Proof.Machine.execMbwr S d m s
  | .csrr S d n => Sys2Proof.Machine.execCsrr S d n s
  | .csrw S d n => Sys2Proof.Machine.execCsrw S d n s
  | .time S d => Sys2Proof.Machine.execTime S d s
  | .chkScalar S a => Sys2Proof.Machine.execChkScalar S a s
  | .chkCondition S a => Sys2Proof.Machine.execChkCondition S a s
  | .xld S d a b x p n => Sys2Proof.Machine.execXld S d a b x p n s
  | .xst S d a b n => Sys2Proof.Machine.execXst S d a b n s
  | .spawn S d a t => Sys2Proof.Machine.execSpawn S d a t s
  | .taskEnd S => Sys2Proof.Machine.execTaskEnd S s
  | .yield S => Sys2Proof.Machine.execYield S s
  | .pub S a p => Sys2Proof.Machine.execPub S a p s
  | .subscribe S a b => Sys2Proof.Machine.execSubscribe S a b s
  | .subt S c a b => Sys2Proof.Machine.execSubt S c a b s
  | .gjoin S g a b => Sys2Proof.Machine.execGjoin S g a b s
  | .gleave S g => Sys2Proof.Machine.execGleave S g s
  | .barr S d w g => Sys2Proof.Machine.execBarr S d w g s
  | .bwait S a g => Sys2Proof.Machine.execBwait S a g s
  | .waitw S d a b k => Sys2Proof.Machine.execWaitw S d a b k s
  | .tks S k => Sys2Proof.Machine.execTks S k s
  | .tkw S k => Sys2Proof.Machine.execTkw S k s
  | .mclaim S d a t => Sys2Proof.Machine.execMclaim S d a t s
  | .ald S d a b u q n => Sys2Proof.Machine.execAld S d a b u q n s
  | .ast S d a b r n => Sys2Proof.Machine.execAst S d a b r n s
  | .aadd S d a b u r q n => Sys2Proof.Machine.execAadd S d a b u r q n s
  | .amax S d a b u r q n => Sys2Proof.Machine.execAmax S d a b u r q n s
  | .amin S d a b u r q n => Sys2Proof.Machine.execAmin S d a b u r q n s
  | .aand S d a b u r q n => Sys2Proof.Machine.execAand S d a b u r q n s
  | .aor S d a b u r q n => Sys2Proof.Machine.execAor S d a b u r q n s
  | .axchg S d a b u r q n => Sys2Proof.Machine.execAxchg S d a b u r q n s
  | .acas S d a b u r q n => Sys2Proof.Machine.execAcas S d a b u r q n s
  | .afadd S d a b r q => Sys2Proof.Machine.execAfadd S d a b r q s
  | .hqry S d a b f => Sys2Proof.Machine.execHqry S d a b f s
  | .hdup S d a b m => Sys2Proof.Machine.execHdup S d a b m s
  | .hdrop S a => Sys2Proof.Machine.execHdrop S a s
  | .omcall S d a b n => Sys2Proof.Machine.execOmcall S d a b n s
  | .omcallReply => Sys2Proof.Machine.execOmcallReply s
  | .create => Sys2Proof.Machine.execCreate s
  | .delete => Sys2Proof.Machine.execDelete s
  | .seal => Sys2Proof.Machine.execSeal s
  | .replicate => Sys2Proof.Machine.execReplicate s
  | .move => Sys2Proof.Machine.execMove s
  | .moveCopy oid => Sys2Proof.Machine.execMoveCopy oid s
  | .moveCommit oid => Sys2Proof.Machine.execMoveCommit oid s
  | .moveAbandon oid => Sys2Proof.Machine.execMoveAbandon oid s
  | .plan => Sys2Proof.Machine.execPlan s
  | .window => Sys2Proof.Machine.execWindow s
  | .unwindow => Sys2Proof.Machine.execUnwindow s
  | .trap S imm => Sys2Proof.Machine.execTrap S imm s
  | .eret S => Sys2Proof.Machine.execEret S s
  | .notify S d a b t => Sys2Proof.Machine.execNotify S d a b t s
  | .ctxnew S d a => Sys2Proof.Machine.execCtxnew S d a s
  | .ctxgrant S d a b m => Sys2Proof.Machine.execCtxgrant S d a b m s
  | .ctxset S d a b f => Sys2Proof.Machine.execCtxset S d a b f s
  | .ctxrun S d a => Sys2Proof.Machine.execCtxrun S d a s
  | .ctxrunResume S d a b => Sys2Proof.Machine.execCtxrunResume S d a b s
  | .ctxrunKill S d a b => Sys2Proof.Machine.execCtxrunKill S d a b s
  | .ctxstop S d a => Sys2Proof.Machine.execCtxstop S d a s
  | .ctxrevoke S d a k => Sys2Proof.Machine.execCtxrevoke S d a k s
  | .ctxdel S d a => Sys2Proof.Machine.execCtxdel S d a s
  | .logarm S d a b => Sys2Proof.Machine.execLogarm S d a b s
  | .logarmOff S d a => Sys2Proof.Machine.execLogarmOff S d a s
  | .perfr S d a b t => Sys2Proof.Machine.execPerfr S d a b t s
  | .vadd S d a b m t => Sys2Proof.Machine.execVadd S d a b m t s
  | .vsub S d a b m t => Sys2Proof.Machine.execVsub S d a b m t s
  | .vmul S d a b m t => Sys2Proof.Machine.execVmul S d a b m t s
  | .vfma S d a b m t => Sys2Proof.Machine.execVfma S d a b m t s
  | .vfms S d a b m t => Sys2Proof.Machine.execVfms S d a b m t s
  | .vfnma S d a b m t => Sys2Proof.Machine.execVfnma S d a b m t s
  | .vmax S d a b m t => Sys2Proof.Machine.execVmax S d a b m t s
  | .vmin S d a b m t => Sys2Proof.Machine.execVmin S d a b m t s
  | .vabs S d a m t => Sys2Proof.Machine.execVabs S d a m t s
  | .vneg S d a m t => Sys2Proof.Machine.execVneg S d a m t s
  | .vcmp S d a b c t => Sys2Proof.Machine.execVcmp S d a b c t s
  | .vsel S d a b m t => Sys2Proof.Machine.execVsel S d a b m t s
  | .vclass S d a m t => Sys2Proof.Machine.execVclass S d a m t s
  | .vrcp S d a m t => Sys2Proof.Machine.execVrcp S d a m t s
  | .vrsq S d a m t => Sys2Proof.Machine.execVrsq S d a m t s
  | .vexp2 S d a m t => Sys2Proof.Machine.execVexp2 S d a m t s
  | .vlog2 S d a m t => Sys2Proof.Machine.execVlog2 S d a m t s
  | .vtbl S d a n m t => Sys2Proof.Machine.execVtbl S d a n m t s
  | .vscale S d a b m t => Sys2Proof.Machine.execVscale S d a b m t s
  | .viadd S d a b m t => Sys2Proof.Machine.execViadd S d a b m t s
  | .visub S d a b m t => Sys2Proof.Machine.execVisub S d a b m t s
  | .vimul S d a b m t => Sys2Proof.Machine.execVimul S d a b m t s
  | .vimulh S d a b m t => Sys2Proof.Machine.execVimulh S d a b m t s
  | .vand S d a b m t => Sys2Proof.Machine.execVand S d a b m t s
  | .vor S d a b m t => Sys2Proof.Machine.execVor S d a b m t s
  | .vxor S d a b m t => Sys2Proof.Machine.execVxor S d a b m t s
  | .vshl S d a b m t => Sys2Proof.Machine.execVshl S d a b m t s
  | .vshr S d a b m t => Sys2Proof.Machine.execVshr S d a b m t s
  | .vsra S d a b m t => Sys2Proof.Machine.execVsra S d a b m t s
  | .vimin S d a b m t => Sys2Proof.Machine.execVimin S d a b m t s
  | .vimax S d a b m t => Sys2Proof.Machine.execVimax S d a b m t s
  | .vicmp S d a b c t => Sys2Proof.Machine.execVicmp S d a b c t s
  | .viabs S d a m t => Sys2Proof.Machine.execViabs S d a m t s
  | .viota S d m t => Sys2Proof.Machine.execViota S d m t s
  | .vrsum S d a m t => Sys2Proof.Machine.execVrsum S d a m t s
  | .vrmax S d a m t => Sys2Proof.Machine.execVrmax S d a m t s
  | .vrmin S d a m t => Sys2Proof.Machine.execVrmin S d a m t s
  | .vscan S d a m t => Sys2Proof.Machine.execVscan S d a m t s
  | .vcvt S d a src t r => Sys2Proof.Machine.execVcvt S d a src t r s
  | .vcvts S d a src t r => Sys2Proof.Machine.execVcvts S d a src t r s
  | .vqmx S d a e x r y p => Sys2Proof.Machine.execVqmx S d a e x r y p s
  | .vdqmx S d a e x p => Sys2Proof.Machine.execVdqmx S d a e x p s
  | .vrng S d m => Sys2Proof.Machine.execVrng S d m s
  | .vseed S a b => Sys2Proof.Machine.execVseed S a b s
  | .vany S c a m t => Sys2Proof.Machine.execVany S c a m t s
  | .vall S c a m t => Sys2Proof.Machine.execVall S c a m t s
  | .vmpop S d a m t => Sys2Proof.Machine.execVmpop S d a m t s
  | .vmlog S d a b m o => Sys2Proof.Machine.execVmlog S d a b m o s
  | .vbcst S d a m t => Sys2Proof.Machine.execVbcst S d a m t s
  | .vext S d a b t => Sys2Proof.Machine.execVext S d a b t s
  | .vperm S d a b m t => Sys2Proof.Machine.execVperm S d a b m t s
  | .vnop S n => Sys2Proof.Machine.execVnop S n s
  | .vld S d a imm => Sys2Proof.Machine.execVld S d a imm s
  | .vst S d a imm => Sys2Proof.Machine.execVst S d a imm s
  | .vlds S d a b r => Sys2Proof.Machine.execVlds S d a b r s
  | .vsts S d a b r => Sys2Proof.Machine.execVsts S d a b r s
  | .vgth S d a b m w => Sys2Proof.Machine.execVgth S d a b m w s
  | .vsct S d a b m w => Sys2Proof.Machine.execVsct S d a b m w s
  | .vtrw S t v r src d => Sys2Proof.Machine.execVtrw S t v r src d s
  | .vtcr S d t c src e => Sys2Proof.Machine.execVtcr S d t c src e s
  | .vtz S t => Sys2Proof.Machine.execVtz S t s
  | .vacr S d a r q => Sys2Proof.Machine.execVacr S d a r q s
  | .vtld S n a b => Sys2Proof.Machine.execVtld S n a b s
  | .vmov S d a m => Sys2Proof.Machine.execVmov S d a m s
  | .vmld S d a => Sys2Proof.Machine.execVmld S d a s
  | .vmst S d a => Sys2Proof.Machine.execVmst S d a s
  | .vchk S a k => Sys2Proof.Machine.execVchk S a k s
  | .vtks S k => Sys2Proof.Machine.execVtks S k s
  | .vtkw S k => Sys2Proof.Machine.execVtkw S k s
  | .vflg S d c => Sys2Proof.Machine.execVflg S d c s
  | .mma S a x y f => Sys2Proof.Machine.execMma S a x y f s
  | .mmat S a x y f => Sys2Proof.Machine.execMmat S a x y f s
  | .mzero S a => Sys2Proof.Machine.execMzero S a s
  | .mlda S a r => Sys2Proof.Machine.execMlda S a r s
  | .mdrn S a r t o y x p => Sys2Proof.Machine.execMdrn S a r t o y x p s
  | .mdrs S a o t r y x l => Sys2Proof.Machine.execMdrs S a o t r y x l s
  | .mrel S o k => Sys2Proof.Machine.execMrel S o k s
  | .mwait S a v => Sys2Proof.Machine.execMwait S a v s
  | .mscal S a r c => Sys2Proof.Machine.execMscal S a r c s
  | .mtks S k => Sys2Proof.Machine.execMtks S k s
  | .mtkw S k => Sys2Proof.Machine.execMtkw S k s
  | .fview S w a f => Sys2Proof.Machine.execFview S w a f s
  | .fdim S w a b j => Sys2Proof.Machine.execFdim S w a b j s
  | .fidx S w a b p => Sys2Proof.Machine.execFidx S w a b p s
  | .fshape S w a => Sys2Proof.Machine.execFshape S w a s
  | .fill S o w r => Sys2Proof.Machine.execFill S o w r s
  | .fillc S o w => Sys2Proof.Machine.execFillc S o w s
  | .fld S w a b => Sys2Proof.Machine.execFld S w a b s
  | .fst S w a b => Sys2Proof.Machine.execFst S w a b s
  | .fsts S o w => Sys2Proof.Machine.execFsts S o w s
  | .fbind S q w x o => Sys2Proof.Machine.execFbind S q w x o s
  | .funb S q => Sys2Proof.Machine.execFunb S q s
  | .fcopy S d src => Sys2Proof.Machine.execFcopy S d src s
  | .fgth S w a b r => Sys2Proof.Machine.execFgth S w a b r s
  | .fpre S w t => Sys2Proof.Machine.execFpre S w t s
  | .frel S a => Sys2Proof.Machine.execFrel S a s
  | .fdone S a b x => Sys2Proof.Machine.execFdone S a b x s
  | .ftks S k => Sys2Proof.Machine.execFtks S k s
  | .ftkw S k => Sys2Proof.Machine.execFtkw S k s
  | .fadv S w a j => Sys2Proof.Machine.execFadv S w a j s
  | .vectorStep => Sys2Proof.Machine.execVectorStep s
  | .deliveredResult => Sys2Proof.Machine.execDeliveredResult s
  | .bankGrant core bank waiting => Sys2Proof.Machine.execBankGrant core bank waiting s
  | .fetchCommandBegin => Sys2Proof.Machine.execFetchCommandBegin s
  | .releasedCommandBegin => Sys2Proof.Machine.execReleasedCommandBegin s
  | .fetchRequest act => Sys2Proof.Machine.execFetchRequest act s
  | .extentMapWalk die => Sys2Proof.Machine.execExtentMapWalk die s
  | .masonReplyResolved => Sys2Proof.Machine.execMasonReplyResolved s
  | .masonReplyFailed => Sys2Proof.Machine.execMasonReplyFailed s
  | .fetchRequestComplete act => Sys2Proof.Machine.execFetchRequestComplete act s
  | .fetchError act sub => Sys2Proof.Machine.execFetchError act sub s
  | .tierTimeout act => Sys2Proof.Machine.execTierTimeout act s
  | .peerTimeout act => Sys2Proof.Machine.execPeerTimeout act s
  | .fdoneValueWrite => Sys2Proof.Machine.execFdoneValueWrite s
  | .fetchTokenPush => Sys2Proof.Machine.execFetchTokenPush s
  | .streamReadAhead q => Sys2Proof.Machine.execStreamReadAhead q s
  | .streamWrite q => Sys2Proof.Machine.execStreamWrite q s
  | .imageCopy => Sys2Proof.Machine.execImageCopy s
  | .l2Fill ctx pa noalloc => Sys2Proof.Machine.execL2Fill ctx pa noalloc s
  | .l2Install ctx pa => Sys2Proof.Machine.execL2Install ctx pa s
  | .l2LineWrite ctx pa data mask noalloc => Sys2Proof.Machine.execL2LineWrite ctx pa data mask noalloc s
  | .l2Pin ctx pa => Sys2Proof.Machine.execL2Pin ctx pa s
  | .l2Invalidation frame wb => Sys2Proof.Machine.execL2Invalidation frame wb s
  | .peerRequest ctx die oid sh off n kind data => Sys2Proof.Machine.execPeerRequest ctx die oid sh off n kind data s
  | .spawnPortWrite ep off data => Sys2Proof.Machine.execSpawnPortWrite ep off data s
  | .hostWindowAccess ep off n kind data => Sys2Proof.Machine.execHostWindowAccess ep off n kind data s
  | .taskPlace part => Sys2Proof.Machine.execTaskPlace part s
  | .taskPark => Sys2Proof.Machine.execTaskPark s
  | .sliceExpiry => Sys2Proof.Machine.execSliceExpiry s
  | .forcedSave => Sys2Proof.Machine.execForcedSave s
  | .saveComplete id => Sys2Proof.Machine.execSaveComplete id s
  | .trapEntry => Sys2Proof.Machine.execTrapEntry s
  | .eventAppend => Sys2Proof.Machine.execEventAppend s
  | .weirClk cls unit waiting => Sys2Proof.Machine.execWeirClk cls unit waiting s
  | .droopResponse die => Sys2Proof.Machine.execDroopResponse die s
  | .clockRecovery die => Sys2Proof.Machine.execClockRecovery die s
  | .overtemperature die => Sys2Proof.Machine.execOvertemperature die s
  | .coldReset => Sys2Proof.Machine.execColdReset s
  | .watchdogReset => Sys2Proof.Machine.execWatchdogReset s
  | .rootFirmwareImage img => Sys2Proof.Machine.execRootFirmwareImage img s
  | .masonImage img => Sys2Proof.Machine.execMasonImage img s
  | .bootManifest img => Sys2Proof.Machine.execBootManifest img s
  | .spdmRequest req => Sys2Proof.Machine.execSpdmRequest req s
  | .keySlotLoad who slot key => Sys2Proof.Machine.execKeySlotLoad who slot key s
  | .l2SetDump who slice set => Sys2Proof.Machine.execL2SetDump who slice set s
  | .layoutChange spn roots => Sys2Proof.Machine.execLayoutChange spn roots s
  | .layoutCommit => Sys2Proof.Machine.execLayoutCommit s
  | .migration ctx ep => Sys2Proof.Machine.execMigration ctx ep s
  | .junctionLimit die => Sys2Proof.Machine.execJunctionLimit die s
  | .powerCap => Sys2Proof.Machine.execPowerCap s
  | .masonEndsTask => Sys2Proof.Machine.execMasonEndsTask s

end Sys2Proof.Machine
end

