-- ==== Sys2Proof/Machine/Auto.lean ====
section
/-!
DEFINITION. Who moves (DESIGN CHOICE, log entry 1): what an item of the agenda does, and, with an empty agenda, the move that the machine makes by itself:
the control engine's next word, and at its boundaries, stalls and waits the engines, Mason, the dispatcher and time.
-/

namespace Sys2Proof.Machine

/-- An event by which an engine of the task under execution, or its placement on its partition, goes on. -/
def engineEvent (i : Instr) : Bool :=
  match i with
  | .deliveredResult | .vectorStep | .fetchCommandBegin | .releasedCommandBegin | .fetchRequest _ | .fetchRequestComplete _ | .fetchError _ _
  | .tierTimeout _ | .peerTimeout _ | .fdoneValueWrite | .fetchTokenPush | .streamReadAhead _ | .streamWrite _ | .imageCopy | .groupCheck
  | .groupAdmit | .trapEntry | .taskPark | .forcedSave | .sliceExpiry => true
  | _ => false

/-- An event that Mason brings about. DESIGN CHOICE, log entry 103. -/
def masonEvent (i : Instr) : Bool :=
  match i with
  | .create | .delete | .seal | .replicate | .move | .plan | .window | .unwindow | .omcallReply | .masonReplyResolved | .masonReplyFailed
  | .masonEndsTask | .moveCopy _ | .moveCommit _ | .moveAbandon _ | .migration _ _ => true
  | _ => false

/-- An act that only root firmware can perform (R330). -/
def rootAct (i : Instr) : Bool :=
  match i with
  | .keySlotLoad .. | .l2SetDump .. | .layoutChange .. | .layoutCommit | .masonImage _ | .bootManifest _ | .spdmRequest _ => true
  | _ => false

/-- A quiesced core runs nothing, and Mason runs once boot has released the system cores (R331, R337). -/
def State.quiet (s : State) (i : Instr) : Bool := (engineEvent i && s.boot.held.contains s.core) || (masonEvent i && s.boot.step != 6)

/-- A device step happens. A word of a program is no device step. -/
def State.event (s : State) (i : Instr) : Res := if (encode i).isSome || s.quiet i then .next s else exec i s

/-- An engine of the task under execution takes the word at the head of its queue, but on a quiesced core (R331). -/
def State.takeTurn (s : State) (u : Turn) : Res :=
  if s.boot.held.contains s.core then .next s
  else match s.headWord u with
    | none => .next s
    | some i => match u with
      | .control => exec i { s with turn := .control }
      | _ => match exec i { s with turn := u } with
        | .next s' => .next { s' with turn := .control }
        | o => o

/-- Where a running task stands, but on a quiesced core, that has been asked to leave. -/
def State.leavers (s : State) : List Task := s.tasks.filter fun t => t.st == .running && t.x.asked && !s.boot.held.contains t.coreNo

/-- The lowest partition that the dispatcher can fill (R273). -/
def State.placeMoves (s : State) : List Instr :=
  if s.tasks.any fun t => t.st == .ready then
    ((List.range 288).find? fun p => s.partFree p && (s.pick p).isSome).toList.map fun p => .taskPlace p
  else []

/-- The partition whose matrix word the weir has granted and that has not had its turn, its core having been quiesced in between (R202, R331). -/
def State.owedTurn (s : State) : Option Nat :=
  s.grants.find? fun p => !s.boot.held.contains (coreOfPart p) && (s.atPart p).t.part == p && (s.atPart p).t.st == .running && (s.atPart p).matEligible

/-- What must happen before more time passes: the turn of a matrix word that has been granted (R202); the parking of a word that waits while a PREQ
reason is set (R306); a forced save whose REMAIN has run out, once the group or the word in execution lets it (R306); or the placement of a
task that has waited for as long as the dispatcher may take (R274). -/
def State.duties (s : State) : List Act :=
  match s.owedTurn with
  | some p => [.focus p, .turn .matrix]
  | none => match s.leavers.find? fun t => (s.atPart t.part).mayPark with
    | some t => [.focus t.part, .ev .taskPark]
    | none => match s.leavers.find? fun t => t.x.remain == 0 with
      | some t => .focus t.part :: (if (s.atPart t.part).interruptible then [.ev .forcedSave] else [.turn .control])
      | none => if s.placeWait < Config.placeClk then [] else s.placeMoves.map Act.ev

/-- Nominal clk that may pass at once of n, while no weir has a request: none of them may take REMAIN below 0, or the dispatcher past its bound. -/
def State.stride (s : State) (n : Nat) : Nat :=
  let m := s.leavers.foldl (fun m t => min m t.x.remain.toNat) n
  if s.placeMoves.isEmpty then m else min m (Config.placeClk - s.placeWait)

/-- The clk for which the dispatcher has had a task to place (R274). -/
def State.countPlace (s : State) (m : Nat) : State := { s with placeWait := if s.placeMoves.isEmpty then 0 else s.placeWait + m }

/-- n nominal clk pass. What is due comes first, and a clk in which requests wait at a weir passes by itself. -/
def State.passing (s : State) (n : Nat) : State :=
  if n = 0 then s
  else match s.duties with
    | a :: as => { s with agenda := (a :: as) ++ .pass n :: s.agenda }
    | [] =>
      let m := if s.busyWeirs.isEmpty then s.stride n else 1
      let s1 := s.countPlace m
      let s2 := if s.busyWeirs.isEmpty then s1.quietPass m else s1.oneClk
      if m < n then { s2 with agenda := s2.agenda ++ [.pass (n - m)] } else s2

/-- What ails the places that requests go to begins or ceases (R73). -/
def State.ails (s : State) (x : Trouble) (on : Bool) : State :=
  { s with trouble := if on then (x :: s.trouble).eraseDups else s.trouble.filter (· != x) }

/-- Errors that ECC cannot correct strike lines of the L2 and lines of the tiers (R74, R97). -/
def State.strike (s : State) (l2 tier : List Nat) : State :=
  let here := l2.filter fun a => (s.l2line (BitVec.ofNat 48 a)).isSome && a % 64 == 0 && !s.l2bad.contains a
  { s with l2bad := s.l2bad ++ here.eraseDups }.poison (tier.map fun a => a / 64 * 64)

/-- Errors that ECC cannot correct strike operand slots and rows of accumulator tiles (R217), each as core and number have it. -/
def State.strikeCore (s : State) (slots : List Nat) (rows : List (Nat × Nat)) : State :=
  { s with
    slots := s.slots.map fun (p : Nat × Slot) => if slots.contains p.1 && p.2.st != .free then (p.1, { p.2 with bad := true }) else p
    tiles := s.tiles.map fun (p : Nat × Tile) =>
      (p.1, { p.2 with bad := (p.2.bad ++ (rows.filter fun r => r.1 == p.1 && r.2 < 128).map (·.2)).eraseDups }) }

/-- An item of the agenda. As time passes, and as places fail or answer again, the writes that go on in the background go on (R73, R240). -/
def State.act (s : State) (a : Act) : Res :=
  match a with
  | .pass n => .next (s.passing n).storesGo
  | .focus p => .next (s.focus p)
  | .turn u => s.takeTurn u
  | .ev i => s.event i
  | .ail x on => .next (s.ails x on).storesGo
  | .upset l2 tier => .next (s.strike l2 tier)
  | .upsetCore slots rows => .next (s.strikeCore slots rows)
  | .arrive m => .next { s with inbound := s.inbound ++ [m] }
  | .root c run => .next (s.runRoot c run)
  | .asks who i => if rootAct i && who != 0 then .next s else s.event i

/-- The first event of a list that changes the machine. -/
def State.firstActive (s : State) : List Instr → Option Instr
  | [] => none
  | i :: is => match s.event i with
    | .next s' => if s' = s then s.firstActive is else some i
    | _ => s.firstActive is

/-- The service that an OMCALL asks for (R62). -/
def serviceOf (n : Nat) : Instr :=
  match n with
  | 0 => .create | 1 => .delete | 2 => .seal | 3 => .replicate | 4 => .move | 5 => .plan | 6 => .window | 7 => .unwindow
  | _ => .omcallReply

/-- Whether Mason can answer a fault request with RESOLVED (R300). DESIGN CHOICE, log entry 79. -/
def State.canRepair (s : State) (part : Nat) (i : TrapInfo) : Bool :=
  let s1 := s.repair part i
  match s1.obj (i.x2.setWidth 48) with
  | none => false
  | some o => match i.cause with
    | .missingObject => o.res != 3
    | .framePoolEmpty => i.x0.extractLsb' 0 8 == 1 && !(s1.pool (dieOfCore (coreOfPart part)) (o.res.toNat % 2)).isEmpty
    | _ => false

/-- What Mason does with a request (R62, R70, R300, R323). -/
def State.moveOf (s : State) (r : Req) : Instr :=
  match r with
  | .omcall _ _ _ n _ _ _ => serviceOf n.toNat
  | .trigger _ => .move
  | .fault _ _ p i => if s.canRepair p i then .masonReplyResolved else .masonReplyFailed
  | .event .. => .masonEndsTask

/-- Moves of Mason, the dispatcher, root firmware and the devices. -/
def State.packageMoves (s : State) : List Instr :=
  (if s.events.isEmpty then [] else [.eventAppend]) ++ (if s.replies.isEmpty then [] else [.omcallReply])
    ++ (s.mason.map s.moveOf).eraseDups ++ s.moves.flatMap (fun m => [.moveCopy m.oid, .moveCommit m.oid])
    ++ (s.tasks.filter (·.saving)).map (fun t => .saveComplete t.id) ++ s.placeMoves ++ [.layoutCommit]

/-- Fetch commands of the task under execution that have begun. -/
def State.begunSeqs (s : State) : List Nat := s.t.f.open_.map (·.seq)

/-- Moves of the engines of the task under execution. -/
def State.engineMoves (s : State) : List Instr :=
  [.deliveredResult, .vectorStep, .fetchCommandBegin, .releasedCommandBegin, .fdoneValueWrite, .fetchTokenPush]
    ++ (List.range 4).flatMap (fun q => [.streamWrite (BitVec.ofNat 2 q), .streamReadAhead (BitVec.ofNat 2 q)])
    ++ s.begunSeqs.flatMap (fun n => [.fetchRequest n, .fetchRequestComplete n, .tierTimeout n, .peerTimeout n])
    ++ (if s.walks.isEmpty then [] else [.extentMapWalk s.die]) ++ [.sliceExpiry]

/-- The next partition after that of the task under execution that runs a task (R10), wrapping. -/
def State.nextFocus (s : State) : List Act :=
  match leastBy (fun (t : Task) => after s.t.part t.part 288) (s.others.filter fun t => t.st == .running) with
  | some t => [.focus t.part]
  | none => []

/-- Nominal clk that a number of ticks of 1 ns surely takes (R6). -/
def clkOfTicks (n : Nat) : Nat := 9 * n / 5

/-- Clk until something that only time brings about: a release, the loss of a reply, the end of a slice or of LIMIT, a parking. -/
def State.idleClk (s : State) : Nat :=
  let t := s.t
  let rel := t.f.rel.filterMap fun a => a.rel.map fun r => clkOfTicks (r - s.ticks).toNat + 1
  let lost := (t.f.open_.flatMap (·.outst)).flatMap fun r =>
    [true, false].map fun p => clkOfTicks (Config.replyTicks p - (s.ticks - r.since).toNat)
  let slice := s.ctxField t.ctx 736 32 - t.ranClk
  let rest := [slice, t.x.remain.toNat] ++ match t.c.wait with | some w => [Config.parkClk - w.clk] | none => []
  match leastBy id ((rel ++ lost ++ rest).filter (0 < ·)) with
  | some n => n
  | none => Config.parkClk

/-- A device's move, or else the passing of time, and then the next task's turn. -/
def State.others_ (s : State) : List Act :=
  match s.firstActive (s.packageMoves ++ s.engineMoves) with
  | some i => [.ev i, .pass 1]
  | none => .pass (if s.nextFocus.isEmpty then s.idleClk else 1) :: s.nextFocus

/-- The control engine at a boundary, a stall or a waiting word. -/
def State.atBoundary (s : State) : List Act :=
  match s.firstActive [.trapEntry, .taskPark, .forcedSave] with
  | some i => [.ev i]
  | none => match s.t.c.phase with
    | .running => .turn .control :: s.others_
    | .ending => .turn .control :: s.others_
    | .checked => if s.canAdmit then [.ev .groupAdmit] else s.others_
    | .boundary => match s.firstActive (s.packageMoves ++ s.engineMoves) with
      | some i => [.ev i]
      | none =>
        if s.t.image && !s.t.imageHalt && !s.t.x.hmode then .ev .imageCopy :: s.others_
        else [.ev .groupCheck, .pass 1] ++ s.nextFocus

/-- What the package does while no task runs. -/
def State.idleMoves (s : State) : List Act :=
  match s.firstActive s.packageMoves with
  | some i => [.ev i]
  | none => if s.busyWeirs.isEmpty then [] else [.pass 1]

/-- The moves that the machine makes next by itself. DESIGN CHOICE, log entry 31. -/
def State.auto (s : State) : List Act :=
  if s.t.st ≠ .running then if s.nextFocus.isEmpty then s.idleMoves else s.nextFocus
  else if s.boot.held.contains s.core then s.others_
  else match s.t.c.phase, s.t.c.wait with
    | .running, none => if s.wordAtPc.isSome then [.turn .control] else []
    | _, _ => s.atBoundary

end Sys2Proof.Machine
end

