-- ==== Sys2Proof/Machine/Step.lean ====
section
/-!
DEFINITION. One step: the agenda's next item, or the move that the machine makes by itself; and the placing of a word.
-/

namespace Sys2Proof.Machine

/-- One step of the machine. -/
def step (s : State) : Host.Outcome State Fault Refusal :=
  match s.agenda with
  | a :: r => { s with agenda := r }.act a
  | [] => match s.auto with
    | a :: r => { s with agenda := r }.act a
    | [] => if s.t.st = .running then .fault .undecodedWord else .next s

/-- s with the instruction word w as the word that the next step runs. -/
def State.withFetchWord (s : State) (_nbits w : Nat) : State := s.placeWord (BitVec.ofNat 32 w)

end Sys2Proof.Machine
end

