-- ==== Sys2Proof/Safety.lean ====
section
/-!
DEFINITION. What counts as a safe step and a safe run: the machine does not stop.
-/

namespace Sys2Proof.Machine

/-- A step from s answers a next state. -/
def safeStep (s : State) : Prop := ∃ s', step s = .next s'

/-- n steps from s answer next states. -/
def safeRun : Nat → State → Prop
  | 0, _ => True
  | n + 1, s => ∃ s', step s = .next s' ∧ safeRun n s'

end Sys2Proof.Machine
end

