-- ==== Sys2Proof/Certificates/Slice0/Obligations.lean ====
section
/-!
DEFINITION. The statements for the provers. First the words in which they are made: what a state shares with another, and what the spec's
tables give a word.
-/

namespace Sys2Proof.Claims

open Sys2Proof.Machine

/-- t differs from s at most in the control engine of the task under execution. -/
def onlyCtl (s t : State) : Prop := t = { s with t := { s.t with c := t.t.c } }

/-- t differs from s at most in the scalar registers. -/
def onlyScalars (s t : State) : Prop := t = { s with t := { s.t with c := { s.t.c with s := t.t.c.s } } }

/-- t is s with scalar register d holding x; a write to `s0` is discarded (R19). -/
def scalarSet (s t : State) (d : BitVec 5) (x : SReg) : Prop :=
  onlyScalars s t ∧ ∀ r, t.t.c.sreg r = if d ≠ 0 ∧ r = d then x else s.t.c.sreg r

/-- t is s with condition register d holding x; a write to `c0` is discarded (R19). -/
def conditionSet (s t : State) (d : BitVec 3) (x : CReg) : Prop :=
  t = { s with t := { s.t with c := { s.t.c with c := t.t.c.c } } } ∧ ∀ r, t.rc r = if d ≠ 0 ∧ r = d then x else s.rc r

/-- t is s with branch register d holding x. -/
def branchSet (s t : State) (d : BitVec 3) (x : Word) : Prop :=
  t = { s with t := { s.t with c := { s.t.c with b := t.t.c.b } } } ∧ ∀ r, t.rb r = if r = d then x else s.rb r

/-- An unpoisoned scalar register. -/
abbrev okS (s : State) (r : BitVec 5) : Prop := (s.rs r).poison = none

/-- An unpoisoned condition register. -/
abbrev okC (s : State) (c : BitVec 3) : Prop := (s.rc c).poison = none

/-- The word completes: its own effect leads from s to t, and control goes on as after every word. -/
def completes (i : Instr) (S : Bool) (s t : State) : Prop := exec i s = .next (t.advance S)

/-- The quotient of R250. -/
def quotient (u : Bool) (x y : Word) : Word :=
  if y = 0 then 0xFFFFFFFFFFFFFFFF
  else if u then BitVec.ofNat 64 (x.toNat / y.toNat)
  else if x.toInt = -2 ^ 63 ∧ y.toInt = -1 then x
  else BitVec.ofInt 64 (x.toInt.tdiv y.toInt)

/-- The remainder of R250. -/
def remainder (u : Bool) (x y : Word) : Word :=
  if y = 0 then x
  else if u then BitVec.ofNat 64 (x.toNat % y.toNat)
  else if x.toInt = -2 ^ 63 ∧ y.toInt = -1 then 0
  else BitVec.ofInt 64 (x.toInt - x.toInt.tdiv y.toInt * y.toInt)

/-- The table of R250 and R251: stop bit, destination, value and the deferral records of the operands in R246's order. -/
def scalarRule (i : Instr) (s : State) : Option (Bool × BitVec 5 × Word × List (Option Deferral)) :=
  let v := fun r => (s.rs r).val
  let p := fun r => (s.rs r).poison
  match i with
  | .add S d a b => some (S, d, v a + v b, [p a, p b])
  | .sub S d a b => some (S, d, v a - v b, [p a, p b])
  | .mul S d a b => some (S, d, v a * v b, [p a, p b])
  | .mulh S d a b u => some (S, d, if u then BitVec.ofNat 64 ((v a).toNat * (v b).toNat / 2 ^ 64)
      else BitVec.ofInt 64 ((v a).toInt * (v b).toInt / 2 ^ 64), [p a, p b])
  | .div S d a b u => some (S, d, quotient u (v a) (v b), [p a, p b])
  | .rem S d a b u => some (S, d, remainder u (v a) (v b), [p a, p b])
  | .and S d a b => some (S, d, v a &&& v b, [p a, p b])
  | .or S d a b => some (S, d, v a ||| v b, [p a, p b])
  | .xor S d a b => some (S, d, v a ^^^ v b, [p a, p b])
  | .shl S d a b => some (S, d, v a <<< ((v b).toNat % 64), [p a, p b])
  | .shr S d a b => some (S, d, v a >>> ((v b).toNat % 64), [p a, p b])
  | .sra S d a b => some (S, d, (v a).sshiftRight ((v b).toNat % 64), [p a, p b])
  | .min S d a b u => some (S, d, if (if u then decide ((v a).toNat < (v b).toNat) else decide ((v a).toInt < (v b).toInt))
      then v a else v b, [p a, p b])
  | .max S d a b u => some (S, d, if (if u then decide ((v a).toNat < (v b).toNat) else decide ((v a).toInt < (v b).toInt))
      then v b else v a, [p a, p b])
  | .clz S d a => some (S, d, BitVec.ofNat 64 (((List.range 64).find? fun k => (v a).getLsbD (63 - k)).getD 64), [p a])
  | .popc S d a => some (S, d, BitVec.ofNat 64 ((List.range 64).filter fun k => (v a).getLsbD k).length, [p a])
  | .sel S d a b c => some (S, d, if (s.rc c).val then v a else v b, [p a, p b, (s.rc c).poison])
  | .madd S d a b => some (S, d, v d + v a * v b, [p a, p b, p d])
  | .addi S d a k => some (S, d, v a + s.immS k, [p a])
  | .muli S d a k => some (S, d, v a * s.immS k, [p a])
  | .andi S d a k => some (S, d, v a &&& s.immZ k, [p a])
  | .ori S d a k => some (S, d, v a ||| s.immZ k, [p a])
  | .xori S d a k => some (S, d, v a ^^^ s.immZ k, [p a])
  | .shli S d a k => some (S, d, v a <<< k.toNat, [p a])
  | .shri S d a k => some (S, d, v a >>> k.toNat, [p a])
  | .srai S d a k => some (S, d, (v a).sshiftRight k.toNat, [p a])
  | .li S d k => some (S, d, s.immS k, [])
  | _ => none

/-- The comparisons of R252. -/
def ccRule (cc : Nat) (x y : Word) : Bool :=
  match cc with
  | 0 => decide (x = y) | 1 => decide (x ≠ y) | 2 => decide (x.toInt < y.toInt) | 3 => decide (y.toInt ≤ x.toInt)
  | 4 => decide (x.toNat < y.toNat) | _ => decide (y.toNat ≤ x.toNat)

/-- The words of R252: stop bit, destination, value, deferral records. -/
def conditionRule (i : Instr) (s : State) : Option (Bool × BitVec 3 × Bool × List (Option Deferral)) :=
  let v := fun r => (s.rs r).val
  let p := fun r => (s.rs r).poison
  match i with
  | .cmp S c a b k => some (S, c, ccRule k.toNat (v a) (v b), [p a, p b])
  | .cmpi S c a k n => some (S, c, ccRule k.toNat (v a) (s.immS n), [p a])
  | .clog S d a b o =>
    let x := (s.rc a).val
    let y := (s.rc b).val
    some (S, d, (match o.toNat with | 0 => x && y | 1 => x || y | 2 => x ^^ y | _ => x && !y), [(s.rc a).poison, (s.rc b).poison])
  | _ => none

end Sys2Proof.Claims

open Sys2Proof Sys2Proof.Machine Sys2Proof.Claims

/-- R250, R251, R246: each scalar word completes with the table's value in d, poisoned by its first poisoned operand, and changes nothing
else but what `advance` does. -/
def Obligations.ScalarWordsWriteTheirResult : Prop :=
  ∀ (i : Instr) (s : State) (S : Bool) (d : BitVec 5) (v : Word) (ps : List (Option Deferral)),
    scalarRule i s = some (S, d, v, ps) →
      ∃ t, completes i S s t ∧ scalarSet s t d { val := v, poison := ps.findSome? id }

/-- R252, R246: each word that writes a condition register completes with the table's value, poisoned by its first poisoned operand. -/
def Obligations.ConditionWordsWriteTheirResult : Prop :=
  ∀ (i : Instr) (s : State) (S : Bool) (d : BitVec 3) (v : Bool) (ps : List (Option Deferral)),
    conditionRule i s = some (S, d, v, ps) →
      ∃ t, completes i S s t ∧ conditionSet s t d { val := v, poison := ps.findSome? id }

/-- R253, R254: `PTB` and `PTBS` prepare a branch register, `JMP`, `BRT` and `BRF` arm the transfer of their group to the value of a branch
register, and an untaken branch arms none. -/
def Obligations.BranchWordsPrepareAndTransfer : Prop :=
  (∀ (S : Bool) (b : BitVec 3) (k : BitVec 16) (s : State),
    ∃ t, completes (.ptb S b k) S s t ∧ branchSet s t b (s.t.c.pc + s.immS k)) ∧
  (∀ (S : Bool) (b : BitVec 3) (a : BitVec 5) (s : State), okS s a →
    ∃ t, completes (.ptbs S b a) S s t ∧ branchSet s t b (s.rs a).val) ∧
  (∀ (S : Bool) (b : BitVec 3) (s : State),
    completes (.jmp S b) S s { s with t := { s.t with c := { s.t.c with xfer := .jump (s.rb b) } } }) ∧
  (∀ (S : Bool) (b c : BitVec 3) (l : Bool) (s : State), okC s c →
    completes (.brt S b c l) S s
      (if (s.rc c).val then { s with t := { s.t with c := { s.t.c with xfer := .jump (s.rb b) } } } else s)) ∧
  (∀ (S : Bool) (b c : BitVec 3) (l : Bool) (s : State), okC s c →
    completes (.brf S b c l) S s
      (if (s.rc c).val then s else { s with t := { s.t with c := { s.t.c with xfer := .jump (s.rb b) } } }))

/-- R255, R256, R258, R259, R297: outside a handler, `LEXIT` has no effect when its condition is 0, and otherwise deactivates the innermost loop
and arms the transfer past its end; a `LOOP` or `LOOPI` whose register is inactive and whose body ends no later than the innermost loop's
becomes the innermost loop, and with a count of zero it skips the body. In a handler the three raise PRIVILEGE, HANDLER-WORD. LOOP is raised
with BUSY for an active register, which every register is once four loops are active, with NEST for a body that outlasts the innermost
loop's, and with NO-LOOP for an empty stack. -/
def Obligations.LoopsStartSkipAndLeave : Prop :=
  (∀ (S : Bool) (c : BitVec 3) (s : State), s.t.x.hmode = false → okC s c →
     ((s.rc c).val = false → completes (.lexit S c) S s s) ∧
     (∀ l ls, (s.rc c).val = true → s.t.c.stack = l :: ls →
       ∃ t, completes (.lexit S c) S s t ∧
         t = { s with t := { s.t with c := { s.t.c with
               loops := t.t.c.loops, stack := ls, xfer := .goto ((s.t.c.loop l).last + 1) } } } ∧
         ∀ m, t.t.c.loop m = if m = l then { s.t.c.loop l with count := 0 } else s.t.c.loop m)) ∧
  (∀ (i : Instr) (S : Bool) (l : BitVec 2) (n : Nat) (count : Word) (s : State),
     ((∃ r len, i = .loop S l r len ∧ okS s r ∧ count = (s.rs r).val ∧ n = len.toNat) ∨
       (∃ k len, i = .loopi S l k len ∧ count = s.immZ k ∧ n = len.toNat)) →
     s.t.x.hmode = false → (s.t.c.loop l).count = 0 →
     (∀ m, s.t.c.stack.head? = some m → s.afterGroup S + BitVec.ofNat 64 n - 1 ≤ (s.t.c.loop m).last) →
     let start := s.afterGroup S
     let last := start + BitVec.ofNat 64 n - 1
     if count = 0 then completes i S s { s with t := { s.t with c := { s.t.c with xfer := .goto (last + 1) } } }
     else ∃ t, completes i S s t ∧
       t = { s with t := { s.t with c := { s.t.c with loops := t.t.c.loops, stack := l :: s.t.c.stack } } } ∧
       ∀ m, t.t.c.loop m = if m = l then { start := start, last := last, count := count } else s.t.c.loop m) ∧
  (∀ (S : Bool) (l : BitVec 2) (r : BitVec 5) (n : BitVec 14) (k : BitVec 10) (m : BitVec 9) (c : BitVec 3) (i : Instr) (s : State),
     i = .loop S l r n ∨ i = .loopi S l k m ∨ i = .lexit S c →
     (s.t.x.hmode = true → exec i s = .next (s.trapWord (privTrap (whoOf i) 3 0))) ∧
     (s.t.x.hmode = false → i = .loop S l r n → okS s r → (s.t.c.loop l).count ≠ 0 → exec i s = .next (s.trapWord (loopTrap (whoOf i) 1 l.toNat))) ∧
     (s.t.x.hmode = false → i = .loopi S l k m → (s.t.c.loop l).count ≠ 0 → exec i s = .next (s.trapWord (loopTrap (whoOf i) 1 l.toNat))) ∧
     (s.t.x.hmode = false → (∀ j, (s.t.c.loop j).count ≠ 0) → (i = .loop S l r n ∧ okS s r) ∨ i = .loopi S l k m →
       exec i s = .next (s.trapWord (mkTrap .loop (whoOf i) 1 l.toNat 0 0))) ∧
     (s.t.x.hmode = false → i = .loop S l r n → okS s r → (s.t.c.loop l).count = 0 →
       (∃ j, s.t.c.stack.head? = some j ∧ (s.t.c.loop j).last < s.afterGroup S + n.setWidth 64 - 1) →
       exec i s = .next (s.trapWord (loopTrap (whoOf i) 2 l.toNat))) ∧
     (s.t.x.hmode = false → i = .loopi S l k m → (s.t.c.loop l).count = 0 →
       (∃ j, s.t.c.stack.head? = some j ∧ (s.t.c.loop j).last < s.afterGroup S + m.setWidth 64 - 1) →
       exec i s = .next (s.trapWord (loopTrap (whoOf i) 2 l.toNat))) ∧
     (s.t.x.hmode = false → i = .lexit S c → okC s c → (s.rc c).val = true → s.t.c.stack = [] →
       exec i s = .next (s.trapWord (loopTrap (whoOf i) 4 0))))

/-- R26, R27, R257, R258, R296: how control goes on after a word, said of `NOP`, which has no other effect. Within a group it goes to the next
word. After a group's last word with no transfer armed it goes on past the group, or back to the START of the innermost loop that ends there
and has iterations left, and a loop with none left is popped and the next one examined; a taken jump goes to its target and first pops every
loop, from the innermost out, whose range does not hold it; the transfer past a loop's end lands there; in a handler no loop is touched. -/
def Obligations.ControlGoesOnPastAWord : Prop :=
  (∀ (S : Bool) (s : State), exec (.nop S) s = .next (s.advance S)) ∧
  (∀ s : State, s.advance false = { s with t := { s.t with c := { s.t.c with pfx := none, wait := none, pc := s.t.c.pc + 1 } } }) ∧
  (∀ s : State, s.t.c.xfer = .none → s.t.x.hmode = false →
    let c := { s.t.c with pfx := none, wait := none, phase := .boundary, xfer := .none, gseq := s.t.c.gseq + 1 }
    match s.t.c.stack with
    | [] => s.advance true = { s with t := { s.t with c := { c with pc := s.t.c.pc + 1 } } }
    | l :: ls =>
      let r := s.t.c.loop l
      if r.last ≠ s.t.c.pc then s.advance true = { s with t := { s.t with c := { c with pc := s.t.c.pc + 1 } } }
      else
        let less := vset s.t.c.loops l.toNat { r with count := r.count - 1 }
        if r.count ≠ 1 then s.advance true = { s with t := { s.t with c := { c with loops := less, pc := r.start } } }
        else s.advance true = State.advance { s with t := { s.t with c := { s.t.c with loops := less, stack := ls } } } true) ∧
  (∀ (s : State) (a : Word), s.t.c.xfer = .jump a → (∀ l ∈ s.t.c.stack.head?, (s.t.c.loop l).start ≤ a ∧ a ≤ (s.t.c.loop l).last) →
    s.advance true = { s with t := { s.t with c := { s.t.c with
      pfx := none, wait := none, phase := .boundary, xfer := .none, gseq := s.t.c.gseq + 1, pc := a } } }) ∧
  (∀ (s : State) (a : Word) (l : BitVec 2) (ls : List (BitVec 2)), s.t.c.xfer = .jump a → s.t.x.hmode = false → s.t.c.stack = l :: ls →
    (a < (s.t.c.loop l).start ∨ (s.t.c.loop l).last < a) →
    s.advance true = State.advance { s with t := { s.t with c := { s.t.c with
      loops := vset s.t.c.loops l.toNat { s.t.c.loop l with count := 0 }, stack := ls } } } true) ∧
  (∀ (s : State) (a : Word), s.t.c.xfer = .goto a ∨ (s.t.c.xfer = .jump a ∧ s.t.x.hmode = true) ∨
      (s.t.c.xfer = .none ∧ s.t.x.hmode = true ∧ a = s.t.c.pc + 1) →
    s.advance true = { s with t := { s.t with c := { s.t.c with
      pfx := none, wait := none, phase := .boundary, xfer := .none, gseq := s.t.c.gseq + 1, pc := a } } })

namespace Sys2Proof.Claims

/-- Scratchpad byte a of the task under execution. -/
def winByte (s : State) (a : Nat) : Byte := s.t.win.get a

/-- t is s with the n bytes of x from window offset a on written, least significant first, and nothing else changed (R4). -/
def windowSet (s t : State) (a n : Nat) (x : Nat) : Prop :=
  t = { s with t := { s.t with win := t.t.win } } ∧
    (∀ k, k < n → (winByte t (a + k)).toNat = x / 256 ^ k % 256) ∧
    ∀ b, b < a ∨ a + n ≤ b → winByte t b = winByte s b

/-- The word raises a trap of this information at itself: its own group keeps what it did before (R33). While a move freezes the code object of
the handler, it waits and changes nothing else (R56; DEDUCED, log entry 32). -/
def raises (i : Instr) (s : State) (t : TrapInfo) : Prop :=
  exec i s = .next (if s.handlerWaits t.cause then s.block .other s.progress
    else s.takeTrap t s.wordOff { wait := none, xfer := s.t.c.xfer, ending := false })

/-- The first poisoned scalar register of a list, in R246's order. -/
def firstBad (s : State) (l : List (BitVec 5)) : Option (BitVec 5) := l.find? fun r => (s.rs r).poison.isSome

/-- The control words of R247's table that read scalar registers, `LOOP` aside, with those that it lists, in the order of the report. -/
def mustNotPass : Instr → Option (List (BitVec 5))
  | .ptbs _ _ a => some [a]
  | .lds _ _ a _ => some [a]
  | .sts _ d a _ => some [a, d]
  | .mbwr _ d _ => some [d]
  | .csrw _ d _ => some [d]
  | _ => none

/-- The SYN words, with the scalar registers that they read (R240, R242, R247), `XLD` without its speculative flag: that those whose entries are
silent on poison raise it too is DEDUCED, log entry 23. -/
def synReads : Instr → Option (List (BitVec 5))
  | .xld _ _ a b _ false _ => some [a, b]
  | .xst _ d a b _ => some [a, b, d]
  | .ald _ _ a b _ _ _ => some [a, b]
  | .ast _ d a b _ _ => some [a, b, d]
  | .aadd _ d a b _ _ _ _ => some [a, b, d]
  | .amax _ d a b _ _ _ _ => some [a, b, d]
  | .amin _ d a b _ _ _ _ => some [a, b, d]
  | .aand _ d a b _ _ _ _ => some [a, b, d]
  | .aor _ d a b _ _ _ _ => some [a, b, d]
  | .axchg _ d a b _ _ _ _ => some [a, b, d]
  | .acas _ d a b _ _ _ _ => some [a, b, BitVec.ofNat 5 (2 * d.toNat), BitVec.ofNat 5 (2 * d.toNat + 1)]
  | .afadd _ d a b _ _ => some [a, b, d]
  | .spawn _ _ a _ => some [a]
  | .pub _ a _ => some [a]
  | .subscribe _ a b => some [a, b]
  | .subt _ _ a b => some [a, b]
  | .gjoin _ _ a b => some [a, b]
  | .bwait _ a _ => some [a]
  | .waitw _ _ a b _ => some [a, b]
  | .mclaim _ _ a _ => some [a]
  | .notify _ _ a b _ => some [a, b]
  | .hqry _ _ a b _ => some [a, b]
  | .hdup _ _ a b _ => some [a, b]
  | .hdrop _ a => some [a]
  | .omcall _ _ a b _ => some [a, b]
  | .ctxnew _ _ a => some [a]
  | .ctxgrant _ _ a b _ => some [a, b]
  | .ctxset _ _ a b _ => some [a, b]
  | .ctxrun _ _ a => some [a]
  | .ctxrunResume _ _ a b => some [a, b]
  | .ctxrunKill _ _ a b => some [a, b]
  | .ctxstop _ _ a => some [a]
  | .ctxdel _ _ a => some [a]
  | .ctxrevoke _ _ a _ => some [a]
  | .logarm _ _ a b => some [a, b]
  | .logarmOff _ _ a => some [a]
  | .perfr _ _ a b _ => some [a, b]
  | _ => none

end Sys2Proof.Claims

/-- R247, R260, R294: a scratchpad word whose offset is not a multiple of 8 raises ALIGNMENT, and otherwise one that is not wholly in the window
raises BOUNDS with subcode SPAD-RANGE; on an aligned offset within the window, computed in 64 bits from unpoisoned registers, `LDS` reads
and `STS` writes its eight bytes. -/
def Obligations.ScratchpadWordsReadWriteOrTrap : Prop :=
  (∀ (i : Instr) (S : Bool) (d a : BitVec 5) (k : BitVec 11) (s : State), okS s a →
     i = .lds S d a k ∨ (i = .sts S d a k ∧ okS s d) →
     let off := (s.rs a).val + s.immS k * 8
     (off.toNat % 8 ≠ 0 → raises i s (alignTrap (whoOf i) 1 off 3)) ∧
     (off.toNat % 8 = 0 → s.t.window < off.toNat + 8 → raises i s (boundsPlain (whoOf i) 0x0A))) ∧
  ((∀ (S : Bool) (d a : BitVec 5) (k : BitVec 11) (s : State), okS s a →
     let off := (s.rs a).val + s.immS k * 8
     off.toNat % 8 = 0 → off.toNat + 8 ≤ s.t.window →
     ∃ t v, completes (.lds S d a k) S s t ∧ scalarSet s t d { val := v, poison := none } ∧
       ∀ j, j < 8 → v.toNat / 256 ^ j % 256 = (winByte s (off.toNat + j)).toNat) ∧
   (∀ (S : Bool) (d a : BitVec 5) (k : BitVec 11) (s : State), okS s a → okS s d →
     let off := (s.rs a).val + s.immS k * 8
     off.toNat % 8 = 0 → off.toNat + 8 ≤ s.t.window →
     ∃ t, completes (.sts S d a k) S s t ∧ windowSet s t off.toNat 8 (s.rs d).val.toNat))

/-- R7, R206, R261 to R263, R266, R295: what a write to a control register leaves in it, for the registers of a task that software writes and the tile
registers of a tile that its mask names, and that a write to a read-only register, or of 3 to an ACT field, changes nothing; what each allocated
register reads as, field by field (R130, R132, R135, R136, R159, R174, R228, R259, R274, R284, R293, R313), a reserved one as zero; the
mailbox, global time and the control registers: `CSRR` reads the register as it stands; `CSRW` writes it, and outside a handler one to `XPC`,
`XCODE`, `FQACT`, `VQACT` or `MQACT` raises PRIVILEGE, HANDLER-ONLY. -/
def Obligations.MailboxTimeAndControlRegisters : Prop :=
  (∀ (s : State) (v : Word),
     ((s.wrCsr 0x030 v).csr 0x030 = v &&& 0x1FF7F7F) ∧
     ((s.wrCsr 0x101 v).csr 0x101 = v &&& 0xFFFFFFFF) ∧
     ((s.wrCsr 0x102 v).csr 0x102 = v &&& 0xFFFFFF) ∧
     (∀ n, 0x108 ≤ n → n ≤ 0x10B → (s.wrCsr n v).csr n = v ∧ ∀ m, 0x108 ≤ m → m ≤ 0x10B → m ≠ n → (s.wrCsr n v).csr m = s.csr m) ∧
     ((s.wrCsr 0x0C0 v).csr 0x0C0 = v &&& 1) ∧
     (∀ n, n = 0x0E0 ∨ n = 0x0F0 → (v &&& 3 = 3 → s.wrCsr n v = s) ∧ (v &&& 3 ≠ 3 → (s.wrCsr n v).csr n = v &&& 3)) ∧
     (∀ a k, a < 16 → k < 8 →
       let n := 0x200 + 8 * a + k
       (s.t.ownsAcc a = false ∨ k = 0 ∨ 5 < k → s.wrCsr n v = s) ∧
       (s.t.ownsAcc a = true → 0 < k → k < 6 → (s.wrCsr n v).csr n = v ∧
         ∀ m, 0x200 ≤ m → m < 0x280 → m ≠ n → (s.wrCsr n v).csr m = s.csr m)) ∧
     (∀ n ∈ [0x010, 0x020, 0x021, 0x022, 0x023, 0x024, 0x025, 0x026, 0x027, 0x028, 0x031, 0x040, 0x041, 0x042, 0x0C1, 0x0C2, 0x0D0, 0x0D1,
             0x0D2, 0x0E1, 0x0F1, 0x100, 0x103, 0x104, 0x105, 0x106, 0x107, 0x10C, 0x110, 0x111, 0x180, 0x181], s.wrCsr n v = s)) ∧
  (∀ s : State,
     let c := s.t.c
     let x := s.t.x
     let num := fun (n : Nat) => BitVec.ofNat 64 n
     let asked := x.slice || x.stop || x.system
     (s.csr 0x010 = x.flags.setWidth 64) ∧
     (∀ l : BitVec 2, s.csr (0x020 + l.toNat) = (c.loop l).count ∧
       s.csr (0x024 + l.toNat) = num ((c.loop l).last.toNat % 2 ^ 32 * 2 ^ 32 + (c.loop l).start.toNat % 2 ^ 32)) ∧
     (s.csr 0x028 = num (c.stack.length * 2 ^ 8 + (c.stack.zipIdx.map fun p => p.1.toNat * 4 ^ p.2).sum)) ∧
     (s.csr 0x031 = x.chkorg ∧ s.csr 0x040 = s.t.id ∧ s.csr 0x041 = num (s.t.prio * 2 ^ 24 + s.t.ctx * 2 ^ 12 + s.t.part)) ∧
     (s.csr 0x042 = num (s.t.tok.toList.zipIdx.map fun p => p.1 * 32 ^ p.2).sum) ∧
     (s.csr 0x0C0 = num x.fqact.toNat ∧ s.csr 0x0C1 = x.fqpos ∧ s.csr 0x0C2 = x.fqcmd) ∧
     (s.csr 0x0D0 = num (s.spn s.core) ∧ s.csr 0x0D1 = num s.t.window ∧ s.csr 0x0D2 = num (s.heldSlots s.t * 2 ^ 8 + s.t.quota)) ∧
     (s.csr 0x0E0 = x.vqact.setWidth 64 ∧ s.csr 0x0E1 = x.vqcmd ∧ s.csr 0x0F0 = x.mqact.setWidth 64 ∧ s.csr 0x0F1 = x.mqcmd) ∧
     (s.csr 0x100 = x.xcause.setWidth 64 ∧ s.csr 0x101 = x.xpc.setWidth 64 ∧ s.csr 0x102 = x.xcode.setWidth 64) ∧
     (s.csr 0x103 = x.x0 ∧ s.csr 0x104 = x.x1 ∧ s.csr 0x105 = x.x2 ∧ s.csr 0x106 = x.x3) ∧
     (s.csr 0x107 = num (x.pending.length * 2 ^ 8 + s.t.v.score.isSome.toNat * 2 ^ 2 + x.forced.toNat * 2 + x.hmode.toNat)) ∧
     (∀ k : Fin 4, s.csr (0x108 + k.val) = x.scr[k.val]) ∧ (s.csr 0x10C = x.fscnt) ∧
     (s.csr 0x110 = num ((if asked then x.remain.toNat else 0) * 2 ^ 32 + x.system.toNat * 2 ^ 2 + x.stop.toNat * 2 + x.slice.toNat)) ∧
     (s.csr 0x111 = x.limit.setWidth 64) ∧
     (∀ k, s.ctx s.t.ctx = some k → s.csr 0x180 = num (k.depth * 2 ^ 24 + k.parent * 2 ^ 12 + s.t.ctx)) ∧
     (s.csr 0x181 = num (s.own s.t.ctx 608 7 * 2 ^ 32 + s.freeFrames s.t.ctx)) ∧
     (∀ a, a < 16 →
       let z := s.tile s.core a
       let r := fun (k : Nat) => s.csr (0x200 + 8 * a + k)
       (s.t.ownsAcc a = true → r 0 = num (z.kind.toNat * 2 ^ 16 + z.ver.toNat) ∧ r 1 = z.nans ∧ r 2 = z.infs ∧ r 3 = z.wraps ∧ r 4 = z.mmas ∧ r 5 = z.ecc) ∧
       (s.t.ownsAcc a = false → ∀ k < 8, r k = 0) ∧ r 6 = 0 ∧ r 7 = 0) ∧
     (∀ n, (0x043 ≤ n ∧ n < 0x050) → s.csr n = 0)) ∧
  ((∀ (S : Bool) (d : BitVec 5) (m : BitVec 3) (s : State),
     ∃ t, completes (.mbrd S d m) S s t ∧ scalarSet s t d { val := s.t.c.mb[m.toNat]'m.isLt, poison := none }) ∧
   (∀ (S : Bool) (d : BitVec 5) (m : BitVec 3) (s : State), okS s d →
     ∃ t, completes (.mbwr S d m) S s t ∧ t = { s with t := { s.t with c := { s.t.c with mb := t.t.c.mb } } } ∧
       ∀ n : BitVec 3, t.t.c.mb[n.toNat]'n.isLt = if n = m then (s.rs d).val else s.t.c.mb[n.toNat]'n.isLt) ∧
   (∀ (S : Bool) (d : BitVec 5) (s : State),
     ∃ t, completes (.time S d) S s t ∧ scalarSet s t d { val := s.ticks, poison := none }) ∧
   (∀ (S : Bool) (d : BitVec 5) (n : BitVec 12) (s : State),
     ∃ t, completes (.csrr S d n) S s t ∧ scalarSet s t d { val := s.csr n.toNat, poison := none }) ∧
   (∀ (S : Bool) (d : BitVec 5) (n : BitVec 12) (s : State), okS s d →
     if n.toNat ∈ [0x101, 0x102, 0x0C0, 0x0E0, 0x0F0] ∧ s.t.x.hmode = false then
       raises (.csrw S d n) s (privTrap (whoOf (.csrw S d n)) 2 0)
     else completes (.csrw S d n) S s (s.wrCsr n.toNat (s.rs d).val)))

/-- R247, R248: each control word of R247's table that may not pass a poisoned register (`LDS`, `STS`, `MBWR`, `CSRW`, `PTBS`, `BRT`, `BRF`, and
outside a handler `LEXIT` and `LOOP`) raises POISON with the number of the first poisoned register that it reads, and has no effect; so does
each SYN word, `XLD` without its speculative flag among them, when it begins (log entry 23, DEDUCED, for the SYN words whose entries are
silent). `CHK` of a register that is not poisoned has no effect; of a poisoned one it raises the recorded trap with DEFERRED set, and
`CHKORG` receives the origin and the register. -/
def Obligations.PoisonIsRaisedWhereItMayNotPass : Prop :=
  (let rule := fun (i : Instr) (S cond : Bool) (reg : Nat) (p : Option Deferral) (s : State) =>
     match p with
     | none => completes i S s s
     | some d =>
       let org : Word := BitVec.ofNat 64 (d.org.toNat * 2 ^ 32 + cond.toNat * 2 ^ 5 + reg)
       let s1 := { s with t := { s.t with x := { s.t.x with chkorg := org } } }
       exec i s = .next (s1.trapWord { d.info with x0 := d.info.x0 ||| 0x1000000 })
   (∀ (S : Bool) (a : BitVec 5) (s : State), rule (.chkScalar S a) S false a.toNat (s.rs a).poison s) ∧
   (∀ (S : Bool) (a : BitVec 3) (s : State), rule (.chkCondition S a) S true a.toNat (s.rc a).poison s)) ∧
  (∀ (S : Bool) (a : BitVec 5) (s : State), okS s a → completes (.chkScalar S a) S s s) ∧
  (∀ (S : Bool) (a : BitVec 3) (s : State), okC s a → completes (.chkCondition S a) S s s) ∧
  ((∀ (i : Instr) (s : State) (l : List (BitVec 5)) (r : BitVec 5), mustNotPass i = some l → firstBad s l = some r →
     raises i s (poisonTrap (whoOf i) false r.toNat)) ∧
   (∀ (S : Bool) (b c : BitVec 3) (l : Bool) (s : State), ¬ okC s c →
     raises (.brt S b c l) s (poisonTrap (whoOf (.brt S b c l)) true c.toNat) ∧
     raises (.brf S b c l) s (poisonTrap (whoOf (.brf S b c l)) true c.toNat)) ∧
   (∀ (S : Bool) (c : BitVec 3) (s : State), s.t.x.hmode = false → ¬ okC s c →
     raises (.lexit S c) s (poisonTrap (whoOf (.lexit S c)) true c.toNat)) ∧
   (∀ (S : Bool) (l : BitVec 2) (r : BitVec 5) (n : BitVec 14) (s : State), s.t.x.hmode = false → ¬ okS s r →
     raises (.loop S l r n) s (poisonTrap (whoOf (.loop S l r n)) false r.toNat)) ∧
   (∀ (i : Instr) (s : State) (l : List (BitVec 5)) (r : BitVec 5), synReads i = some l → s.t.c.wait = none → firstBad s l = some r →
     raises i s (poisonTrap (whoOf i) false r.toNat)))

namespace Sys2Proof.Claims

/-- A group without a violation, no loop being active (R24, R25, R27, R28): its words decode and it ends with a stop bit; it holds at most two
vector words, at most two control words and one word of R27's set; no word reads or writes a register of its engine that an earlier word of
the group writes; and each prefix joins a word that takes it. -/
def lawfulGroup (ws : List IWord) : Prop :=
  ∃ is : List Instr, ws.map decode = is.map Except.ok ∧ (∃ w, ws.getLast? = some w ∧ w.getLsbD 31 = true) ∧
    (is.filter fun i => engineOf i == 1).length ≤ 2 ∧
    (is.filter fun i => engineOf i == 0 && (match i with | .pfx _ => false | _ => true)).length ≤ 2 ∧
    (is.filter isFlow).length ≤ 1 ∧
    (is.Pairwise fun i j => ∀ r ∈ ownWrites i, ∀ u ∈ ownUses j, u.1 ≠ r) ∧
    ∀ k p, is[k]? = some (.pfx p) → pfxViolation (ws.getD k 0) p k ws[k + 1]? = none

/-- A scalar or condition register. -/
def scalarOrCondition : Reg → Bool
  | .s _ => true
  | .c _ => true
  | _ => false

/-- The violation of word k of a group and its subcode (R28), of words whose earlier ones decode to `is`: a field of its own, the prefix rule,
or the counts, registers and transfers of R24, R25 and R27, a transfer also where an active loop ends (R257). -/
def violationAt (ws : List IWord) (ends : Bool) (is : List Instr) (k : Nat) (w : IWord) : Option Nat :=
  match decode w with
  | .error e => some e.code
  | .ok (.pfx p) => (pfxViolation w p k ws[k + 1]?).map Illegal.code
  | .ok i =>
    let many := (engineOf i == 1 && 2 ≤ (is.filter fun j => engineOf j == 1).length)
      || (engineOf i == 0 && 2 ≤ (is.filter fun j => engineOf j == 0 && (match j with | .pfx _ => false | _ => true)).length)
    let flow := isFlow i && (is.any isFlow || ends)
    let clash := (ownUses i).any fun u => is.any fun j => match j with | .pfx _ => false | _ => (ownWrites j).contains u.1
    if many || flow || clash || (k == 7 && !w.getLsbD 31) then some 6 else none

/-- The lines of a group's words and what their reading does before the check (R71): a flit for each line that comes from elsewhere. -/
def codeRead (s : State) : State :=
  match s.codeAcc with
  | none => s
  | some a =>
    let n := (s.groupWords s.t.c.codeO (s.codeLen s.t.c.codeO) 8 s.t.c.pc.toNat).length
    (s.askCode a.o (a.o.codeLines s.t.c.pc.toNat n)).modT fun t => { t with startAsk := .plain }

/-- A line of the group at hand cannot be read (R73, R74, R97): the first one, with the subcode. -/
def codeFault (s : State) : Option ((Nat × Nat) × Nat) :=
  match s.codeAcc with
  | none => none
  | some a =>
    let n := (s.groupWords s.t.c.codeO (s.codeLen s.t.c.codeO) 8 s.t.c.pc.toNat).length
    (a.o.codeLines s.t.c.pc.toNat n).findSome? fun l => (s.lineFault a.oid a.o l.1 l.2).map fun e => (l, e)

/-- The words that place a drain in the vector queue (R172). -/
def drains : Instr → Bool
  | .taskEnd _ => true
  | .yield _ => true
  | _ => false

end Sys2Proof.Claims

/-- R21, R24, R25, R28, R29, R257, R297: outside a handler a PFX stands for the next word. A group at a boundary that no trap or image copy
precedes, in a handler only the trap of the code that a placement could not enter, is checked whole: control stands before it, with its words read, or its trap is taken before any word of it has an effect (while a
move freezes the handler's code it is checked again; log entry 32, DEDUCED). Of a line of the group that cannot be read, FETCH-ERROR is taken
there, once its place has had its time to reply (log entry 111, DESIGN CHOICE). The check reports the first word with a violation, its index and
its subcode, whether the group ends, is over-long or runs past the code object; a group without one that has no stop bit is truncated, and one with the innermost active loop's END at a word that is not its last raises END-MISALIGNED. Without an
active loop the check finds nothing exactly when the group is lawful, and a group beyond the last word is truncated. A checked group starts as soon as it can be admitted, which it can when its
words fit into their queues (in a handler none enters one) and no scalar or condition register that it names is pending; until then nothing
changes. The model's own readings: the registers that a word names (log entry 84, DEDUCED); an orphaned PFX before all else (log entry 86,
DEDUCED); a word that reads what its own group delivers is admitted (log entry 96, DESIGN CHOICE). -/
def Obligations.GroupsAreCheckedAndAdmittedWhole : Prop :=
  (∀ (p : BitVec 28) (s : State), s.t.x.hmode = false →
    exec (.pfx p) s = .next { s with t := { s.t with c := { s.t.c with pfx := some p, pc := s.t.c.pc + 1 } } }) ∧
  (∀ s0 : State, s0.t.st = .running → s0.t.c.phase = .boundary → s0.t.entryTrap = none →
      s0.t.x.hmode = true ∨ (s0.t.x.pending = [] ∧ s0.t.starts = [] ∧ s0.t.image = false) →
    (∀ a l e t, s0.codeAcc = some a → codeFault s0 = some (l, e) → s0.unanswered s0.t.startAsk e = some t →
      exec .groupCheck s0 = .next { s0 with t := { s0.t with startAsk := .asked t } }) ∧
    (∀ a l e, s0.codeAcc = some a → codeFault s0 = some (l, e) → s0.unanswered s0.t.startAsk e = none → s0.handlerWaits .fetchError = false →
      exec .groupCheck s0 = .next (State.takeTrap ((s0.failLine s0.t.ctx a.oid a.o l.1 l.2 e).modT fun t => { t with startAsk := .plain })
        (s0.fetchTrap { eng := 0, op := 0 } a (e, l.1)) s0.t.c.pc s0.boundaryKept)) ∧
    (codeFault s0 = none →
    let s := codeRead s0
    let ws := s.groupWords s.t.c.codeO (s.codeLen s.t.c.codeO) 8 s.t.c.pc.toNat
    let s1 := { s with t := { s.t with c := { s.t.c with grp := s.t.c.pc, words := ws } } }
    match s1.groupViolation s.t.c.pc with
    | none => exec .groupCheck s0 = .next { s1 with t := { s1.t with c := { s1.t.c with phase := .checked } } }
    | some i => exec .groupCheck s0 = .next (if s1.handlerWaits i.cause then s1
        else s1.takeTrap i s.t.c.pc { wait := none, xfer := s.t.c.xfer, ending := false }))) ∧
  (∀ (s : State) (a : Word), a.toNat < s.codeLen s.t.c.codeO →
    let ws := s.groupWords s.t.c.codeO (s.codeLen s.t.c.codeO) 8 a.toNat
    let last := a + BitVec.ofNat 64 (ws.length - 1)
    let stops := (ws.getLast?.any fun w => w.getLsbD 31) = true
    let ends := decide (stops ∧ ∃ l ∈ s.t.c.stack, s.t.x.hmode = false ∧ (s.t.c.loop l).last = last)
    let is := fun (k : Nat) => (ws.take k).filterMap fun w => (decode w).toOption
    (∀ k w sub, ws[k]? = some w → violationAt ws ends (is k) k w = some sub →
      (∀ j v, j < k → ws[j]? = some v → violationAt ws ends (is j) j v = none) →
      s.groupViolation a = some { cause := .illegalEncoding, x0 := BitVec.ofNat 64 (k * 256 + sub), x1 := w.setWidth 64, x2 := 0, x3 := 0 }) ∧
    ((∀ k w, ws[k]? = some w → violationAt ws ends (is k) k w = none) → stops →
      (s.t.x.hmode = false → ∀ l ls, s.t.c.stack = l :: ls → a ≤ (s.t.c.loop l).last → (s.t.c.loop l).last < last →
        s.groupViolation a = some (mkTrap .loop { eng := 0, op := 0 } 3 l.toNat 0 0)) ∧
      ((s.t.x.hmode = true ∨ s.t.c.stack = [] ∨ ∀ l ls, s.t.c.stack = l :: ls → (s.t.c.loop l).last < a ∨ last ≤ (s.t.c.loop l).last) →
        s.groupViolation a = none)) ∧
    (¬ stops → (∀ k w, ws[k]? = some w → violationAt ws ends (is k) k w = none) →
      s.groupViolation a = some { cause := .illegalEncoding, x0 := BitVec.ofNat 64 (ws.length * 256 + 7), x1 := 0, x2 := 0, x3 := 0 })) ∧
  (∀ s : State, s.t.st = .running → s.t.c.phase = .checked →
    exec .groupAdmit s = .next (if s.canAdmit then { s with t := { s.t with c := { s.t.c with phase := .running } } } else s)) ∧
  (∀ (s : State) (a : Word), s.t.c.stack = [] →
    let len := s.codeLen s.t.c.codeO
    let ws := if len ≤ a.toNat then [] else s.groupWords s.t.c.codeO len 8 a.toNat
    s.groupViolation a = none ↔ lawfulGroup ws) ∧
  (∀ (s : State) (a : Word), s.codeLen s.t.c.codeO ≤ a.toNat → s.groupViolation a = some (illegalTrap 0 .groupTruncated 0)) ∧
  (∀ s : State, s.canAdmit = true ↔
    (∀ i ∈ s.groupInstrs, ∀ p ∈ usesOf i, s.t.c.pend.contains p.1 = true → scalarOrCondition p.1 = false) ∧
    s.t.v.q.length + (if s.t.x.hmode then 0 else (s.groupInstrs.filter fun i => engineOf i == 1 || drains i).length) ≤ 256 ∧
    s.t.mq.length + (if s.t.x.hmode then 0 else (s.groupInstrs.filter fun i => engineOf i == 3).length) ≤ 64 ∧
    s.t.f.q.length + (if s.t.x.hmode then 0 else (s.groupInstrs.filter fun i => engineOf i == 4).length) ≤ 64)

namespace Sys2Proof.Claims

/-- A check fails with a trap of this cause and subcode (R295, R352). -/
def fails {α : Type} (c : Chk α) (cause : Cause) (sub : Nat) : Prop :=
  ∃ i, c = .trap i ∧ i.cause = cause ∧ (i.x0.extractLsb' 0 8).toNat = sub

/-- The n low bytes of a word, extended to 64 bits: by zeros, or by the sign (R240, R241). -/
def extended (sign : Bool) (n old : Nat) : Word := if sign then (BitVec.ofNat (8 * n) old).signExtend 64 else BitVec.ofNat 64 old

/-- A value of n bytes as an integer, signed unless u (R241). -/
def sized (u : Bool) (n x : Nat) : Int := if u then (x : Int) else (BitVec.ofNat (8 * n) x).toInt

/-- An object that a check has found malformed stands among Mason's reports, once (R49). -/
def reported (s : State) (i : TrapInfo) : State :=
  let r := Report.malformed (BitVec.ofNat 48 i.x2.toNat)
  if i.cause = .handleInvalid ∧ i.x0.toNat % 256 = 6 ∧ r ∉ s.reports then { s with reports := s.reports ++ [r] } else s

/-- The word waits: nothing changes but its own wait. -/
def waits (i : Instr) (s : State) (w : Wake) (p : Progress) : Prop := exec i s = .next (s.block w p)

/-- No line of the L2 is pending (R88). -/
def settledL2 (s : State) : Prop := ∀ p ∈ s.l2, ∀ t ∈ p.2.tags.toList, t.pend = 0

/-- An atomic of R241: stop bit, the register that receives the old value, the registers of its operands, handle and index, whether
the old value is zero-extended, whether it is a release, its bytes, and what it writes for an old value, if anything. -/
structure AtomicRule where
  stop : Bool
  d : BitVec 5
  ops : List (BitVec 5)
  a : BitVec 5
  b : BitVec 5
  u : Bool
  release : Bool
  n : Nat
  new : Nat → Option Nat

/-- The table of R241 for the words that read and write; an operand is the n low bytes of its register. -/
def atomicRule (i : Instr) (s : State) : Option AtomicRule :=
  let low := fun (d : BitVec 5) (n : Nat) => (s.rs d).val.toNat % 256 ^ n
  match i with
  | .aadd S d a b u r _ k => let n := 2 ^ k.toNat
    some { stop := S, d := d, ops := [d], a := a, b := b, u := u, release := r, n := n, new := fun old => some (old + low d n) }
  | .amax S d a b u r _ k => let n := 2 ^ k.toNat
    some { stop := S, d := d, ops := [d], a := a, b := b, u := u, release := r, n := n,
           new := fun old => some (if sized u n old < sized u n (low d n) then low d n else old) }
  | .amin S d a b u r _ k => let n := 2 ^ k.toNat
    some { stop := S, d := d, ops := [d], a := a, b := b, u := u, release := r, n := n,
           new := fun old => some (if sized u n (low d n) < sized u n old then low d n else old) }
  | .aand S d a b u r _ k => let n := 2 ^ k.toNat
    some { stop := S, d := d, ops := [d], a := a, b := b, u := u, release := r, n := n, new := fun old => some (old &&& low d n) }
  | .aor S d a b u r _ k => let n := 2 ^ k.toNat
    some { stop := S, d := d, ops := [d], a := a, b := b, u := u, release := r, n := n, new := fun old => some (old ||| low d n) }
  | .axchg S d a b u r _ k => let n := 2 ^ k.toNat
    some { stop := S, d := d, ops := [d], a := a, b := b, u := u, release := r, n := n, new := fun _ => some (low d n) }
  | .acas S p a b u r _ k => let n := 2 ^ k.toNat
    let d : BitVec 5 := BitVec.ofNat 5 (2 * p.toNat)
    some { stop := S, d := d, ops := [d, d + 1], a := a, b := b, u := u, release := r, n := n,
           new := fun old => if old = low d n then some ((s.rs (d + 1)).val.toNat) else none }
  | .afadd S d a b r _ =>
    some { stop := S, d := d, ops := [d], a := a, b := b, u := true, release := r, n := 4, new := fun old => some (fAdd .f32 old (low d 4)).1 }
  | _ => none

end Sys2Proof.Claims

/-- R55, R56: the checks of an access that names a handle, in order: the first that fails raises its trap, and the one wait is that for
a moving object. -/
def Obligations.AccessChecksComeInOrder : Prop :=
  ∀ (s : State) (ctx : Nat) (h : Word) (need : BitVec 6) (w : Who) (stalls : Bool),
    let c := s.classChecked ctx h need w stalls
    let e := s.hentry ctx h.toNat
    if 2 ^ 24 ≤ h.toNat then fails c .handleInvalid 1
    else if h = 0 then fails c .handleInvalid 2
    else if s.tableSize ctx ≤ h.toNat then fails c .handleInvalid 3
    else if e.st = .free then fails c .handleInvalid 4
    else if e.st = .revoked then fails c .handleRevoked 1
    else match s.obj e.oid with
      | none => fails c .handleInvalid 5
      | some o =>
        if stalls = true ∧ o.moving = true then c = .stall
        else if o.wf = false then fails c .handleInvalid 6
        else if e.rights &&& need ≠ need then fails c .rights 1
        else if o.sealed = true ∧ need &&& 0x0E ≠ 0 then fails c .rights 2
        else if (o.coherent = true ∧ need.getLsbD 2) ∨ (o.coherent = false ∧ need.getLsbD 3) then fails c .rights 3
        else c = .ok { h := h.toNat, oid := e.oid, e := e, o := o }

/-- R55: the bounds checks that follow, of an access with first indices and counts, dimension by dimension from the lowest. -/
def Obligations.BoundsChecksGoByDimension : Prop :=
  ∀ (a : Acc) (idx cnt : Nat → Nat) (w : Who),
    let last := fun j => idx j + cnt j - 1
    let bad := fun j => (a.o.rank.toNat ≤ j ∧ last j ≠ 0) ∨ a.o.extent j ≤ last j ∨ idx j < a.e.lo j ∨ a.e.hi j < last j
    ((∀ j < 4, ¬ bad j) → boundsChecked a idx cnt w [0, 1, 2, 3] = none) ∧
    (∀ j < 4, bad j → (∀ k < j, ¬ bad k) →
      boundsChecked a idx cnt w [0, 1, 2, 3] = some (boundsTrap w
        (if a.o.rank.toNat ≤ j ∧ last j ≠ 0 then 1 else if a.o.extent j ≤ last j then 2 else 3) a.h a.oid.toNat j (idx j) (last j)))

/-- R55, R73, R240: `XLD` and `XST` of unpoisoned registers whose access passes its checks. `XLD` reads through the L1, and d receives the 1, 2,
4 or 8 bytes extended as the word says; `XST` writes that many low bytes of d. An access that has been resolved completes by what it has
resolved: an `XLD` behind a write of the task to the same object that goes on in the background waits, one that misses has its lines
reserved and reads when it goes on, and a place that sends no reply is waited for as long as R73 allows; an `XST` goes on at once and is
performed in the background where an earlier one still is, or where its place sends no reply (log entry 100, DEDUCED). A run of bytes within one
line is read from the line as the L2, the tier, the peer or the nearest replica holds it, and written as one line write; a
versioned read that misses the L1 leaves its line there. The page of a write first has its frame, zeroed, and its entry in every dirty log that is
due, one log after the other, or the write is not ready. A hit of the L1 counts as the fill of a hit in the L2 does (log entry 116,
DEDUCED), a page without a frame reads zeros, and a replica in this package's tiers is read as its own lines are (log entry 122, DESIGN CHOICE) (R58,
R88, R89, R99, R130, R131, R301, R303). -/
def Obligations.ObjectLoadsAndStores : Prop :=
  (∀ (S : Bool) (d a b : BitVec 5) (x p : Bool) (k : BitVec 2) (s s1 : State) (acc : Acc) (rs : List (Nat × Nat × Nat)) (bs : List Byte),
    let i := Instr.xld S d a b x p k
    let wake := Wake.access i acc.h acc.oid rs 0 0
    (s.progress = .plain ∧ s.resolved = none ∧ okS s a ∧ okS s b ∧
        s.xacc (whoOf i) (s.rs a).val (s.rs b).val (2 ^ k.toNat) rREAD 1 = .ok (acc, rs)) ∨
      (s.progress.isOpen = true ∧ ∃ v v2, s.resolved = some (acc, rs, v, v2)) →
    (s.storesHold acc = true → waits i s wake .plain) ∧
    (s.storesHold acc = false →
      (s.progress = .plain → s.runsMiss acc true rs = true → exec i s = .next ((s.reserveRuns acc true rs).block wake (.asked s.ticks))) ∧
      (s.progress ≠ .plain ∨ s.runsMiss acc true rs = false →
        (s.readRuns acc true rs = (s1, .ok bs) →
          ∃ t, exec i s = .next (t.advance S) ∧ scalarSet s1 t d { val := extended x (2 ^ k.toNat) (leNat bs), poison := none }) ∧
        (∀ e t, s.readRuns acc true rs = (s1, .error e) → s.unanswered s.progress e.1 = some t → waits i s wake (.asked t)) ∧
        (∀ e, s.readRuns acc true rs = (s1, .error e) → s.unanswered s.progress e.1 = none →
          let u := s1.unpendRuns acc.oid rs
          let why := s1.fetchTrap (whoOf i) acc e
          if p then ∃ t, exec i s = .next (t.advance S) ∧
            scalarSet (reported u why) t d { val := 0, poison := some { info := why, org := u.wordOff.setWidth 32 } }
          else exec i s = .next (u.trapWord why))))) ∧
  (∀ (S : Bool) (d a b : BitVec 5) (k : BitVec 2) (s s1 s2 : State) (acc : Acc) (rs : List (Nat × Nat × Nat)) (e : Option (Nat × Nat)),
    let i := Instr.xst S d a b k
    let bs := leBytes (2 ^ k.toNat) (s.rs d).val.toNat
    s.progress = .plain → okS s a → okS s b → okS s d →
    s.xacc (whoOf i) (s.rs a).val (s.rs b).val (2 ^ k.toNat) rWRITE 1 = .ok (acc, rs) →
    (∀ sub page, s.prepRuns acc rs = .noFrame sub page → exec i s = .next
      (State.block { s with fresh := s.fresh + 1, intake := s.intake ++ [(s.clk, .fault (s.fresh + 1) s.t.ctx s.t.part
        (mkTrap .framePoolEmpty (whoOf i) sub acc.h acc.oid.toNat page))] } .other (.sent (s.fresh + 1)))) ∧
    (s.prepRuns acc rs = .stall → waits i s .other .plain) ∧
    (s.prepRuns acc rs = .ready s1 →
      let later := (s1.reserveRuns acc false rs).modC fun c => { c with stores := c.stores ++
        [{ eng := (whoOf i).eng, op := (whoOf i).op, h := acc.h, oid := acc.oid, runs := rs, bytes := bs, since := s.ticks }] }
      (s1.t.c.stores ≠ [] → exec i s = .next (later.advance S)) ∧
      (s1.t.c.stores = [] → s1.writeRuns acc rs bs = (s2, e) →
        (e = none → exec i s = .next (s2.advance S)) ∧
        (∀ x t, e = some x → s.unanswered .plain x.1 = some t → exec i s = .next (later.advance S)) ∧
        (∀ x, e = some x → s.unanswered .plain x.1 = none →
          exec i s = .next ((s2.pendTrap 0 (s.fetchTrap (whoOf i) acc x) 0 0 false).advance S))))) ∧
  (∀ (S : Bool) (d a b : BitVec 5) (k : BitVec 2) (s : State) (i : TrapInfo), s.progress = .failed i →
    exec (.xst S d a b k) s = .next (s.trapWord i)) ∧
  (∀ (s s1 : State) (acc : Acc) (sh off n : Nat) (bs : List Byte) (l1 : Bool), 0 < n → off % 64 + n ≤ 64 →
    (∀ d, (if l1 then s.readLineL1 s.core s.t.ctx acc.oid acc.o sh off false else s.readLine s.t.ctx acc.oid acc.o sh off false) = (s1, .ok d) →
      s.readRuns acc l1 [(sh, off, n)] = (s1, .ok ((List.range n).map fun i => d.extractLsb' (8 * (off % 64 + i)) 8))) ∧
    (bs.length = n → s.writeLine s.core s.t.ctx acc.oid acc.o sh off (BitVec.ofNat 512 (leNat bs * 2 ^ (8 * (off % 64))))
        (BitVec.ofNat 512 ((2 ^ (8 * n) - 1) * 2 ^ (8 * (off % 64)))) false = (s1, none) →
      s.writeRuns acc [(sh, off, n)] bs = (s1, none))) ∧
  (∀ (s : State) (core ctx : Nat) (oid : BitVec 48) (o : Obj) (sh off : Nat) (na : Bool) (data mask : BitVec 512),
    let rem := remKey oid sh (off / 64 * 64)
    (∀ x, o.coherent = false → s.l1.find? (fun x => x.core == core && x.oid == oid && x.line == l1Line sh off) = some x →
      s.readLineL1 core ctx oid o sh off na =
        ((s.count ctx 0x010B 64).count ctx 0x010C (coursingSectors (coursingMode x.data) (nzWords x.data).length), .ok x.data)) ∧
    (o.coherent = true → s.readLineL1 core ctx oid o sh off na = s.readLine ctx oid o sh off na) ∧
    (∀ d s1, o.coherent = false → s.l1.find? (fun x => x.core == core && x.oid == oid && x.line == l1Line sh off) = none →
      s.readLine ctx oid o sh off na = (s1, .ok d) →
      ∃ t, s.readLineL1 core ctx oid o sh off na = (t, .ok d) ∧ t = { s1 with l1 := t.l1 } ∧
        (s.spn core < 16 → s1.spn core = s.spn core → ∃ x ∈ t.l1, x = { core := core, oid := oid, line := l1Line sh off, data := d })) ∧
    (∀ e s1, o.coherent = false → s.l1.find? (fun x => x.core == core && x.oid == oid && x.line == l1Line sh off) = none →
      s.readLine ctx oid o sh off na = (s1, .error e) → s.readLineL1 core ctx oid o sh off na = (s1, .error e)) ∧
    (s.writeLine core ctx oid o sh off data mask na =
      let r := s.putLine core ctx oid o sh off data mask na
      if off / 64 = 0 then (r.1.noteRoom oid, r.2) else r) ∧
    (s.elsewhere o sh = false → s.mapBad o sh = false → ∀ f, s.frameOf oid sh (off / 65536) = some f →
      let pa := physAddr f (off / 64 * 64)
      let tierOk := s.keyHeld o = true ∧ s.ailing (tierOf pa.toNat) = none
      s.lineBad pa = false → tierOk ∨ (s.l2line pa).isSome = true → s.l2pending pa = none →
        ∃ t, s.readLine ctx oid o sh off na = (t, .ok (s.lineNow pa))) ∧
    (s.elsewhere o sh = false → s.mapBad o sh = false → s.frameOf oid sh (off / 65536) = none →
      s.readLine ctx oid o sh off na = (s.count ctx 0x010B 64,
        .ok (bitsOfBytes 512 ((List.range 64).map fun k => s.objByte oid o sh (off / 64 * 64 + k)))) ∧
      (s.placeOf o sh < 2 → ∀ k < 64, s.objByte oid o sh (off / 64 * 64 + k) = 0)) ∧
    (s.placeOf o sh < 2 → s.mapBad o sh = false → ∀ f, s.frameOf oid sh (off / 65536) = some f →
      let pa := physAddr f (off / 64 * 64)
      let tierOk := s.keyHeld o = true ∧ s.ailing (s.placeOf o sh) = none
      s.lineBad pa = false →
      tierOk ∨ (s.reachesTier ctx pa data mask na = false ∧ ((s.l2line pa).isSome = true ∨ mask = BitVec.allOnes 512)) →
        s.putLine core ctx oid o sh off data mask na =
          ((s.l1merge core oid (l1Line sh off) data mask).l2write ctx pa data mask na, none)) ∧
    (2 ≤ s.placeOf o sh → s.ailing 2 = none → s.mapBad o sh = false → s.remoteBad.contains rem = false →
      (s.replicaServes o sh = false → ∃ t, s.readLine ctx oid o sh off na = (t, .ok (bitsOfBytes 512 (s.remote.read rem 64)))) ∧
      ∃ t, s.writeLine core ctx oid o sh off data mask na = (t, none) ∧
        t.remote = s.remote.write rem (leBytes 64 (mergeBits (bitsOfBytes 512 (s.remote.read rem 64)) data mask).toNat)) ∧
    (s.replicaServes o sh = true → s.nearest o sh ≠ s.boot.ep → s.mapBad o sh = false → s.ailing 2 = none →
      s.replBad.contains (replKey (s.nearest o sh) rem) = false →
      ∃ t, s.readLine ctx oid o sh off na =
        (t, .ok (bitsOfBytes 512 ((List.range 64).map fun k => s.objByte oid o sh (off / 64 * 64 + k)))))) ∧
  (∀ (s : State) (wctx page key : Nat) (oid : BitVec 48) (c : Nat) (cs : List Nat),
    s.logWrite wctx oid page key [] = .ok s ∧
    (∀ t, s.logPage c wctx oid page key = .ok t → s.logWrite wctx oid page key (c :: cs) = t.logWrite wctx oid page key cs) ∧
    (s.logPage c wctx oid page key = .stall → s.logWrite wctx oid page key (c :: cs) = .stall) ∧
    (∀ d, s.logPage c wctx oid page key = .full d → s.logWrite wctx oid page key (c :: cs) = .full d) ∧
    (∀ x l roid ro, s.ctx c = some x → x.log = some l → s.ringObj l.rctx l.ring.toNat 4 20 = some (roid, ro) →
      let u := s.modCtx c fun y => { y with log := some { l with pages := l.pages ++ [key], told := false } }
      let p := leNat (s.objPeek roid 0 0 8)
      let size := (ro.extent 0 / 2 - 8) / 2
      let w := (u.writeObj 48 0 roid ro 0 (64 + 16 * (p % size)) (leBytes 16 (oid.toNat + page * 2 ^ 64 + wctx * 2 ^ 96)) false).1
      (ro.moving = true → s.logPage c wctx oid page key = .stall) ∧
      (ro.moving = false → (p + 2 ^ 64 - leNat (s.objPeek roid 0 8 8)) % 2 ^ 64 < size →
        s.logPage c wctx oid page key = .ok ((w.writeObj 48 0 roid ro 0 0 (leBytes 8 (p + 1)) false).1.count wctx 6 1)) ∧
      (ro.moving = false → size ≤ (p + 2 ^ 64 - leNat (s.objPeek roid 0 8 8)) % 2 ^ 64 → s.logPage c wctx oid page key = .full c)) ∧
    (∀ x l, s.ctx c = some x → x.log = some l → s.ringObj l.rctx l.ring.toNat 4 20 = none →
      s.logPage c wctx oid page key = .ok ((s.noteRing l.rctx l.ring.toNat 4 20).modCtx c fun y =>
        { y with log := some { l with pages := l.pages ++ [key], told := false } }))) ∧
  (∀ (s : State) (acc : Acc) (sh off n page : Nat), 0 < n → off / 65536 = page → (off + n - 1) / 65536 = page →
    let o := acc.o
    let key := pageKey acc.oid sh page
    let tier := s.placeOf o sh
    let prep := s.prepRuns acc [(sh, off, n)]
    let spent := o.ownerEp = s.boot.ep ∧ o.ownerCtx ≠ 0 ∧ s.freeFrames o.ownerCtx.toNat = 0
    (2 ≤ tier ∨ (s.frameOf acc.oid sh page).isSome = true →
      prep = match s.logWrite s.t.ctx acc.oid page key (s.logsDue s.t.ctx key) with
        | .ok t => .ready t
        | .full c => .logFull c
        | .stall => .stall) ∧
    (tier < 2 → s.frameOf acc.oid sh page = none →
      (spent → prep = .noFrame 2 page) ∧
      (¬ spent → s.pool s.die tier = [] → prep = .noFrame 1 page) ∧
      (¬ spent → ∀ f fs, s.pool s.die tier = f :: fs → s.logsDue s.t.ctx key = [] → settledL2 s →
        ∃ t, prep = .ready t ∧ t.frameOf acc.oid sh page = some f ∧ t.pools = alSet s.pools (s.die * 2 + tier) fs ∧
          ∀ a, t.mem.get a = if a / 65536 = f.toNat then 0 else s.mem.get a)))

/-- R240, R247, R300: an `XLD` or `XST` whose check fails raises the trap at the word, or for MISSING-OBJECT sends a fault request to Mason and
waits; a speculative `XLD` does neither and leaves a zero poisoned with the trap in d. A malformed object is reported to Mason all the same
(R49). A speculative `XLD` of a poisoned register raises nothing: d is a zero with the record of the first poisoned one. -/
def Obligations.FailedObjectAccesses : Prop :=
  (∀ (S : Bool) (d a b : BitVec 5) (x : Bool) (k : BitVec 2) (s : State) (i : TrapInfo),
    s.progress = .plain → s.resolved = none → okS s a → okS s b →
    (∀ p, s.xacc (whoOf (.xld S d a b x p k)) (s.rs a).val (s.rs b).val (2 ^ k.toNat) rREAD 1 = .trap i →
      if p then ∃ t, completes (.xld S d a b x p k) S s t ∧
        scalarSet (reported s i) t d { val := 0, poison := some { info := i, org := s.wordOff.setWidth 32 } }
      else if i.cause = .missingObject then exec (.xld S d a b x p k) s = .next
        (State.block { s with fresh := s.fresh + 1, intake := s.intake ++ [(s.clk, .fault (s.fresh + 1) s.t.ctx s.t.part i)] } .other (.sent (s.fresh + 1)))
      else raises (.xld S d a b x p k) s i) ∧
    (okS s d → s.xacc (whoOf (.xst S d a b k)) (s.rs a).val (s.rs b).val (2 ^ k.toNat) rWRITE 1 = .trap i →
      if i.cause = .missingObject then exec (.xst S d a b k) s = .next
        (State.block { s with fresh := s.fresh + 1, intake := s.intake ++ [(s.clk, .fault (s.fresh + 1) s.t.ctx s.t.part i)] } .other (.sent (s.fresh + 1)))
      else raises (.xst S d a b k) s i)) ∧
  (∀ (S : Bool) (d a b : BitVec 5) (x : Bool) (k : BitVec 2) (s : State), s.progress = .plain → s.resolved = none → ¬ (okS s a ∧ okS s b) →
    ∃ t, completes (.xld S d a b x true k) S s t ∧
      scalarSet s t d { val := 0, poison := match (s.rs a).poison with | some r => some r | none => (s.rs b).poison })

/-- R55, R88, R237, R238, R241, R242: an atomic on a coherent object whose access passes its checks reads the bytes and writes the new value next
to each other, and d receives the old value; a release whose access passes its checks waits while an earlier access of the task is open, and then goes by the
registers that it captured when it began (R31). One that misses has its lines reserved and goes on later; what it has resolved
completes as it was resolved. `ALD` only reads, `AST` only writes, and `ACAS` writes when the old value equals d. An `ACAS` that fails keeps the frames and
the dirty-log entries that its write would have needed (DEDUCED, log entry 29). The model's own readings: which accesses a release awaits (log
entry 44, DEDUCED). -/
def Obligations.AtomicsReadModifyAndWrite : Prop :=
  (∀ (i : Instr) (s s1 s2 : State) (r : AtomicRule) (acc : Acc) (rs : List (Nat × Nat × Nat)) (bs : List Byte) (v v2 : Word),
    atomicRule i s = some r → (r.ops.map fun x => (s.rs x).val) = [v, v2].take r.ops.length → (rs.map fun x => x.2.2).sum = r.n →
    (s.progress = .plain ∧ s.resolved = none ∧ okS s r.a ∧ okS s r.b ∧ (∀ x ∈ r.ops, okS s x) ∧
        s.xacc (whoOf i) (s.rs r.a).val (s.rs r.b).val r.n rATOMIC r.n = .ok (acc, rs) ∧ (r.release = true → s.coherentOpen = false) ∧
        s.prepRuns acc rs = .ready s1 ∧ s1.t = s.t) ∨
      (s.progress.isOpen = true ∧ s.resolved = some (acc, rs, v, v2) ∧ s1 = s) →
    s1.storesHold acc = false →
    (s.progress = .plain → s1.runsMiss acc false rs = true →
      ∃ wake, (∃ w1 w2, wake = .access i acc.h acc.oid rs w1 w2 ∧ [w1, w2].take r.ops.length = [v, v2].take r.ops.length) ∧
        exec i s = .next ((s1.reserveRuns acc false rs).block wake (.asked s1.ticks))) ∧
    (s.progress ≠ .plain ∨ s1.runsMiss acc false rs = false → s1.readRuns acc false rs = (s2, .ok bs) →
      match r.new (leNat bs) with
      | none => ∃ t, exec i s = .next (t.advance r.stop) ∧ scalarSet s2 t r.d { val := extended (!r.u) r.n (leNat bs), poison := none }
      | some x => ∀ s3, s2.writeRuns acc rs (leBytes r.n x) = (s3, none) →
        ∃ t, exec i s = .next (t.advance r.stop) ∧ scalarSet s3 t r.d { val := extended (!r.u) r.n (leNat bs), poison := none })) ∧
  (∀ (S : Bool) (d a b : BitVec 5) (u q : Bool) (k : BitVec 2) (s s1 : State) (acc : Acc) (rs : List (Nat × Nat × Nat)) (bs : List Byte),
    s.progress = .plain → s.resolved = none → okS s a → okS s b →
    s.xacc (whoOf (.ald S d a b u q k)) (s.rs a).val (s.rs b).val (2 ^ k.toNat) rATOMIC (2 ^ k.toNat) = .ok (acc, rs) →
    s.storesHold acc = false → s.runsMiss acc false rs = false → s.readRuns acc false rs = (s1, .ok bs) →
    ∃ t, exec (.ald S d a b u q k) s = .next (t.advance S) ∧
      scalarSet s1 t d { val := extended (!u) (2 ^ k.toNat) (leNat bs), poison := none }) ∧
  (∀ (S : Bool) (d a b : BitVec 5) (r : Bool) (k : BitVec 2) (s s1 s2 : State) (acc : Acc) (rs : List (Nat × Nat × Nat)),
    s.progress = .plain → s.resolved = none → okS s a → okS s b → okS s d → (r = true → s.coherentOpen = false) →
    s.xacc (whoOf (.ast S d a b r k)) (s.rs a).val (s.rs b).val (2 ^ k.toNat) rATOMIC (2 ^ k.toNat) = .ok (acc, rs) →
    s.prepRuns acc rs = .ready s1 → s1.storesHold acc = false → (rs.map fun x => x.2.2).sum = 2 ^ k.toNat →
    s1.writeRuns acc rs (leBytes (2 ^ k.toNat) (s.rs d).val.toNat) = (s2, none) →
    exec (.ast S d a b r k) s = .next (s2.advance S)) ∧
  (∀ (i : Instr) (s s1 : State) (e : Nat × Nat) (r : AtomicRule) (acc : Acc) (rs : List (Nat × Nat × Nat)) (v v2 : Word),
    atomicRule i s = some r → s.progress.isOpen = true → s.progress ≠ .plain → s.resolved = some (acc, rs, v, v2) → s.storesHold acc = false →
    s.readRuns acc false rs = (s1, .error e) →
    (∀ t, s.unanswered s.progress e.1 = some t → waits i s (.access i acc.h acc.oid rs v v2) (.asked t)) ∧
    (s.unanswered s.progress e.1 = none →
      exec i s = .next ((s1.unpendRuns acc.oid rs).trapWord (s1.fetchTrap (whoOf i) acc e)))) ∧
  (∀ (i : Instr) (s : State) (r : AtomicRule) (acc : Acc) (rs : List (Nat × Nat × Nat)),
    atomicRule i s = some r → s.progress = .plain → s.resolved = none → okS s r.a → okS s r.b → (∀ x ∈ r.ops, okS s x) →
    s.xacc (whoOf i) (s.rs r.a).val (s.rs r.b).val r.n rATOMIC r.n = .ok (acc, rs) → r.release = true → s.coherentOpen = true →
    exec i s = .next (s.block .other .plain)) ∧
  (∀ (S : Bool) (d a b : BitVec 5) (k : BitVec 2) (s : State) (acc : Acc) (rs : List (Nat × Nat × Nat)),
    s.progress = .plain → s.resolved = none → okS s a → okS s b → okS s d →
    s.xacc (whoOf (.ast S d a b true k)) (s.rs a).val (s.rs b).val (2 ^ k.toNat) rATOMIC (2 ^ k.toNat) = .ok (acc, rs) →
    s.coherentOpen = true → exec (.ast S d a b true k) s = .next (s.block .other .plain)) ∧
  (∀ (s : State) (p : Progress), ∃ w, s.block .other p = { s with t := { s.t with c := { s.t.c with wait := some w } } } ∧
    w.progress = p ∧ w.wake = .other) ∧
  (∀ (s : State) (p : Progress) (x : Vector SReg 32) (r : BitVec 5), s.t.c.wait = none → s.t.c.synAtHand = true →
    let u := s.block .other p
    State.rs { u with t := { u.t with c := { u.t.c with s := x } } } r = s.rs r)

namespace Sys2Proof.Claims

/-- The word is reached for the first time: it has not waited. -/
abbrev firstTime (s : State) : Prop := s.t.c.wait = none

/-- The machine as R296 leaves it when a trap is taken: the trap registers written, HMODE set, control at the handler. `k` is what the
interrupted group keeps. -/
def entered (s : State) (i : TrapInfo) (xpc : Word) (k : Kept) (code : BitVec 24) (off : Word) (oid : BitVec 48) : State :=
  { s with t := { s.t with
      x := { s.t.x with xcause := BitVec.ofNat 11 (i.cause.cls * 256 + i.cause.code), xpc := xpc.setWidth 32, xcode := s.t.c.codeH,
                        x0 := i.x0, x1 := i.x1, x2 := i.x2, x3 := i.x3, hmode := true, kept := k },
      c := { s.t.c with pc := off, grp := off, codeH := code, codeO := oid, phase := .boundary, xfer := .none, pfx := none, wait := none,
                        gseq := s.t.c.gseq + 1 } } }

/-- The handler word of a class in the record of the task's context (R312): V, CODE, OFF. -/
def handlerOf (s : State) (cls : Nat) : Word :=
  match s.ctx s.t.ctx with
  | some x => x.cr.extractLsb' (1280 + 64 * cls) 64
  | none => 0

/-- RECORD-VALUE with the byte of the failing field (R268). -/
def badField (w : Who) (byte : Nat) : TrapInfo := mkTrap .bounds w 0x0B 0 0 byte

/-- The checks of a record's subscriptions (R268): each one with V set passes R55 with READ in context c. -/
def subsOutcome (s : State) (c : Nat) (r : BitVec 1024) (w : Who) : List Nat → Chk Nat
  | [] => .ok c
  | n :: ns =>
    if r.getLsbD (256 + 64 * n + 63) then
      match s.classChecked c ((r.extractLsb' (256 + 64 * n + 32) 24).setWidth 64) rREAD w true with
      | .ok _ => subsOutcome s c r w ns
      | .stall => .stall
      | .trap i => .trap i
    else subsOutcome s c r w ns

/-- The checks of a record's image, before its subscriptions (R268): SPAD [255:224], ILEN [63:32], IMAGE [87:64]. -/
def imageOutcome (s : State) (c : Nat) (r : BitVec 1024) (w : Who) : Chk Nat :=
  let ilen := (r.extractLsb' 32 32).toNat
  let subs := subsOutcome s c r w [0, 1, 2, 3]
  if r.extractLsb' 64 24 = 0 then (if ilen = 0 then subs else .trap (badField w 4))
  else match s.classChecked c ((r.extractLsb' 64 24).setWidth 64) rREAD w true with
    | .trap i => .trap i
    | .stall => .stall
    | .ok a =>
      if a.o.rank ≠ 1 ∨ a.o.fmt ≠ 11 ∨ a.o.layout ≠ 0 then .trap (badField w 8)
      else if a.o.extent 0 < ilen ∨ (r.extractLsb' 224 32).toNat < ilen then .trap (badField w 4)
      else subs

/-- The table of R268 in its order, for a creator of context `own` and the pool of a die: the context that the record names, the wait for an object that
moves (R56), or what the first failing check raises. -/
def recordOutcome (s : State) (own die : Nat) (r : BitVec 1024) (w : Who) : Chk Nat :=
  let spad := (r.extractLsb' 224 32).toNat
  let named := (r.extractLsb' 124 12).toNat
  let c := if named = 0 then own else named
  let lives := match s.ctx c with | some x => x.st != .deleting | none => false
  if r.extractLsb' 192 8 ≠ 0 ∨ r.extractLsb' 115 9 ≠ 0 ∨ r.extractLsb' 88 24 ≠ 0 ∨ r.extractLsb' 0 32 ≠ 0 ∨
      (∃ n < 4, r.extractLsb' (256 + 64 * n + 56) 7 ≠ 0) then .trap (boundsPlain w 6)
  else if 128 < (r.extractLsb' 200 8).toNat then .trap (badField w 25)
  else if ∀ k < 12, s.spn (12 * die + k) * 524288 < spad then .trap (badField w 28)
  else if ¬ ((c = own ∨ s.isBelow own c = true) ∧ lives = true) then .trap (privTrap w 1 named)
  else match s.classChecked c ((r.extractLsb' 136 24).setWidth 64) rREAD w true with
    | .trap i => .trap i
    | .stall => .stall
    | .ok a =>
      if a.o.rank ≠ 1 ∨ a.o.fmt ≠ 14 then .trap (badField w 17)
      else if a.o.extent 0 ≤ (r.extractLsb' 160 32).toNat then .trap (badField w 20)
      else imageOutcome s c r w

/-- The values that `HQRY` returns for functions 1 to 8 (R59). -/
def queried (e : HEntry) (o : Obj) (f j : Nat) : Word :=
  match f with
  | 1 => BitVec.ofNat 64 (o.extent j)
  | 2 => BitVec.ofNat 64 (e.lo j)
  | 3 => BitVec.ofNat 64 (min (e.hi j) (o.extent j - 1))
  | 4 => o.version.setWidth 64
  | 5 => e.oid.setWidth 64
  | 6 => BitVec.ofNat 64 (o.shcnt.toNat + 1 + 2 ^ 12 * o.split.toNat +
      2 ^ 32 * (if o.shcnt = 0 then o.extent o.split.toNat else o.shsize.toNat))
  | 7 => o.keyslot.setWidth 64
  | _ => BitVec.ofNat 64 o.bytes

end Sys2Proof.Claims

/-- R268, R275: `SPAWN` of a record that is not aligned to 128 raises ALIGNMENT, and of one that is not wholly in the window BOUNDS, SPAD-RANGE; a record that
fails a check of R268 raises what the table gives the first that fails, and one with an object that moves waits (R56). A record that
passes goes into the lowest free entry of its die's pool, whose INC advances, and d receives the new task's ID; the new task is READY when its
subscriptions are met (`settle`). With no free entry it waits, or with `.try` returns all ones. -/
def Obligations.SpawnFillsTheLowestFreeEntry : Prop :=
  ∀ (S : Bool) (d a : BitVec 5) (try_ : Bool) (c : Nat) (s : State), firstTime s → okS s a →
    let at_ := (s.rs a).val.toNat
    let r := bitsOfBytes 1024 (s.spad at_ 128)
    let i := Instr.spawn S d a try_
    let what := recordOutcome s s.t.ctx s.die r (whoOf i)
    (at_ % 128 ≠ 0 → raises i s (alignTrap (whoOf i) 2 (s.rs a).val 7)) ∧
    (at_ % 128 = 0 → s.t.window < at_ + 128 → raises i s (boundsPlain (whoOf i) 0x0A)) ∧
    (at_ % 128 = 0 → at_ + 128 ≤ s.t.window → (∀ x, what = .trap x → raises i s x) ∧ (what = .stall → waits i s .other .plain)) ∧
    (at_ % 128 = 0 → at_ + 128 ≤ s.t.window → what = .ok c →
    match s.freeEntry s.die with
    | some e =>
      let inc := (alGet s.incs (s.die * 4096 + e)).getD 0 + 1
      let id : BitVec 64 := BitVec.ofNat 64 (inc.toNat * 2 ^ 16 + s.die * 2 ^ 12 + e)
      let s1 := State.settle { s with incs := alSet s.incs (s.die * 4096 + e) inc, others := s.others ++ [newTask id r c] }
      (∀ k < e, k ∈ s.filled s.die) ∧ e ∉ s.filled s.die ∧
        ∃ t, exec (.spawn S d a try_) s = .next (t.advance S) ∧ scalarSet s1 t d { val := id, poison := none }
    | none =>
      if try_ then ∃ t, completes (.spawn S d a try_) S s t ∧ scalarSet s t d { val := -1, poison := none }
      else waits (.spawn S d a try_) s (.pool r c) .plain)

/-- R137, R172, R205, R276, R277, R279, R281, R297: `END` and `YIELD` place their drain in the vector queue and take effect after their group, once it has
drained: `END` waits for the matrix words, the fetch commands, the completion values, the ports and the writes too, and then ends the
task, which no longer exists: it leaves its groups one after the other, its slots are FREE, those that are being filled or drained once that
ends, of its tiles stay those that another task of their context on the core names, its pool entry is free, its bindings, window and tokens are
gone with it, and it publishes nothing. `YIELD` makes the task READY off its partition. In a handler `YIELD` raises PRIVILEGE,
HANDLER-WORD, and `END` first discards every pending trap and every word that the three queues hold: their registers hold again what they held at
dispatch, and nothing of the task halts any more. -/
def Obligations.EndAndYieldTakeEffectOnceDrained : Prop :=
  (∀ (S : Bool) (s : State), s.t.c.phase ≠ .ending → s.t.x.hmode = false →
    let drained := fun (i : Instr) (x : Xfer) =>
      let e : QEntry := { w := i, pfx := none, caps := [], pc := s.t.c.pc, gseq := s.t.c.gseq, sr := s.t.v.sr, ports := s.t.c.ports, was := none }
      { s with t := { s.t with v := { s.t.v with q := s.t.v.q ++ [e] }, c := { s.t.c with xfer := x } } }
    completes (.taskEnd S) S s (drained (.taskEnd S) .taskEnd) ∧ completes (.yield S) S s (drained (.yield S) .yield)) ∧
  (∀ (S : Bool) (s : State), s.t.c.phase = .ending →
    ((s.vecDrained && s.t.mq.isEmpty && s.fetDrained) = true → exec (.taskEnd S) s = .next (s.finishTask s.t.id)) ∧
    ((s.vecDrained && s.t.mq.isEmpty && s.fetDrained) = false → exec (.taskEnd S) s = .next s) ∧
    (s.vecDrained = false → exec (.yield S) s = .next s) ∧
    (s.vecDrained = true → ∃ t, exec (.yield S) s = .next t ∧ t.t = Task.idle ∧
      ∃ u ∈ t.others, u.id = s.t.id ∧ u.st = .ready ∧ u.c.pc = s.t.c.pc ∧ u.c.s = s.t.c.s)) ∧
  (∀ s : State, s.fetDrained = true ↔ s.t.f.q = [] ∧ s.t.f.act = none ∧ s.t.f.run = [] ∧ s.t.f.rel = [] ∧ s.t.f.fdone = [] ∧ s.t.f.ftks = [] ∧
    s.t.c.stores = [] ∧ ∀ q : Fin 4, s.t.f.ports[q].out = true → s.t.f.ports[q].fifo = [] ∧ s.t.f.ports[q].buf = []) ∧
  (∀ s : State, s.vecDrained = true ↔ s.t.v.q = [] ∧ s.t.v.flights = []) ∧
  (∀ s : State, s.t.st ≠ .none → (∀ u ∈ s.others, u.id ≠ s.t.id) →
    let t := s.finishTask s.t.id
    let gone := fun (x : Slot) => if x.st = .filling ∨ x.st = .draining then { x with dying := true } else Slot.reset
    t.t = Task.idle ∧ Task.idle.st = .none ∧ (∀ u ∈ t.others, u.id ≠ s.t.id) ∧
    (∀ e, (∀ u ∈ s.others, dieOfId u.id = dieOfId s.t.id → (u.id.extractLsb' 0 12).toNat ≠ e) → e ∉ t.filled (dieOfId s.t.id)) ∧
    t.groups = ((List.range 4).foldl (fun x g => x.leaveGroup s.t g) s).groups ∧
    (∀ k, alGet t.slots k = (alGet s.slots k).map fun x => if x.ownedBy s.t then gone x else x) ∧
    (∀ k, s.t.core = some k → t.tiles = s.tiles.filter fun p =>
      p.1 / 16 != k || s.others.any fun u => u.onCore k && u.ctx == p.2.ctx && u.ownsAcc (p.1 % 16)) ∧
    t.objs = s.objs ∧ t.mem = s.mem ∧ t.handles = s.handles) ∧
  (∀ (S : Bool) (s : State), s.t.c.phase ≠ .ending → s.t.x.hmode = true → raises (.yield S) s (privTrap (whoOf (.yield S)) 3 0)) ∧
  (∀ (S : Bool) (s : State), s.t.c.phase ≠ .ending → s.t.x.hmode = true → ∃ t, completes (.taskEnd S) S s t ∧
    t.t.x = { s.t.x with pending := [], taken := none } ∧ t.t.starts = [] ∧ t.t.mq = [] ∧ t.t.mhalted = false ∧
    (∃ e, t.t.v.q = [e] ∧ e.w = .taskEnd S) ∧ t.t.v.halted = false ∧ t.t.v.flights = s.t.v.flights ∧
    t.t.f.q = [] ∧ t.t.f.frel = none ∧ (∀ a ∈ t.t.f.act, a.halted = false) ∧ (∀ a ∈ t.t.f.run, a.halted = false) ∧
    (∀ r, (∀ e ∈ s.t.v.q, deliversOf e.w ≠ some (.s r)) → t.t.c.sreg r = s.t.c.sreg r) ∧
    (∀ e r x, s.t.v.q = [e] → deliversOf e.w = some (.s r) → e.was = some x → s.t.c.pend.contains (.s r) = true → r ≠ 0 →
      t.t.c.sreg r = x ∧ t.t.c.pend.contains (.s r) = false) ∧
    t.t.c.xfer = .taskEnd ∧ t.t.win = s.t.win ∧ t.mem = s.mem ∧ t.objs = s.objs ∧ t.handles = s.handles ∧ t.others = s.others)

/-- R232, R234: `PUB` waits for the task's own writes, then counts one version, with its scope and core, and fires the triggers; `SUB` waits
until the version is reached, `SUBT` tells whether it is, and both drop the core's L1 lines of the object when it is. -/
def Obligations.PublishingAndSubscribing : Prop :=
  (∀ (S : Bool) (a : BitVec 5) (p : BitVec 2) (s : State) (acc : Acc), firstTime s → okS s a →
    s.classChecked s.t.ctx (s.rs a).val rPUBLISH (whoOf (.pub S a p)) true = .ok acc →
    if s.writesOpen acc.oid then waits (.pub S a p) s (.writes acc.oid) .plain
    else
      let o := { acc.o with version := acc.o.version + 1,
                            pubs := acc.o.pubs ++ [{ ver := acc.o.version + 1, scope := p, core := s.core }] }
      exec (.pub S a p) s =
        .next ((State.fireTriggers { s with objs := alSet s.objs acc.oid.toNat o }).settle.advance S)) ∧
  (∀ (S : Bool) (c : BitVec 3) (a b : BitVec 5) (s : State) (acc : Acc), firstTime s → okS s a → okS s b →
    (s.classChecked s.t.ctx (s.rs a).val rREAD (whoOf (.subscribe S a b)) true = .ok acc →
      let v := (s.rs b).val.extractLsb' 0 32
      if 0 ≤ (acc.o.version - v).toInt then
        completes (.subscribe S a b) S s { s with l1 := s.l1.filter fun x => !(x.core == s.core && x.oid == acc.oid) }
      else waits (.subscribe S a b) s (.version acc.oid v) .plain) ∧
    (s.classChecked s.t.ctx (s.rs a).val rREAD (whoOf (.subt S c a b)) true = .ok acc →
      let v := (s.rs b).val.extractLsb' 0 32
      if 0 ≤ (acc.o.version - v).toInt then ∃ t, exec (.subt S c a b) s = .next (t.advance S) ∧
        conditionSet { s with l1 := s.l1.filter fun x => !(x.core == s.core && x.oid == acc.oid) } t c { val := true, poison := none }
      else ∃ t, completes (.subt S c a b) S s t ∧ conditionSet s t c { val := false, poison := none }))

/-- The completion test of a group (R279): its phase ends once LIMIT members, or all without a limit, have arrived. -/
def Sys2Proof.Claims.counted (r : Group) : Group :=
  let e := if r.limit = 0 then r.members else r.limit
  if e ≤ r.arrived ∧ 1 ≤ e then { r with gen := r.gen + 1, arrived := 0 } else r

/-- R279 to R282: `GJOIN` leaves the slot's group, then joins or creates the group; `GLEAVE` leaves; `BARR` arrives once in a phase and
returns its generation, which it may also await; `BWAIT` awaits a generation. To leave takes a member, its arrival and one of LIMIT from the
group, which dissolves with its last member; to arrive counts once in a phase; either may complete the phase. -/
def Obligations.GroupsAndBarriers : Prop :=
  (∀ (g : BitVec 2) (s : State), s.t.st ≠ .none →
    let t := s.leaveGroup s.t g.toNat
    (vget s.t.grp g.toNat none = none → t = s) ∧
    (∀ x, vget s.t.grp g.toNat none = some x →
      let key := s.t.ctx * 2 ^ 32 + x.gid.toNat
      vget t.t.grp g.toNat none = none ∧ (alGet s.groups key = none → t.groups = s.groups) ∧
      (∀ r, alGet s.groups key = some r →
        let left : Group := { r with
          arrived := if x.arrived = some r.gen then r.arrived - 1 else r.arrived
          members := r.members - 1
          limit := r.limit - 1 }
        t.groups = if left.members = 0 then alDel s.groups key else alSet s.groups key (counted left)))) ∧
  (∀ (g : BitVec 2) (x : GSlot) (r : Group) (s : State),
    (x.arrived = some r.gen → s.arrive g x r = s) ∧
    (x.arrived ≠ some r.gen → s.arrive g x r = State.settle { s with
      groups := alSet s.groups (s.t.ctx * 2 ^ 32 + x.gid.toNat) (counted { r with arrived := r.arrived + 1 })
      t := { s.t with grp := vset s.t.grp g.toNat (some { x with arrived := some r.gen }) } })) ∧
  (∀ (S : Bool) (g : BitVec 2) (a b : BitVec 5) (s : State), okS s a → okS s b →
    let gid := (s.rs a).val.extractLsb' 0 32
    let s1 := (s.leaveGroup s.t g.toNat).settle
    let key := s1.t.ctx * 2 ^ 32 + gid.toNat
    let joined := fun (x : Group) => { s1 with groups := alSet s1.groups key x,
                                               t := { s1.t with grp := vset s1.t.grp g.toNat (some { gid := gid, arrived := none }) } }
    match alGet s1.groups key with
    | some x =>
      if x.limit ≠ 0 ∧ x.limit ≤ x.members then
        exec (.gjoin S g a b) s = .next (s1.trapWord (mkTrap .quota (whoOf (.gjoin S g a b)) 3 gid.toNat 0 0))
      else exec (.gjoin S g a b) s = .next ((joined { x with members := x.members + 1 }).advance S)
    | none =>
      if 4096 ≤ s1.groups.length ∨ s1.own s1.t.ctx 564 12 ≤ s1.groupsOf s1.t.ctx then
        exec (.gjoin S g a b) s = .next (s1.trapWord (mkTrap .quota (whoOf (.gjoin S g a b)) 4 gid.toNat 0 0))
      else exec (.gjoin S g a b) s =
        .next ((joined { limit := ((s.rs b).val.extractLsb' 0 16).toNat, members := 1, arrived := 0, gen := 0 }).advance S)) ∧
  (∀ (S : Bool) (g : BitVec 2) (s : State), completes (.gleave S g) S s (s.leaveGroup s.t g.toNat).settle) ∧
  (∀ (S w : Bool) (d a : BitVec 5) (g : BitVec 2) (s : State), firstTime s →
    (s.gslot g = none → raises (.barr S d w g) s (mkTrap .handleInvalid (whoOf (.barr S d w g)) 7 g.toNat 0 0)) ∧
    (∀ x r, s.gslot g = some x → alGet s.groups (gkey s.t.ctx x.gid) = some r →
      (∃ t, scalarSet (s.arrive g x r) t d { val := r.gen.setWidth 64, poison := none } ∧
        let met := match alGet t.groups (gkey t.t.ctx x.gid) with
          | some y => decide (0 ≤ (y.gen - (r.gen + 1)).toInt)
          | none => true
        if w = true ∧ met = false then exec (.barr S d w g) s = .next (t.block (.gen x.gid (r.gen + 1)) (.arrived r.gen))
        else exec (.barr S d w g) s = .next (t.advance S)) ∧
      (okS s a → let v := (s.rs a).val.extractLsb' 0 32
        if 0 ≤ (r.gen - v).toInt then completes (.bwait S a g) S s s else waits (.bwait S a g) s (.gen x.gid v) .plain)))

/-- s with a token taken from FIFO k, as the clk at hand of the task's die counts it (R284). -/
def Sys2Proof.Claims.tokenTaken (s : State) (k : BitVec 3) : State :=
  let now := (s.dieOf s.die).count
  let pops := if s.t.popClk = now then s.t.pops else Vector.replicate 8 0
  { s with t := { s.t with
    tok := vset s.t.tok k.toNat (vget s.t.tok k.toNat 0 - 1), popClk := now, pops := vset pops k.toNat (vget pops k.toNat 0 + 1) } }

/-- R138, R139, R143, R284, R285: `WAITW` of a misaligned address raises ALIGNMENT and of one outside the window BOUNDS, SPAD-RANGE; it returns the chunk's
value once its comparison holds, and waits otherwise; `MCLAIM` of a number above 127 raises SLOT-OWNER, NO-SLOT; `TKS` pushes a token when its
FIFO has room before the pops of this clk, `TKW` pops one, and each waits otherwise; `MCLAIM` returns the slot when the task owns it or can
claim it within its quota. Otherwise `MCLAIM.try` returns all ones, and `MCLAIM` raises QUOTA when the task is at its quota and has queued no
`MREL` that frees a slot, and else waits for the slot or the held count to change. -/
def Obligations.WaitsTokensAndClaims : Prop :=
  (∀ (S : Bool) (d a b : BitVec 5) (k : BitVec 2) (s : State), firstTime s → okS s a → okS s b →
    let at_ := (s.rs a).val.toNat
    let x := bitsOfBytes 64 (s.spad at_ 8)
    let y := (s.rs b).val
    (at_ % 8 ≠ 0 → raises (.waitw S d a b k) s (alignTrap (whoOf (.waitw S d a b k)) 1 (s.rs a).val 3)) ∧
    (at_ % 8 = 0 → s.t.window < at_ + 8 → raises (.waitw S d a b k) s (boundsPlain (whoOf (.waitw S d a b k)) 0x0A)) ∧
    (at_ % 8 = 0 → at_ + 8 ≤ s.t.window →
    if (k = 0 ∧ x ≠ y) ∨ (k = 1 ∧ 0 ≤ (x - y).toInt) ∨ (2 ≤ k.toNat ∧ x = y) then
      ∃ t, completes (.waitw S d a b k) S s t ∧ scalarSet s t d { val := x, poison := none }
    else waits (.waitw S d a b k) s (.chunk (s.rs a).val y) .plain)) ∧
  (∀ (S : Bool) (k : BitVec 3) (s : State),
    let n := vget s.t.tok k.toNat 0
    let popped := if s.t.popClk = (s.dieOf s.die).count then vget s.t.pops k.toNat 0 else 0
    (n + popped < 16 → completes (.tks S k) S s { s with t := { s.t with tok := vset s.t.tok k.toNat (n + 1) } }) ∧
    (16 ≤ n + popped → waits (.tks S k) s .other .plain) ∧
    (0 < n → completes (.tkw S k) S s (tokenTaken s k)) ∧
    (n = 0 → waits (.tkw S k) s .other .plain)) ∧
  (∀ (S : Bool) (d a : BitVec 5) (try_ : Bool) (s : State), firstTime s → okS s a → 127 < (s.rs a).val.toNat →
    raises (.mclaim S d a try_) s (mkTrap .slotOwner (whoOf (.mclaim S d a try_)) 2 (0x3FF * 256 + (s.rs a).val.toNat % 128) 0 0)) ∧
  (∀ (S : Bool) (d a : BitVec 5) (try_ : Bool) (s : State), firstTime s → okS s a → (s.rs a).val.toNat ≤ 127 →
    let n := (s.rs a).val.toNat
    let x := s.slot s.core n
    (x.ownedBy s.t = true →
      ∃ t, completes (.mclaim S d a try_) S s t ∧ scalarSet s t d { val := BitVec.ofNat 64 n, poison := none }) ∧
    (x.st = .free → s.heldSlots s.t < s.t.quota →
      ∃ t, exec (.mclaim S d a try_) s = .next (t.advance S) ∧
        scalarSet { s with slots := alSet s.slots (s.core * 128 + n) { x with st := .empty, owner := s.t.id } } t d
          { val := BitVec.ofNat 64 n, poison := none }) ∧
    (x.ownedBy s.t = false → ¬ (x.st = .free ∧ s.heldSlots s.t < s.t.quota) →
      let releases := ∃ e ∈ s.t.mq, ∃ S' o, e.w = .mrel S' o false
      (try_ = true → ∃ t, completes (.mclaim S d a try_) S s t ∧ scalarSet s t d { val := -1, poison := none }) ∧
      (try_ = false → s.t.quota ≤ s.heldSlots s.t → ¬ releases →
        raises (.mclaim S d a try_) s (s.slotTrap .quota (whoOf (.mclaim S d a try_)) 2 n)) ∧
      (try_ = false → s.heldSlots s.t < s.t.quota ∨ releases →
        waits (.mclaim S d a try_) s (.slot (s.core * 128 + n) x.st x.owner (s.heldSlots s.t)) .plain)))

/-- The granule shift g represents the range from lo to hi (R60). -/
abbrev Sys2Proof.Claims.represents (lo hi g : Nat) : Prop :=
  g ≤ 16 ∧ lo % 2 ^ g = 0 ∧ (hi + 1) % 2 ^ g = 0 ∧ lo / 2 ^ g ≤ 65535 ∧ (hi + 1 - lo) / 2 ^ g ≤ 65536

/-- R54, R59 to R61, R353: `HQRY` answers from the entry and its object; `HDUP` writes a LIVE entry derived from its source under the lowest free
number, and with no free number raises QUOTA; its record form takes the mask and the ranges of the bounds box from a checked record, each
range within the source's effective box and in the smallest granule that represents it. `HDROP` waits for the task's open accesses, then
revokes what derives from the entry and frees it, be it LIVE or REVOKED; the wait is for the handle that it read first (R31). -/
def Obligations.HandleWords : Prop :=
  (∀ (S : Bool) (d a b : BitVec 5) (f : BitVec 6) (s : State) (acc : Acc), okS s a → okS s b →
    s.classChecked s.t.ctx (s.rs a).val rQUERY (whoOf (.hqry S d a b f)) false = .ok acc →
    let j := (s.rs b).val.toNat
    (1 ≤ f.toNat → f.toNat ≤ 3 → 4 ≤ j → raises (.hqry S d a b f) s (boundsTrap (whoOf (.hqry S d a b f)) 1 acc.h acc.oid.toNat 3 j j)) ∧
    (1 ≤ f.toNat → (f.toNat ≤ 3 → j < 4) → acc.e.oid = acc.oid →
      ∃ t, completes (.hqry S d a b f) S s t ∧ scalarSet s t d { val := queried acc.e acc.o f.toNat j, poison := none }) ∧
    (f = 0 → ∃ t v, completes (.hqry S d a b f) S s t ∧ scalarSet s t d { val := v, poison := none } ∧
      v.extractLsb' 0 3 = acc.o.rank ∧ v.getLsbD 3 = acc.o.coherent ∧ v.getLsbD 4 = acc.o.sealed ∧ v.getLsbD 5 = acc.o.hostsh ∧
      v.extractLsb' 6 4 = acc.o.fmt ∧ v.extractLsb' 10 2 = acc.o.mxk ∧ v.extractLsb' 12 2 = acc.o.layout ∧
      v.extractLsb' 16 6 = acc.e.rights ∧ v.extractLsb' 32 2 = acc.o.res ∧ v.getLsbD 34 = acc.o.moving ∧
      v.extractLsb' 24 6 = acc.e.rights &&& (if acc.o.coherent then 0x3B else if acc.o.sealed then 0x31 else 0x37) ∧
      v.extractLsb' 14 2 = 0 ∧ v.extractLsb' 22 2 = 0 ∧ v.extractLsb' 30 2 = 0 ∧ v.extractLsb' 35 29 = 0)) ∧
  (∀ (S : Bool) (d a b : BitVec 5) (s : State) (n h : Nat) (e : HEntry), okS s a → okS s b →
    s.entryChecked s.t.ctx (s.rs a).val (whoOf (.hdup S d a b true)) = .ok (n, e) → s.freeHandle s.t.ctx = some h →
    (0 < h ∧ h < s.tableSize s.t.ctx ∧ (s.hentry s.t.ctx h).st = .free ∧ ∀ k < h, 0 < k → (s.hentry s.t.ctx k).st ≠ .free) ∧
    ∃ t, exec (.hdup S d a b true) s = .next (t.advance S) ∧
      scalarSet (s.setH s.t.ctx h { e with
        st := .live, rights := e.rights &&& (s.rs b).val.extractLsb' 0 6, pctx := BitVec.ofNat 12 s.t.ctx,
        phandle := BitVec.ofNat 24 n }) t d { val := BitVec.ofNat 64 h, poison := none }) ∧
  (∀ (S : Bool) (d a b : BitVec 5) (s : State) (n : Nat) (e : HEntry), okS s a → okS s b →
    s.entryChecked s.t.ctx (s.rs a).val (whoOf (.hdup S d a b true)) = .ok (n, e) → s.freeHandle s.t.ctx = none →
    raises (.hdup S d a b true) s (mkTrap .quota (whoOf (.hdup S d a b true)) 1 0 0 0)) ∧
  (∀ (S : Bool) (d a b : BitVec 5) (s : State) (n : Nat) (e : HEntry), okS s a → okS s b →
    let i := Instr.hdup S d a b false
    s.entryChecked s.t.ctx (s.rs a).val (whoOf i) = .ok (n, e) →
    let at_ := (s.rs b).val.toNat
    let r := bitsOfBytes 320 (s.spad at_ 40)
    let lo := fun (j : Nat) => (r.extractLsb' (64 + 64 * j) 32).toNat
    let hi := fun (j : Nat) => (r.extractLsb' (96 + 64 * j) 32).toNat
    (at_ % 8 ≠ 0 → raises i s (alignTrap (whoOf i) 2 (s.rs b).val 3)) ∧
    (at_ % 8 = 0 → s.t.window < at_ + 40 → raises i s (boundsPlain (whoOf i) 0x0A)) ∧
    (at_ % 8 = 0 → at_ + 40 ≤ s.t.window →
      (r.extractLsb' 6 58 ≠ 0 → raises i s (mkTrap .bounds (whoOf i) 6 n e.oid.toNat 0)) ∧
      (∀ acc, r.extractLsb' 6 58 = 0 → s.objChecked n e (whoOf i) false = .ok acc →
        let inside := fun j => lo j ≤ hi j ∧ acc.e.lo j ≤ lo j ∧ hi j ≤ acc.e.hiEff acc.o j
        let fits := fun j => ∃ g, represents (lo j) (hi j) g
        (∀ j < 4, (∀ k < j, inside k ∧ fits k) → ¬ inside j →
          raises i s (boundsTrap (whoOf i) 5 acc.h acc.oid.toNat j (lo j) (hi j))) ∧
        (∀ j < 4, (∀ k < j, inside k ∧ fits k) → inside j → ¬ fits j →
          raises i s (boundsTrap (whoOf i) 4 acc.h acc.oid.toNat j (lo j) (hi j))) ∧
        ((∀ j < 4, inside j ∧ fits j) →
          (s.freeHandle s.t.ctx = none → raises i s (mkTrap .quota (whoOf i) 1 0 0 0)) ∧
          ∀ h, s.freeHandle s.t.ctx = some h → ∃ t x, exec i s = .next (t.advance S) ∧
            scalarSet (s.setH s.t.ctx h x) t d { val := BitVec.ofNat 64 h, poison := none } ∧
            x.st = .live ∧ x.oid = e.oid ∧ x.rights = e.rights &&& r.extractLsb' 0 6 ∧ x.pctx = BitVec.ofNat 12 s.t.ctx ∧
            x.phandle = BitVec.ofNat 24 n ∧
            ∀ j (p : j < 4), x.lo j = lo j ∧ x.hi j = hi j ∧ represents (lo j) (hi j) x.box[j].gs.toNat ∧
              ∀ g < x.box[j].gs.toNat, ¬ represents (lo j) (hi j) g)))) ∧
  (∀ (S : Bool) (a : BitVec 5) (s : State), firstTime s → okS s a →
    let n := (s.rs a).val.toNat
    n < 2 ^ 24 → n ≠ 0 → n < s.tableSize s.t.ctx → (s.hentry s.t.ctx n).st ≠ .free →
    if s.handleOpen n then waits (.hdrop S a) s .other (.begun (BitVec.ofNat 64 n))
    else ∃ t, exec (.hdrop S a) s = .next (t.advance S) ∧ t.hentry s.t.ctx n = HEntry.free ∧
      (∀ w ∈ t.wins, ¬ (w.ctx = s.t.ctx ∧ w.handle.toNat = n)) ∧
      ∃ s1, s1 = State.setH (s.sweep s.t.ctx n true).1 s.t.ctx n HEntry.free ∧
        t = State.settle { s1.loseHandles [s.t.ctx * 2 ^ 24 + n] with wins := t.wins }) ∧
  (∀ (S : Bool) (a : BitVec 5) (s : State) (v : Word), s.progress = .begun v →
    if s.handleOpen v.toNat then waits (.hdrop S a) s .other (.begun (BitVec.ofNat 64 v.toNat))
    else exec (.hdrop S a) s = .next ((s.dropHandle v.toNat).advance S))

/-- R62, R291: `OMCALL` sends its request to Mason through the intake and waits; the reply ends the wait, and d receives it. A record
outside the window or not aligned is answered BAD-ARGUMENT at once, an unknown service UNKNOWN-SERVICE. -/
def Obligations.OmcallGoesToMasonAndBack : Prop :=
  (∀ (S : Bool) (d a b : BitVec 5) (n : BitVec 6) (s : State), firstTime s → okS s a → okS s b →
    let at_ := (s.rs a).val.toNat
    let rec_ : Option Nat := if n = 0 then some 64 else if n = 5 then some 32 else none
    match rec_ with
    | some len =>
      if at_ % len = 0 ∧ at_ + len ≤ s.t.window then
        exec (.omcall S d a b n) s = .next (State.block { s with
          fresh := s.fresh + 1,
          intake := s.intake ++ [(s.clk, .omcall (s.fresh + 1) s.t.ctx s.t.part n (s.rs a).val (s.rs b).val (s.spad at_ len))] }
          .reply (.sent (s.fresh + 1)))
      else ∃ t, completes (.omcall S d a b n) S s t ∧ scalarSet s t d { val := -2, poison := none }
    | none =>
      exec (.omcall S d a b n) s = .next (State.block { s with
        fresh := s.fresh + 1,
        intake := s.intake ++ [(s.clk, .omcall (s.fresh + 1) s.t.ctx s.t.part n (s.rs a).val (s.rs b).val [])] } .reply (.sent (s.fresh + 1)))) ∧
  (∀ (S : Bool) (d a b : BitVec 5) (n : BitVec 6) (s : State) (v : Word), s.progress = .answered v →
    ∃ t, completes (.omcall S d a b n) S s t ∧ scalarSet s t d { val := v, poison := none }) ∧
  (∀ (s : State) (no : Nat) (v : Word) (r : List (Nat × Word)), s.replies = (no, v) :: r → s.progress = .sent no → s.t.st = .running →
    ∃ t, exec .omcallReply s = .next t ∧ t.progress = .answered v ∧ t.replies = r ∧ t.t.c.s = s.t.c.s ∧ t.mem = s.mem) ∧
  (∀ (s : State) (no ctx p : Nat) (n : BitVec 6) (a b : Word) (bs : List Byte) (r : List Req), s.replies = [] →
    s.mason = .omcall no ctx p n a b bs :: r → 8 ≤ n.toNat → s.progress = .sent no → s.t.st = .running →
    ∃ t, exec .omcallReply s = .next t ∧ t.progress = .answered (-1) ∧ t.mason = r)

namespace Sys2Proof.Claims

/-- What the vector engine does after `ERET` with ACT in `VQACT` (R174): RETRY keeps the step, SKIP takes the trapping word out of it, or leaves
it with an empty word where it was the only one, FLUSH discards every queued word but the drain of `END` or `YIELD`. -/
def vectorResumed (s t : State) : Prop :=
  let q := s.t.v.q
  t.t.v.halted = false ∧ t.t.v.flights = s.t.v.flights ∧
  (s.t.x.vqact = 0 → t.t.v = { s.t.v with halted := false } ∧ t.t.c.pend = s.t.c.pend) ∧
  (s.t.x.vqact = 1 → t.t.v.step = s.t.v.step ∧
    (∀ a b r, q = a :: b :: r → a.gseq = b.gseq → (∀ e ∈ r, e.gseq ≠ a.gseq) → drains a.w = false → drains b.w = false →
      t.t.v.q = (if s.t.x.vqcmd.getLsbD 8 then a else b) :: r) ∧
    (∀ a r, q = a :: r → (∀ e ∈ r, e.gseq ≠ a.gseq) → drains a.w = false → t.t.v.q = { a with w := .vnop false 0, caps := [] } :: r)) ∧
  (s.t.x.vqact = 2 → t.t.v.q = q.filter (fun e => drains e.w) ∧ t.t.v.step = (if q = [] then s.t.v.step else s.t.v.step + 1) ∧
    ∀ e ∈ q, ∀ r, deliversOf e.w = some r → e.was ≠ none → t.t.c.pend.contains r = false)

/-- What the fetch engine does after `ERET` (R126): with RETRY what halted goes on from its position, a binding with all its checks made anew; with ABANDON the queue moves on, a fill's
slot becomes FAULTED with the trap's cause, a drained one FULL again, a binding's later elements are poisoned or discarded, and a command
whose issued requests are outstanding is over once they complete. -/
def fetchResumed (s t : State) : Prop :=
  let f := s.t.f
  if s.t.x.fqact = false then
    let go := fun (a : FCmd) => { a with halted := false }
    t.t.f = { f with act := f.act.map go, run := f.run.map go,
                     ports := f.ports.map fun p => if p.halted then { p with halted := false, again := true } else p } ∧
      t.slots = s.slots ∧ t.t.imageHalt = false ∧ t.t.image = s.t.image
  else
    let why := (s.t.x.xcause.setWidth 8, s.t.x.x0.setWidth 8)
    let stopped := (f.act.toList ++ f.run).filter (·.halted)
    t.t.f.q = f.q ∧ (∀ a, f.act = some a → t.t.f.act = if a.halted then none else some a) ∧ (∀ a ∈ t.t.f.run, a.halted = false) ∧
    (∀ a ∈ stopped, a.outst = [] → a.asked = none → a.seq ∈ t.t.f.errs) ∧
    (∀ a ∈ stopped, a.outst ≠ [] ∨ a.asked ≠ none → (∀ S q, a.e.w ≠ .funb S q) →
      { a with halted := false, quit := some why, ended := true, ok := true, err := true } ∈ t.t.f.run) ∧
    (∀ a S o w n, stopped = [a] → a.outst = [] → a.asked = none → a.begun = true → a.e.w = .fill S o w n ∨ a.e.w = .fillc S o w →
      let x := s.slot s.core o.toNat
      x.st = .filling → t.slot s.core o.toNat = { x with st := .faulted, fcause := why.1, fsub := why.2 }) ∧
    (∀ a S o w, stopped = [a] → a.outst = [] → a.asked = none → a.begun = true → a.e.w = .fsts S o w →
      let x := s.slot s.core o.toNat
      x.st = .draining → t.slot s.core o.toNat = { x with st := .full }) ∧
    (∀ q : Fin 4, stopped = [] → t.t.f.ports[q] =
      if f.ports[q].halted then { f.ports[q] with halted := false, dead := true, fifo := if f.ports[q].out then [] else f.ports[q].fifo }
      else f.ports[q]) ∧
    (s.t.imageHalt = true → t.t.imageHalt = false ∧ t.t.image = false)

/-- The engine whose trap a handler served acts on its ACT field after `ERET` (R126, R174, R228, R298), and the others go on as they stand. -/
def resumed (s t : State) : Prop :=
  match s.t.x.taken with
  | none => t.t.f = s.t.f ∧ t.t.mq = s.t.mq ∧ t.t.mhalted = s.t.mhalted ∧ t.t.v = s.t.v
  | some 4 => fetchResumed s t ∧ t.t.mq = s.t.mq ∧ t.t.mhalted = s.t.mhalted ∧ t.t.v = s.t.v
  | some 3 => t.t.f = s.t.f ∧ t.t.v = s.t.v ∧ t.t.mhalted = false ∧
      t.t.mq = (if s.t.x.mqact = 1 then s.t.mq.drop 1 else if s.t.x.mqact = 2 then [] else s.t.mq)
  | some _ => t.t.f = s.t.f ∧ t.t.mq = s.t.mq ∧ t.t.mhalted = s.t.mhalted ∧ vectorResumed s t

/-- The machine between the end of a handler and what comes next (R298): the engine has acted on its ACT field, HMODE is over, the code handle is `XCODE` and
control stands at `XPC`, with what the interrupted group kept; the code object is still to be entered. -/
def left (s t : State) : Prop :=
  resumed s t ∧ t.t.x = { s.t.x with hmode := false, taken := none, kept := { wait := none, xfer := .none, ending := false } } ∧
    t.t.c.codeH = s.t.x.xcode ∧ t.t.c.codeO = s.t.c.codeO ∧ t.t.c.pc = s.t.x.xpc.setWidth 64 ∧ t.t.c.grp = s.t.x.xpc.setWidth 64 ∧
    t.t.c.phase = (if s.t.x.kept.ending then .ending else .boundary) ∧ t.t.c.xfer = s.t.x.kept.xfer ∧ t.t.c.wait = s.t.x.kept.wait

/-- The trap registers as an engine trap leaves them before it is taken (R124, R173, R228): it is pending no longer, and the engine's command
registers hold what it recorded, with the ACT field cleared where it halted the engine. -/
def engineTaken (x : Trp) (p : PTrap) (rest : List PTrap) : Trp :=
  let x := { x with pending := rest }
  if p.eng = 4 then { x with fqcmd := p.cmd, fqpos := p.pos, fqact := if p.halting then false else x.fqact }
  else if p.eng = 3 then { x with mqcmd := p.cmd, mqact := 0 }
  else if p.eng = 0 then x
  else { x with vqcmd := p.cmd, vqact := 0 }

/-- An engine trap is taken (R296): its registers first, then the trap; where a handler runs for it, that handler serves the engine that it
halted, and otherwise reports of PORT-END that waited for room become pending (R124). -/
def takenFor (s : State) (p : PTrap) (rest : List PTrap) (xpc : Word) (k : Kept) : State :=
  let s := s.modT fun t => { t with x := engineTaken t.x p rest }
  let u := s.takeTrap p.info xpc k (if p.halting then p.eng else 0)
  if u.t.x.hmode then u.modT fun t => { t with x := { t.x with taken := if p.halting then some p.eng else none } }
  else u.asTask s.t.id State.payEnds

end Sys2Proof.Claims

/-- R126, R174, R228, R245, R293, R296, R298, R299, R323: control enters code whose handle passes R55 with READ for the word that it enters. A trap is taken
into the handler of its class; it is reflected while a handler runs, or when the class has none or has one that cannot be entered, and the
task then stands reflected at that point, with no trap register written but `XCODE` (DEDUCED, log entry 13); a malformed object of the handler's
code is reported to Mason (R49). `TRAP` is taken with the word
after it as the point of resumption, and waits while a move freezes the handler's code (DEDUCED, log entry 32); `ERET` outside a handler
raises PRIVILEGE, and in one it returns after its group to `XPC` in the code of `XCODE`; the engine whose trap the handler served then goes on
as its ACT field says. With a trap pending `ERET` takes the oldest one at `XPC` before any word there, and where `XCODE` or `XPC` fails R55 the trap of that
check. The transfer and the ending of the interrupted
group are kept over the trap and given back by `ERET` (DEDUCED, log entries 28 and 34). The model's own readings: an open vector step closes
at the trap (log entry 33, DEDUCED).
The kind of the code object is not checked (log entry 104, DESIGN CHOICE). -/
def Obligations.TrapsAreTakenAndReturnedFrom : Prop :=
  (∀ (s : State) (ctx : Nat) (h : BitVec 24) (off : Nat) (past : Bool) (oid : BitVec 48),
    s.codeObj ctx h off past = .ok oid ↔
      ∃ a, s.dataChecked ctx (h.setWidth 64) rREAD { eng := 0, op := 0 } = .ok a ∧ a.oid = oid ∧
        ((past = true ∧ a.o.extent 0 ≤ off) ∨
          (boundsChecked a (a.o.tuple off) (fun _ => 1) { eng := 0, op := 0 } [0, 1, 2, 3] = none ∧
            s.shardStalls a.o (a.o.locate (a.o.tuple off)).1 rREAD = false ∧ a.o.res ≠ 3))) ∧
  (∀ (s : State) (i : TrapInfo) (xpc : Word) (k : Kept) (e : Nat) (oid : BitVec 48),
    let h := handlerOf s i.cause.cls
    let code := h.extractLsb' 32 24
    let off := h.extractLsb' 0 32
    s.t.x.hmode = false → h.getLsbD 63 = true → s.codeObj s.t.ctx code off.toNat false = .ok oid →
    s.takeTrap i xpc k e = entered (reported s i) i xpc k code (off.setWidth 64) oid) ∧
  (∀ (s : State) (i : TrapInfo) (xpc : Word) (k : Kept) (e : Nat),
    let h := handlerOf s i.cause.cls
    s.t.x.hmode = true ∨ h.getLsbD 63 = false ∨
      (∀ oid, s.codeObj s.t.ctx (h.extractLsb' 32 24) (h.extractLsb' 0 32).toNat false ≠ .ok oid) →
    (s.takeTrap i xpc k e).t = Task.idle ∧
      ∃ u ∈ (s.takeTrap i xpc k e).others, u.id = s.t.id ∧ u.st = .reflected ∧ u.c.pc = xpc ∧ u.c.xfer = k.xfer ∧
        u.x = if s.t.x.hmode then s.t.x else { s.t.x with xcode := s.t.c.codeH }) ∧
  (∀ (s : State) (i j : TrapInfo) (xpc : Word) (k : Kept) (e : Nat),
    let h := handlerOf s i.cause.cls
    s.t.x.hmode = false → h.getLsbD 63 = true → s.codeObj s.t.ctx (h.extractLsb' 32 24) (h.extractLsb' 0 32).toNat false = .trap j →
    j.cause = .handleInvalid → j.x0.toNat % 256 = 6 → Report.malformed (BitVec.ofNat 48 j.x2.toNat) ∈ (s.takeTrap i xpc k e).reports) ∧
  (∀ (imm : BitVec 16) (S : Bool) (s : State), s.handlerWaits .software = true → waits (.trap S imm) s .other .plain) ∧
  (∀ (imm : BitVec 16) (s : State), s.handlerWaits .software = false →
    let i : TrapInfo := { cause := .software, x0 := imm.setWidth 64, x1 := 0, x2 := 0, x3 := 0 }
    exec (.trap false imm) s = .next (s.takeTrap i (s.t.c.pc + 1) { wait := none, xfer := s.t.c.xfer, ending := false }) ∧
    (s.t.c.xfer = .none → exec (.trap true imm) s =
      .next (s.endGroup.takeTrap i s.endGroup.t.c.pc { wait := none, xfer := .none, ending := false }))) ∧
  (∀ (S : Bool) (s : State), s.t.c.phase ≠ .ending → s.t.x.hmode = false →
    raises (.eret S) s (privTrap (whoOf (.eret S)) 2 0)) ∧
  (∀ (S : Bool) (s : State) (oid : BitVec 48), firstTime s → s.t.c.phase ≠ .ending → s.t.x.hmode = true →
    s.codeObj s.t.ctx s.t.x.xcode s.t.x.xpc.toNat true = .ok oid →
    completes (.eret S) S s { s with t := { s.t with c := { s.t.c with xfer := .eret } } }) ∧
  (∀ (s : State) (oid : BitVec 48), firstTime s → s.t.c.phase ≠ .ending → s.t.x.hmode = true → s.t.x.taken = none → s.t.x.pending = [] →
    s.t.f.ends = [] → s.codeObj s.t.ctx s.t.x.xcode s.t.x.xpc.toNat true = .ok oid →
    ∃ t, exec (.eret true) s = .next t ∧ t = { s with t := { s.t with
        x := { s.t.x with hmode := false, kept := { wait := none, xfer := .none, ending := false } },
        c := { s.t.c with pc := s.t.x.xpc.setWidth 64, grp := s.t.x.xpc.setWidth 64, codeH := s.t.x.xcode, codeO := oid,
                          phase := if s.t.x.kept.ending then .ending else .boundary, xfer := s.t.x.kept.xfer, wait := s.t.x.kept.wait,
                          pfx := none, gseq := t.t.c.gseq } } }) ∧
  (∀ (S : Bool) (s : State) (oid : BitVec 48), s.t.c.phase = .ending → s.t.x.hmode = true → s.t.x.pending = [] → s.t.f.ends = [] →
    s.codeObj s.t.ctx s.t.x.xcode s.t.x.xpc.toNat true = .ok oid →
    ∃ t, exec (.eret S) s = .next t ∧ t.t.c.codeO = oid ∧ t.t.c.pc = s.t.x.xpc.setWidth 64 ∧
      t.t.x = { s.t.x with hmode := false, taken := none, kept := { wait := none, xfer := .none, ending := false } } ∧ resumed s t) ∧
  (∀ (S : Bool) (s : State) (p : PTrap) (rest : List PTrap), s.t.c.phase = .ending ∨ (S = true ∧ firstTime s) → s.t.x.hmode = true → s.t.x.pending = p :: rest →
    s.t.f.ends = [] → s.entryWaits p.info.cause = false →
    ∃ u, left s u ∧ exec (.eret S) s = .next (takenFor u p rest (s.t.x.xpc.setWidth 64) s.t.x.kept)) ∧
  (∀ (S : Bool) (s : State) (i : TrapInfo), s.t.c.phase = .ending ∨ (S = true ∧ firstTime s ∧ i.cause ≠ .missingObject) → s.t.x.hmode = true →
    s.t.x.pending = [] → s.t.f.ends = [] → s.codeObj s.t.ctx s.t.x.xcode s.t.x.xpc.toNat true = .trap i → s.entryWaits i.cause = false →
    ∃ u, left s u ∧ exec (.eret S) s = .next (u.takeTrap i (s.t.x.xpc.setWidth 64) s.t.x.kept)) ∧
  (∀ (S : Bool) (s : State), s.t.c.phase = .ending → s.t.x.hmode = true → s.eretWaits = true → exec (.eret S) s = .next s)

/-- R79, R318, R326: `NOTIFY` with a set list entry appends a 32-byte message to the endpoint's ring once the task's FSTs are complete and its XSTs performed, and
returns 0, or −2 where the ring is full; it keeps the target that it took before the wait; with an unset entry it returns −1. `PERFR` returns a counter, or a subtree's sum, and of a number that no table allocates
raises BOUNDS. -/
def Obligations.NotificationsAndCounters : Prop :=
  (∀ (S : Bool) (d a b : BitVec 5) (t : BitVec 2) (s : State), okS s a → okS s b →
    let target := fun (ep : Nat) => (firstTime s ∧ s.notifyEp s.t.ctx t.toNat = some ep) ∨
      (s.progress = .begun (BitVec.ofNat 64 ep) ∧ ep < 2 ^ 64)
    (firstTime s → s.notifyEp s.t.ctx t.toNat = none →
      ∃ u, completes (.notify S d a b t) S s u ∧ scalarSet s u d { val := -1, poison := none }) ∧
    (∀ ep, target ep → s.fstDone = false → waits (.notify S d a b t) s .other (.begun (BitVec.ofNat 64 ep))) ∧
    (∀ ep, target ep → s.fstDone = true →
      let ring := (alGet s.hosts ep).getD []
      let m : HostMsg := { ctx := s.t.ctx, part := s.t.part, time := s.ticks, a := (s.rs a).val, b := (s.rs b).val }
      if Config.hostRingFull ep ring.length then
        ∃ u, completes (.notify S d a b t) S s u ∧ scalarSet s u d { val := -2, poison := none }
      else ∃ u, exec (.notify S d a b t) s = .next (u.advance S) ∧
        scalarSet { s with hosts := alSet s.hosts ep (ring ++ [m]) } u d { val := 0, poison := none })) ∧
  (∀ (S : Bool) (d a b : BitVec 5) (tree : Bool) (s : State), okS s a → okS s b →
    let i := Instr.perfr S d a b tree
    let a_ := (s.rs a).val
    let k := (s.rs b).val.toNat
    if a_ ≠ 0 ∧ s.isBelow s.t.ctx a_.toNat = false then raises i s (privTrap (whoOf i) 1 (a_.toNat % 4096))
    else if ¬ (k ≤ 7 ∨ (0x100 ≤ k ∧ k ≤ 0x10D) ∨ (0x180 ≤ k ∧ k ≤ 0x19F)) then raises i s (boundsPlain (whoOf i) 0x0C)
    else
      let c := if a_ = 0 then s.t.ctx else a_.toNat
      let v := if tree then ((s.subtree c).map fun x => s.counter x k).sum else s.counter c k
      ∃ t, completes i S s t ∧ scalarSet s t d { val := BitVec.ofNat 64 v, poison := none })

namespace Sys2Proof.Claims

/-- Mason answers the request with v, which leaves the machine as s1 but for the reply and the tasks that it lets go on (R62). -/
def answers (i : Instr) (s s1 : State) (no : Nat) (v : Word) : Prop :=
  exec i s = .next (State.settle { s1 with replies := s1.replies ++ [(no, v)] })

/-- The request at the head of Mason's queue asks for service n. -/
def asks (s : State) (n no ctx part : Nat) (a b : Word) (bs : List Byte) (r : List Req) : Prop :=
  ∃ k : BitVec 6, k.toNat = n ∧ no ≠ 0 ∧ s.mason = .omcall no ctx part k a b bs :: r

/-- Bits of a record's bytes. -/
def bitsAt (bs : List Byte) (lo w : Nat) : Nat := leNat bs / 2 ^ lo % 2 ^ w

/-- The handle argument of a service passes R55 with a need. -/
def handleOk (s : State) (ctx : Nat) (a : Word) (need : BitVec 6) (acc : Acc) : Prop :=
  s.classChecked ctx a need { eng := 0, op := 0 } true = .ok acc

/-- The frames of an object's pages, once the slices have written back and given up their lines (R91). -/
def writtenBack (s : State) (oid : BitVec 48) : State :=
  ((s.pagesHeld oid).filterMap fun k => alGet s.pages k).foldl (fun s f => s.l2invalidate f.toNat true) s

/-- Byte j of a page of an object, where its home holds it now: in its frame or, without one, at its peer; a frame of a replica is none (R58). -/
def pageByte (s : State) (oid : BitVec 48) (key j : Nat) : Byte :=
  let here := match s.obj (BitVec.ofNat 48 (key / 2 ^ 35)) with
    | some o => decide (s.placeOf o (key / 2 ^ 24 % 2 ^ 11) < 2)
    | none => true
  match alGet s.pages key with
  | some f => if here then (writtenBack s oid).mem.get (f.toNat * 65536 + j) else s.remote.get (remOfPage key + j)
  | none => s.remote.get (remOfPage key + j)

/-- A service answers NO-RIGHTS to a handle that fails a check of R55, whichever it is, a malformed object being reported (R49, R62). -/
def refusesHandle (i : Instr) (s s0 : State) (no ctx : Nat) (a : Word) (need : BitVec 6) : Prop :=
  ∀ x, s0.classChecked ctx a need { eng := 0, op := 0 } true = .trap x → answers i s (reported s0 x) no (-3)

/-- The tests of a creation record (R62): reserved bits zero, a tier of the package, a key slot that the context holds, and well-formed under R49. -/
def recordSound (s : State) (ctx : Nat) (bs : List Byte) (o : Obj) : Prop :=
  bitsAt bs 237 275 = 0 ∧ bitsAt bs 29 35 = 0 ∧ bitsAt bs 15 1 = 0 ∧ bitsAt bs 13 2 < 2 ∧
    s.ctxField ctx 595 13 ≤ bitsAt bs 16 13 ∧ bitsAt bs 16 13 < s.ctxField ctx 595 13 + s.ctxField ctx 581 14 ∧ o.wf = true

/-- A request has taken a free value (log entry 1, or the one that names its question). -/
def ticked (s : State) : State := { s with fresh := s.fresh + 1 }

end Sys2Proof.Claims

/-- R45, R52, R58, R62, R245: Mason's services on objects. CREATE of a record that passes its tests makes the object and a handle with all rights, and of a sharded
one its home map, in which every shard starts here (log entry 21, DESIGN CHOICE); it answers BAD-ARGUMENT to a record that fails a test, and
NO-SPACE where FREEFR, the sequence numbers, the handle table or the map's frame do not suffice. DELETE by the owner, once nothing uses the
object, removes it; SEAL seals a versioned object; REPLICATE lists a member of the domain for a sealed one. A handle that fails a check is
answered NO-RIGHTS, a malformed object being reported (R49). The model's own readings: XMAP of a new object (log entry 18, DESIGN CHOICE); a
member that is listed already (log entry 46, DEDUCED); an object that is not sealed, an endpoint outside the domain, a ninth replica and a
package without the frames (log entry 99, DESIGN CHOICE); a replica here (log entry 122, DESIGN CHOICE) and one that another package takes (log
entry 123, DESIGN CHOICE). -/
def Obligations.ServicesCreateDeleteSealAndReplicate : Prop :=
  (∀ (s : State) (no ctx part h : Nat) (a b : Word) (bs : List Byte) (r : List Req), asks s 0 no ctx part a b bs r →
    let s0 := { s with mason := r }
    let ep := s.boot.ep.toNat
    let oid := ep * 2 ^ 36 + s.nextObj
    let shards := bitsAt bs 224 11 + 1
    let o := recObj bs ep ctx (if shards = 1 then 0 else oid + 1) (Config.extentRoot s.fresh).toNat
    let frames := ((List.range shards).map fun sh => cdiv (o.shardBytes sh) 65536).sum
    let used := if shards = 1 then 1 else 2
    (¬ recordSound s ctx bs o → answers .create s s0 no (-2)) ∧
    (recordSound s ctx bs o →
      (s0.freeFrames ctx < frames ∨ 2 ^ 36 < s.nextObj + used ∨ s0.freeHandle ctx = none → answers .create s s0 no (-4)) ∧
      (frames ≤ s0.freeFrames ctx → s.nextObj + used ≤ 2 ^ 36 → s0.freeHandle ctx = some h →
        let s1 := { s0 with
          fresh := s.fresh + 2, nextObj := s.nextObj + used, objs := alSet s.objs (oid % 2 ^ 48) o,
          handles := alSet s.handles (ctx * 2 ^ 24 + h) (HEntry.full (BitVec.ofNat 48 oid)) }
        (shards = 1 → answers .create s s1 no (BitVec.ofNat 64 h)) ∧
        (shards ≠ 1 →
          let mid := BitVec.ofNat 48 (oid + 1)
          let m := homeMap ep shards (Config.extentRoot (s.fresh + 1)).toNat
          let s2 := s1.setObj mid m
          (m.coherent = true ∧ m.rank = 1 ∧ m.fmt = 13 ∧ m.extent 0 = shards ∧ m.ownerCtx = 0 ∧ m.home = BitVec.ofNat 12 ep ∧ m.res = 0) ∧
          (∀ e, s2.ensureFrame (dieOfCore (coreOfPart part)) mid m 0 0 = .error e → answers .create s s0 no (-4)) ∧
          ∀ s3, s2.ensureFrame (dieOfCore (coreOfPart part)) mid m 0 0 = .ok s3 →
            answers .create s (s3.poke mid m 0 ((List.replicate shards (leBytes 2 ep)).flatten)) no (BitVec.ofNat 64 h))))) ∧
  (∀ (s : State) (no ctx part : Nat) (a b : Word) (bs : List Byte) (r : List Req) (acc : Acc), asks s 1 no ctx part a b bs r →
    let s0 := { s with mason := r }
    refusesHandle .delete s s0 no ctx a 0 ∧ (handleOk s0 ctx a 0 acc →
    (¬ (acc.o.ownerCtx.toNat = ctx ∧ acc.o.ownerEp = s.boot.ep) → answers .delete s s0 no (-3)) ∧
    (acc.o.ownerCtx.toNat = ctx → acc.o.ownerEp = s.boot.ep → s0.objBusy acc.oid = false → s0.codeBusy acc.oid = false →
      answers .delete s (s0.removeObj acc.oid) no 0 ∧ (s0.removeObj acc.oid).obj acc.oid = none) ∧
    (acc.o.ownerCtx.toNat = ctx → acc.o.ownerEp = s.boot.ep → (s0.objBusy acc.oid || s0.codeBusy acc.oid) = true → r = [] →
      exec .delete s = .next s))) ∧
  (∀ (s : State) (no ctx part : Nat) (a b : Word) (bs : List Byte) (r : List Req) (acc : Acc), asks s 2 no ctx part a b bs r →
    let s0 := { s with mason := r }
    refusesHandle .seal s s0 no ctx a rGRANT ∧ (handleOk s0 ctx a rGRANT acc →
    if acc.o.coherent then answers .seal s s0 no (-2)
    else answers .seal s { s0 with objs := alSet s.objs acc.oid.toNat { acc.o with sealed := true } } no (acc.o.version.setWidth 64))) ∧
  (∀ (s : State) (no ctx part : Nat) (a b : Word) (bs : List Byte) (r : List Req) (acc : Acc), asks s 3 no ctx part a b bs r →
    let s0 := { s with mason := r }
    let ep := b.extractLsb' 0 12
    let listed := fun (t : State) => { t with objs := alSet t.objs acc.oid.toNat { acc.o with repl := acc.o.repl ++ [ep] } }
    refusesHandle .replicate s s0 no ctx a rGRANT ∧ (handleOk s0 ctx a rGRANT acc →
      (acc.o.sealed = false ∨ 0xFFF ≤ b.toNat ∨ ep ∉ s.boot.members → answers .replicate s s0 no (-2)) ∧
      (acc.o.sealed = true → b.toNat < 0xFFF → ep ∈ s.boot.members →
        if ep = acc.o.home ∨ ep ∈ acc.o.repl then answers .replicate s s0 no 0
        else if 8 ≤ acc.o.repl.length then answers .replicate s s0 no (-4)
        else if ep = s.boot.ep then
          match s0.copyHere (dieOfCore (coreOfPart part)) acc.oid acc.o with
          | none => answers .replicate s (ticked s0) no (-4)
          | some t => answers .replicate s (listed t) no 0
        else if Config.peerRoom s.fresh then answers .replicate s (listed (ticked s0)) no 0
        else answers .replicate s (ticked s0) no (-4)))) ∧
  (∀ (s t : State) (die : Nat) (oid : BitVec 48) (o : Obj), s.copyHere die oid o = some t →
    t.objs = s.objs ∧ t.remote = s.remote ∧ (∀ k ∈ s.replicaPages oid o, (alGet t.pages k).isSome = true) ∧
      ∀ k, k ∉ s.replicaPages oid o → alGet t.pages k = alGet s.pages k)

/-- R52, R65 to R67: MOVE of a target that R65 does not allow answers BAD-ARGUMENT; to where the object lies, of a sharded one where its shards here lie, it
answers 0; to another tier, or to a peer, it freezes the object until its pages are copied, with their contents unchanged, and the object
then thaws in its new home and the request is answered 0; without the frames, here or at the peer, it answers NO-SPACE. The copy waits
for requests under way, of every engine, and for the line writes that wait; pages first written since the freeze get frames too, or the move is abandoned.
A move that is abandoned thaws the object in its old home, answered BUSY and logged. MOVE refuses a sealed object (DEDUCED, log entry 98).
A prefetch that waits for the thaw is then made (log entry 20, DESIGN CHOICE). A peer target that is this package or none of the domain (log entry 99,
DESIGN CHOICE); the peer's frames (log entry 123, DESIGN CHOICE); and the line writes that wait (log entry 61, DESIGN CHOICE; log entry 97, DEDUCED). -/
def Obligations.MovesFreezeCopyAndThaw : Prop :=
  (∀ (s s1 : State) (no ctx part : Nat) (a b : Word) (bs : List Byte) (r : List Req) (acc : Acc), asks s 4 no ctx part a b bs r →
    let s0 := { s with mason := r }
    let tier := b.toNat % 4
    let ep := b.extractLsb' 2 12
    let o := acc.o
    let bad := 2 ^ 14 ≤ b.toNat ∨ tier = 3 ∨ (tier < 2 ∧ ep ≠ 0) ∨ (tier = 2 ∧ (o.shcnt ≠ 0 ∨ ep = s.boot.ep ∨ ep ∉ s.boot.members))
    let there := if tier = 2 then o.res = 2 ∧ o.home = ep else o.res ≠ 3 ∧ (if o.shcnt = 0 then o.res.toNat else o.res.toNat % 2) = tier
    let begun := s0.beginMove no (dieOfCore (coreOfPart part)) acc.oid o (BitVec.ofNat 2 tier) ep
    refusesHandle .move s s0 no ctx a rWRITE ∧
    (acc.o.sealed = true → ¬ handleOk s0 ctx a rWRITE acc) ∧
    (handleOk s0 ctx a rWRITE acc →
      (bad → answers .move s s0 no (-2)) ∧
      (¬ bad → there → answers .move s s0 no 0) ∧
      (¬ bad → ¬ there →
        (begun = none → answers .move s (ticked s0) no (-4)) ∧
        (tier = 2 → (if o.res.toNat < 2 then s0.pagesHeld acc.oid else s0.remotePages acc.oid) ≠ [] → Config.peerRoom s.fresh = false →
          begun = none) ∧
        (begun = some s1 → exec .move s = .next (ticked s1) ∧ s1.obj acc.oid = some { o with moving := true } ∧
          ∃ m, s1.moves = s.moves ++ [m] ∧ m.oid = acc.oid ∧ m.res.toNat = tier ∧ m.ep = ep ∧ m.copied = false ∧ m.no = no)))) ∧
  (∀ (s : State) (m : Move) (oid : BitVec 48), s.moves.find? (fun m => m.oid == oid && !m.copied) = some m →
    let s1 := s.sendWaiting oid
    (s.objBusy oid = true → exec (.moveCopy oid) s = .next s) ∧
    (s.objBusy oid = false → s1.linesWait oid = true → exec (.moveCopy oid) s = .next s1) ∧
    (s.objBusy oid = false → s1.linesWait oid = false → ∀ o, s1.obj oid = some o → m.oid = oid →
      let late := if m.res = 2 then [] else (s1.movePages oid o).filter fun k => !(m.frames.any fun p => p.1 == k)
      match s1.moveFrames m.die o m.res (late.filter fun k => (alGet s1.pages k).isNone).length late.length with
      | none => exec (.moveCopy oid) s = .next (s1.abandonMove m).refire
      | some r => exec (.moveCopy oid) s = .next (State.refire (r.2.copyPages { m with frames := m.frames ++ late.zip r.1 })))) ∧
  (∀ (s : State) (oid : BitVec 48) (o : Obj),
    (o.shcnt = 0 → o.res.toNat < 2 → s.movePages oid o = s.pagesHeld oid) ∧
    (o.shcnt ≠ 0 → ∀ k, k ∈ s.movePages oid o ↔
      (k ∈ if o.res = 3 then s.remotePages oid else s.pagesHeld oid) ∧ s.shardEp o (k / 2 ^ 24 % 2 ^ 11) = s.boot.ep) ∧
    (o.res.toNat ≥ 2 → o.shcnt = 0 → s.isRing oid = false → ∀ c ∈ s.remote, c.1 / 2 ^ 52 = oid.toNat →
      c.1 / 2 ^ 41 * 2 ^ 24 + c.1 % 2 ^ 41 / 2 ^ 16 ∈ s.movePages oid o)) ∧
  (∀ (s : State) (m : Move), settledL2 s → (s.pages.map (·.2)).Nodup →
    (∀ o, s.obj m.oid = some o → o.shcnt = 0 ∨ o.hmap ≠ m.oid) →
    let t := s.copyPages m
    t.objs = s.objs ∧ t.pages = s.pages ∧ (∀ x ∈ t.moves, x.oid = m.oid → x.copied = true) ∧
      (m.res ≠ 2 → s.mem.wf = true → s.remote.wf = true → (m.frames.map (·.1)).Nodup → (m.frames.map (·.2)).Nodup →
        (∀ p ∈ m.frames, p.1 / 2 ^ 35 = m.oid.toNat ∧ ∀ q ∈ s.pages, q.2 ≠ p.2) →
        ∀ p ∈ m.frames, ∀ j < 65536, t.mem.get (p.2.toNat * 65536 + j) = pageByte s m.oid p.1 j) ∧
      (m.res = 2 → s.mem.wf = true → s.remote.wf = true → (s.pages.map (·.1)).Nodup → (∀ c ∈ s.remote, c.1 / 2 ^ 52 ≠ m.oid.toNat) →
        ∀ k ∈ s.pagesHeld m.oid, ∀ j < 65536, t.remote.get (remOfPage k + j) = pageByte s m.oid k j)) ∧
  (∀ s : State, s.fired = [] → s.refire = s) ∧
  (∀ (s : State) (m : Move) (oid : BitVec 48) (o : Obj), s.moves.find? (fun m => m.oid == oid && m.copied) = some m → s.obj oid = some o →
    let t := s.commitMove m
    exec (.moveCommit oid) s = .next t.refire ∧ (∀ x ∈ t.moves, x.oid ≠ oid) ∧
      (∃ x, t.obj oid = some x ∧ x.moving = false ∧ x.res = m.res ∧ x.home = (if m.res = 2 then m.ep else s.boot.ep) ∧
        x.version = o.version ∧ x.ext = o.ext ∧ x.ownerCtx = o.ownerCtx) ∧
      (m.res ≠ 2 → (m.frames.map (·.1)).Nodup → ∀ q ∈ m.frames, alGet t.pages q.1 = some q.2) ∧
      (m.no ≠ 0 → t.replies = s.replies ++ [(m.no, 0)])) ∧
  (∀ (s : State) (m : Move) (oid : BitVec 48) (o : Obj), s.moves.find? (fun m => m.oid == oid && !m.copied) = some m → s.obj oid = some o →
    let t := s.abandonMove m
    exec (.moveAbandon oid) s = .next t.refire ∧ (∀ x ∈ t.moves, x.oid ≠ oid) ∧ t.obj oid = some { o with moving := false } ∧
      t.reports = s.reports ++ [.copyFailed oid] ∧ (m.no ≠ 0 → t.replies = s.replies ++ [(m.no, -5)]))

/-- R69, R70, R77, R291: PLAN of a record that passes its tests arms a trigger under a free number and fires it at once when its version is
reached; a record that fails a test answers BAD-ARGUMENT, a handle that fails a check NO-RIGHTS, and a full table NO-SPACE. A trigger fires once its watched object has reached the version, and is then gone: a move goes to Mason by the intake, who makes it
as MOVE does; one whose handle has gone since, or fails its checks, is discarded and counted. WINDOW opens the
lowest free window to an endpoint of the notify list, and answers NO-RIGHTS to another endpoint or a handle that fails, BAD-ARGUMENT to an object or rights
that no window can have, and NO-SPACE with none free; UNWINDOW closes one of the caller's. The model's own readings: the frames of a
trigger's move, and a deleted object that it watches (log entry 20, DESIGN CHOICE). -/
def Obligations.TriggersAndHostWindows : Prop :=
  (∀ (s : State) (no ctx part : Nat) (a b : Word) (bs : List Byte) (r : List Req) (w g : Acc), asks s 5 no ctx part a b bs r →
    let s0 := { s with mason := r }
    let act := bitsAt bs 96 2
    let lead := BitVec.ofNat 64 (bitsAt bs 0 24)
    let goal := BitVec.ofNat 64 (bitsAt bs 64 24)
    let sound := bitsAt bs 192 64 = 0 ∧ bitsAt bs 98 30 = 0 ∧ bitsAt bs 88 8 = 0 ∧ bitsAt bs 24 8 = 0 ∧ act ≠ 3
    (¬ sound → answers .plan s s0 no (-2)) ∧
    (sound → refusesHandle .plan s s0 no ctx lead rREAD) ∧
    (sound → handleOk s0 ctx lead rREAD w →
      refusesHandle .plan s s0 no ctx goal (if act = 0 then rREAD else rWRITE) ∧
      (handleOk s0 ctx goal (if act = 0 then rREAD else rWRITE) g →
        let d := g.o.rank.toNat - 1
        let first := bitsAt bs 128 32
        let last := if bitsAt bs 160 32 = 0 then g.e.hiEff g.o d else first + bitsAt bs 160 32 - 1
        let inside := g.e.lo d ≤ first ∧ first ≤ g.e.hiEff g.o d ∧ last ≤ g.e.hiEff g.o d
        (w.o.coherent = true ∨ ¬ inside → answers .plan s s0 no (-2)) ∧
        (w.o.coherent = false → inside →
          if s0.trigRoom ctx then
            ∃ n < 8192, (∀ t ∈ s.trigs, t.num ≠ n) ∧ answers .plan s
              (State.fireTriggers { s0 with
                fresh := s.fresh + 1,
                trigs := s.trigs ++ [{ num := n, ctx := ctx, watch := w.oid, tg := bitsOfBytes 256 bs, oid := g.oid, gone := false }] })
              no (BitVec.ofNat 64 n)
          else answers .plan s s0 no (-4))))) ∧
  (∀ s : State,
    let met := fun (t : Trigger) => ∃ o, s.obj t.watch = some o ∧ 0 ≤ (o.version - t.tg.extractLsb' 32 32).toInt
    ((∀ t ∈ s.trigs, ¬ met t) → s.fireTriggers = s) ∧
    ((s.trigs.map (·.num)).Nodup →
      (∀ t ∈ s.trigs, ¬ met t → t ∈ s.fireTriggers.trigs) ∧ ∀ t ∈ s.fireTriggers.trigs, t ∈ s.trigs ∧ ¬ met t) ∧
    (∀ t a b, s.trigs = a ++ t :: b → met t → (∀ x ∈ a ++ b, ¬ met x ∧ x.num ≠ t.num) →
      let s1 := { s with trigs := a ++ b }
      (t.tg.extractLsb' 96 2 ≠ 0 → s.fireTriggers = { s1 with intake := s.intake ++ [(s.clk, .trigger t)] }) ∧
      (t.tg.extractLsb' 96 2 = 0 → t.gone = true → s.fireTriggers = s1.count t.ctx 0x0004 1))) ∧
  (∀ (s : State) (t : Trigger) (r : List Req), s.mason = .trigger t :: r →
    let s0 := { s with mason := r }
    (t.gone = true → exec .move s = .next (s0.count t.ctx 0x0004 1).settle) ∧
    (∀ x, t.gone = false → s0.classChecked t.ctx ((t.tg.extractLsb' 64 24).setWidth 64) rWRITE { eng := 0, op := 0 } true = .trap x →
      exec .move s = .next (reported (s0.count t.ctx 0x0004 1) x).settle) ∧
    (∀ acc s1, t.gone = false → handleOk s0 t.ctx ((t.tg.extractLsb' 64 24).setWidth 64) rWRITE acc → acc.o.shcnt = 0 →
      let tier := (t.tg.extractLsb' 96 2).toNat - 1
      1 ≤ (t.tg.extractLsb' 96 2).toNat → tier < 2 → acc.o.res.toNat ≠ tier →
      s0.beginMove 0 0 acc.oid acc.o (BitVec.ofNat 2 tier) 0 = some s1 → exec .move s = .next (ticked s1))) ∧
  (∀ (s : State) (no ctx part n : Nat) (a b : Word) (bs : List Byte) (r : List Req) (acc : Acc), asks s 6 no ctx part a b bs r →
    let s0 := { s with mason := r }
    let ep := b.extractLsb' 0 12
    let ask : BitVec 6 := (if b.getLsbD 12 then rREAD else 0) ||| (if b.getLsbD 13 then rWRITE else 0)
    let free := lowestFree (s.wins.map (·.num)) 0 4096
    let fit := ask ≠ 0 ∧ b.toNat < 2 ^ 14 ∧ acc.o.hostsh = true ∧ acc.o.layout = 0 ∧ acc.o.shcnt = 0 ∧ acc.o.bytes ≤ 2 ^ 36
    let known := ∃ t < 4, s.notifyEp ctx t = some ep.toNat
    (¬ known → answers .window s s0 no (-3)) ∧
    (known → refusesHandle .window s s0 no ctx a ask) ∧
    (known → handleOk s0 ctx a ask acc →
      (¬ fit → answers .window s s0 no (-2)) ∧
      (fit → free = none → answers .window s s0 no (-4)) ∧
      (fit → free = some n →
        answers .window s { s0 with
          wins := s.wins ++ [{ num := n, ctx := ctx, handle := a.setWidth 24, oid := acc.oid, ep := ep, rights := ask }] } no
          (BitVec.ofNat 64 n)))) ∧
  (∀ (s : State) (no ctx part : Nat) (a b : Word) (bs : List Byte) (r : List Req), asks s 7 no ctx part a b bs r →
    let s0 := { s with mason := r }
    if ∃ w ∈ s.wins, w.num = a.toNat ∧ w.ctx = ctx then
      answers .unwindow s { s0 with wins := s.wins.filter fun w => w.num != a.toNat } no 0
    else answers .unwindow s s0 no (-3))

namespace Sys2Proof.Claims

/-- The word names a direct child of the caller's context (R315). -/
def childOf (s : State) (a : Word) : Prop := ∃ x, (a.toNat, x) ∈ s.ctxs ∧ x.parent = s.t.ctx

/-- A context word returns v in d and leaves s otherwise as s1. -/
def returns (i : Instr) (S : Bool) (s s1 : State) (d : BitVec 5) (v : Word) : Prop :=
  ∃ t, exec i s = .next (t.advance S) ∧ scalarSet s1 t d { val := v, poison := none }

/-- A context's state as R314 names it. -/
def ctxIn (s : State) (a : Word) (st : CtxSt) : Prop := ∃ x, s.ctx a.toNat = some x ∧ x.st = st

/-- The limits of R318: the status that `CTXSET` returns for value v of context c under a selector other than the event ring. -/
def setLimit (s : State) (c sel : Nat) (b : Word) : Word :=
  let v := b.toNat
  let kids := fun lo w => s.childSum c lo w
  let now := fun lo w => s.ctxField c lo w
  if sel < 7 then if b.extractLsb' 56 7 = 0 then 0 else -2
  else if 8 ≤ sel ∧ sel < 16 then
    let at_ := 768 + 64 * (sel - 8)
    let rate := (b.extractLsb' 0 32).toNat
    if b.extractLsb' 32 16 ≠ 0 ∨ rate < kids at_ 32 ∨ (0 < rate ∧ b.extractLsb' 48 16 = 0) then -2
    else if rate ≤ now at_ 32 + s.own s.t.ctx at_ 32 then 0 else -4
  else if sel = 0x10 ∨ sel = 0x11 then if v < 2 ^ 32 then 0 else -2
  else if 0x12 ≤ sel ∧ sel ≤ 0x15 then if v < 2 ^ 12 then 0 else -2
  else if sel = 0x16 then
    if 2 ^ 32 ≤ v ∨ v < s.framesHeld c + kids 640 32 then -2 else if v ≤ now 640 32 + s.freeFrames s.t.ctx then 0 else -4
  else if sel = 0x17 then
    if 124 < v ∨ v < kids 608 7 then -2 else if v ≤ now 608 7 + s.own s.t.ctx 608 7 then 0 else -4
  else if 2 ^ 32 ≤ v ∨ v &&& s.ctxField s.t.ctx 672 32 ≠ v ∨ ∃ g ∈ s.children c, s.ctxField g 672 32 &&& v ≠ s.ctxField g 672 32 then -2
  else 0

/-- A task with no request, no resolved access and no accepted element on its way. -/
def idleFetch (u : Task) : Prop := u.accesses = [] ∧ u.f.act = none ∧ u.f.run = [] ∧ ∀ p ∈ u.f.ports.toList, p.fifo = [] ∧ p.buf = []

/-- A context record has a reserved bit set, in itself, in a handler field or in a weir descriptor (R288, R312). -/
def strayBits (r : BitVec 2048) : Prop :=
  r.extractLsb' 2016 32 ≠ 0 ∨ r.extractLsb' 615 1 ≠ 0 ∨ r.extractLsb' 576 5 ≠ 0 ∨ r.extractLsb' 513 38 ≠ 0 ∨ r.extractLsb' 0 464 ≠ 0 ∨
    (∃ n < 7, r.extractLsb' (1280 + 64 * n + 56) 7 ≠ 0) ∨ ∃ n < 8, r.extractLsb' (768 + 64 * n + 32) 16 ≠ 0

/-- The status with which `CTXNEW` refuses a record of a child of context p, if any, in the order of R316: the depth and the numbers; PARTS within the caller's own
partitions; no RUNNING task on them; WAYS, the key slots, HTSIZE and the weirs; the shares and the frames. -/
def refusedNew (s : State) (p : Nat) (r : BitVec 2048) : Option Word :=
  let f := fun lo w => (r.extractLsb' lo w).toNat
  let mine := fun lo w => s.ctxField p lo w
  let own := fun lo w => s.ctxField p lo w - s.childSum p lo w
  let deep := match s.ctx p with | some x => x.depth == 7 | none => false
  if deep = true ∨ ∀ n < 4095, 1 ≤ n → (s.ctx n).isSome = true then some (-4)
  else if ∃ q < 288, r.getLsbD (1728 + q) = true ∧ s.ownPart p q = false then some (-2)
  else if ∃ q < 288, r.getLsbD (1728 + q) = true ∧ (s.tasks.any fun t => t.st == .running && t.part == q) = true then some (-5)
  else if f 672 32 &&& mine 672 32 ≠ f 672 32 ∨ f 595 13 < mine 595 13 ∨ mine 595 13 + mine 581 14 < f 595 13 + f 581 14 ∨ f 616 24 < 2 ∨
      ∃ n < 8, 0 < f (768 + 64 * n) 32 ∧ f (768 + 64 * n + 48) 16 = 0 then some (-2)
  else if own 608 7 < f 608 7 ∨ own 564 12 < f 564 12 ∨ own 551 13 < f 551 13 ∨ (∃ n < 8, own (768 + 64 * n) 32 < f (768 + 64 * n) 32) ∨
      s.freeFrames p < f 640 32 ∨ f 640 32 < (32 * f 616 24 + 65535) / 65536 then some (-4)
  else none

/-- The place and width of the field of a context record that a selector sets (R312, R318). -/
def setPlace (sel : Nat) : Nat × Nat :=
  if sel < 7 then (1280 + 64 * sel, 64) else if sel < 16 then (768 + 64 * (sel - 8), 64)
  else if sel = 0x10 then (704, 32) else if sel = 0x11 then (736, 32)
  else if sel < 0x16 then (464 + 12 * (sel - 0x12), 12)
  else if sel = 0x16 then (640, 32) else if sel = 0x17 then (608, 7) else (672, 32)

end Sys2Proof.Claims

/-- R314, R315: a context word whose operand is not a direct child raises PRIVILEGE, CONTEXT with the operand's low 12 bits, and so does `CTXSET` but
for the caller's own number 0 under the selectors that admit it; a parent's word on a child in DELETING, and `CTXDEL` of a child below which a
context is DELETING, returns BUSY and changes nothing. -/
def Obligations.ContextWordsActOnChildren : Prop :=
  (∀ (S : Bool) (d a b : BitVec 5) (m : BitVec 6) (s : State) (i : Instr), okS s a → okS s b → firstTime s →
    i ∈ [Instr.ctxgrant S d a b m, .ctxrun S d a, .ctxrunResume S d a b, .ctxrunKill S d a b, .ctxstop S d a, .ctxdel S d a,
          .logarm S d a b, .logarmOff S d a] →
    ¬ childOf s (s.rs a).val → raises i s (privTrap (whoOf i) 1 ((s.rs a).val.toNat % 4096))) ∧
  (∀ (S : Bool) (d a b : BitVec 5) (s : State) (i : Instr), okS s a → okS s b → firstTime s →
    i ∈ [Instr.ctxrun S d a, .ctxrunResume S d a b, .ctxrunKill S d a b, .ctxstop S d a, .ctxdel S d a] →
    childOf s (s.rs a).val → ctxIn s (s.rs a).val .deleting → returns i S s s d (-5)) ∧
  (∀ (S : Bool) (d a : BitVec 5) (s : State), okS s a → firstTime s → childOf s (s.rs a).val →
    (∃ n ∈ s.subtree (s.rs a).val.toNat, s.ctxIs n .deleting = true) → returns (.ctxdel S d a) S s s d (-5)) ∧
  (∀ (S : Bool) (d a b : BitVec 5) (f : BitVec 6) (s : State), okS s a → okS s b →
    ¬ childOf s (s.rs a).val → ¬ ((s.rs a).val = 0 ∧ (f.toNat < 7 ∨ f.toNat = 0x19)) →
    raises (.ctxset S d a b f) s (privTrap (whoOf (.ctxset S d a b f)) 1 ((s.rs a).val.toNat % 4096)))

/-- R312, R313, R316 to R318: `CTXNEW` of a record that is not aligned to 256 raises ALIGNMENT, of one that is not wholly in the window BOUNDS, SPAD-RANGE, and of
one with a reserved bit set BOUNDS, RECORD-RESERVED; a record that fails a test of R316 returns that test's status, and one that passes
makes a STOPPED child under the lowest free number, `CTXGRANT` a LIVE entry in
the child's lowest free handle, and `CTXSET` sets one field of a record within its limits, or the event ring once every page of it has a
frame; while the ring object moves it waits (DEDUCED, log entry 114). A ring whose counts cannot be read counts as gone (log entry 16, DESIGN
CHOICE), the L2 losing their line (R97), and a malformed ring object is reported (R49). A word with any other selector does not decode (R17). The model's own readings: reserved bits of a weir descriptor (log entry 58,
DEDUCED); what counts as held frames (log entry 68, DESIGN CHOICE). -/
def Obligations.ContextsAreMadeAndChanged : Prop :=
  (∀ (S : Bool) (d a : BitVec 5) (s : State), okS s a →
    let at_ := (s.rs a).val.toNat
    let r := bitsOfBytes 2048 (s.spad at_ 256)
    let i := Instr.ctxnew S d a
    (at_ % 256 ≠ 0 → raises i s (alignTrap (whoOf i) 2 (s.rs a).val 8)) ∧
    (at_ % 256 = 0 → s.t.window < at_ + 256 → raises i s (boundsPlain (whoOf i) 0x0A)) ∧
    (at_ % 256 = 0 → at_ + 256 ≤ s.t.window → strayBits r → raises i s (boundsPlain (whoOf i) 6)) ∧
    (at_ % 256 = 0 → at_ + 256 ≤ s.t.window → ¬ strayBits r →
    match refusedNew s s.t.ctx r with
    | some v => returns (.ctxnew S d a) S s s d v
    | none => ∃ n depth x, 1 ≤ n ∧ n < 4095 ∧ s.ctx n = none ∧ (∀ k, 1 ≤ k → k < n → s.ctx k ≠ none) ∧
        (∀ x, s.ctx s.t.ctx = some x → depth = x.depth + 1) ∧
        x = ({ cr := r, parent := s.t.ctx, depth := depth, st := .stopped, ring := 0, log := none, counters := [] } : Ctx) ∧
        returns (.ctxnew S d a) S s { s with ctxs := alSet s.ctxs n x } d (BitVec.ofNat 64 n))) ∧
  (∀ (s : State) (p q : Nat), s.ownPart p q = true ↔
    (∃ x, s.ctx p = some x ∧ x.cr.getLsbD (1728 + q) = true) ∧ ∀ c ∈ s.children p, ∀ x, s.ctx c = some x → x.cr.getLsbD (1728 + q) = false) ∧
  (∀ (S : Bool) (d a b : BitVec 5) (m : BitVec 6) (s : State) (acc : Acc), okS s a → okS s b → childOf s (s.rs a).val →
    let c := (s.rs a).val.toNat
    s.classChecked s.t.ctx (s.rs b).val rGRANT (whoOf (.ctxgrant S d a b m)) true = .ok acc →
    if s.ctxIs c .deleting then returns (.ctxgrant S d a b m) S s s d (-5)
    else match s.freeHandle c with
      | none => returns (.ctxgrant S d a b m) S s s d (-4)
      | some h => returns (.ctxgrant S d a b m) S s
          (s.setH c h { acc.e with st := .live, oid := acc.oid, rights := acc.e.rights &&& m, pctx := BitVec.ofNat 12 s.t.ctx, phandle := BitVec.ofNat 24 acc.h })
          d (BitVec.ofNat 64 h)) ∧
  (∀ (S : Bool) (d a b : BitVec 5) (f : BitVec 6) (s : State), okS s a → okS s b →
    f.toNat < 0x19 → f.toNat ≠ 7 → ((s.rs a).val = 0 ∧ f.toNat < 7) ∨ childOf s (s.rs a).val →
    let c := if (s.rs a).val = 0 then s.t.ctx else (s.rs a).val.toNat
    let v := setLimit s c f.toNat (s.rs b).val
    let place := setPlace f.toNat
    if v = 0 then returns (.ctxset S d a b f) S s (s.setCr c place.1 place.2 (s.rs b).val.toNat) d 0
    else returns (.ctxset S d a b f) S s s d v) ∧
  (∀ (S : Bool) (d a b : BitVec 5) (s : State), okS s a → okS s b → (s.rs a).val = 0 ∨ childOf s (s.rs a).val →
    let c := if (s.rs a).val = 0 then s.t.ctx else (s.rs a).val.toNat
    let h := (s.rs b).val
    let i := Instr.ctxset S d a b 0x19
    (h = 0 → returns i S s (s.modCtx c fun x => { x with ring := 0 }) d 0) ∧
    (2 ^ 24 ≤ h.toNat → returns i S s s d (-2)) ∧
    (h ≠ 0 → h.toNat < 2 ^ 24 → s.ringObj c h.toNat 16 32 = none → returns i S s (s.noteRing c h.toNat 16 32) d (-2)) ∧
    (∀ x, h ≠ 0 → h.toNat < 2 ^ 24 → s.ringObj c h.toNat 16 32 = some x → x.2.moving = true → waits i s .other .plain) ∧
    (∀ x, h ≠ 0 → h.toNat < 2 ^ 24 → s.ringObj c h.toNat 16 32 = some x → x.2.moving = false →
      (s.ringFrames s.die x.1 x.2 = none → returns i S s s d (-4)) ∧
      ∀ s1, s.ringFrames s.die x.1 x.2 = some s1 →
        returns i S s (s1.modCtx c fun x => { x with ring := h.extractLsb' 0 24 }) d 0)) ∧
  (∀ (s : State) (c h unit least : Nat) (oid : BitVec 48) (o : Obj),
    s.ringObj c h unit least = some (oid, o) ↔
      ∃ a, s.classChecked c (BitVec.ofNat 64 h) (rREAD ||| rWRITE ||| rATOMIC) { eng := 0, op := 0 } false = .ok a ∧ a.oid = oid ∧ a.o = o ∧
        o.coherent = true ∧ o.rank = 1 ∧ o.layout = 0 ∧ (o.fmt = 14 ∨ o.fmt = 8) ∧ o.extent 0 % unit = 0 ∧ least ≤ o.extent 0 ∧
        s.countsBad oid o = false) ∧
  (∀ (s : State) (c h unit least : Nat),
    match s.classChecked c (BitVec.ofNat 64 h) (rREAD ||| rWRITE ||| rATOMIC) { eng := 0, op := 0 } false with
    | .trap x => s.noteRing c h unit least = reported s x
    | .stall => True
    | .ok a => (s.countsBad a.oid a.o = false → s.noteRing c h unit least = s) ∧
        (∀ f, s.placeOf a.o 0 < 2 → s.frameOf a.oid 0 0 = some f → (s.ringObj c h unit least = none ↔ a.o.fitsRing unit least = false ∨
          s.lineBad (physAddr f 0) = true) ∧ (a.o.fitsRing unit least = true → s.lineBad (physAddr f 0) = true →
          s.noteRing c h unit least = s.l2lose (physAddr f 0)))) ∧
  (∀ (w : IWord) (S : Bool) (d a b : BitVec 5) (f : BitVec 6), decode w = .ok (.ctxset S d a b f) → f.toNat ≤ 0x19 ∧ f.toNat ≠ 7)

/-- R276, R305, R314, R319, R320: `CTXRUN` makes a child RUNNING, `CTXRUN.resume` makes a task READY that a reflected trap reported to the caller
parked, `CTXRUN.kill` ends it: the task is no more, and its slots are FREE (said of one without a request or an accepted element on its way).
`CTXSTOP` makes the child STOPPED, asks its subtree's running tasks to leave, and returns 0 once none runs; it waits on the child that it
named first (R31). -/
def Obligations.ContextsRunAndStop : Prop :=
  (∀ (S : Bool) (d a : BitVec 5) (s : State) (x : Ctx), okS s a → childOf s (s.rs a).val →
    let c := (s.rs a).val.toNat
    s.ctx c = some x → x.st ≠ .deleting →
    returns (.ctxrun S d a) S s { s with ctxs := alSet s.ctxs c { x with st := .running } } d 0) ∧
  (∀ (s : State) (c a : Nat) (id : BitVec 64), s.reflectedTo c a id = true ↔
    ∃ t, s.taskById id = some t ∧ t.st = .reflected ∧ t.told = c ∧ t.ctx ∈ s.subtree a ∧
      ∀ e ∈ s.events, e.ctx = c → e.ev.extractLsb' 64 64 ≠ id) ∧
  (∀ (S : Bool) (d a b : BitVec 5) (s : State), okS s a → okS s b → childOf s (s.rs a).val → ¬ ctxIn s (s.rs a).val .deleting →
    let id := (s.rs b).val
    if s.reflectedTo s.t.ctx (s.rs a).val.toNat id then
      returns (.ctxrunResume S d a b) S s
        (s.mapTasks fun t => if t.st ≠ .none ∧ t.id = id then { t with st := .ready, readyAt := s.clk } else t) d 0 ∧
      returns (.ctxrunKill S d a b) S s (s.killTask id) d 0
    else returns (.ctxrunResume S d a b) S s s d (-2) ∧ returns (.ctxrunKill S d a b) S s s d (-2)) ∧
  (∀ (s : State) (u : Task), u ∈ s.others → u.st ≠ .none → (s.tasks.map (·.id)).Nodup → idleFetch u →
    (∀ t ∈ (s.killTask u.id).tasks, t.id ≠ u.id) ∧
    (∀ t ∈ s.tasks, t.id ≠ u.id → ∃ t' ∈ (s.killTask u.id).tasks, t'.id = t.id ∧ t'.c.s = t.c.s) ∧
    ∀ p ∈ (s.killTask u.id).slots, p.2.owner = u.id → p.2.st = .free) ∧
  (∀ (S : Bool) (d a : BitVec 5) (s : State) (x : Ctx), firstTime s → okS s a → childOf s (s.rs a).val →
    let c := (s.rs a).val.toNat
    s.ctx c = some x → x.st ≠ .deleting →
    let s0 := { s with ctxs := alSet s.ctxs c { x with st := .stopped } }
    let s1 := s0.mapTasks fun t => if t.st = .running ∧ (s0.subtree c).contains t.ctx then
      { t with x := { t.x with stop := true, remain := if t.x.slice || t.x.stop || t.x.system then t.x.remain else t.x.limit } } else t
    if s1.subtreeRuns c then exec (.ctxstop S d a) s = .next (s1.block .other (.begun (s.rs a).val))
    else returns (.ctxstop S d a) S s s1 d 0) ∧
  (∀ (S : Bool) (d a : BitVec 5) (s : State) (v : Word), s.progress = .begun v →
    if s.subtreeRuns v.toNat then waits (.ctxstop S d a) s .other (.begun v) else returns (.ctxstop S d a) S s s d 0)

/-- R56, R321, R322, R325, R353: `CTXDEL` stops the subtree, waits while an object of it moves (R56), and then deletes it, after which none
of its numbers names a context, a handle, a trigger or a window, its tasks and the objects it owns are gone, and its event counters are added to
the caller's (said of tasks without a request or an accepted element on its way); it waits on the child that it named first (R31). `CTXREVOKE` waits for the
task's open accesses and revokes the entries that derive from its handle, and it unless `.kids`; `LOGARM` arms a log on a ring of the
caller's, which it awaits while the ring moves (log entry 114, DEDUCED), and `LOGARM.off` disarms it. The model's own readings: CTXDEL awaits requests under way (log entry 53, DEDUCED); and events at the
intake (log entry 81, DEDUCED); disarming on a child that is DELETING (log entry 82, DEDUCED). -/
def Obligations.DeletionRevocationAndLogs : Prop :=
  (∀ (S : Bool) (d a : BitVec 5) (s : State) (v : Word), s.progress = .begun v →
    let c := v.toNat
    let t := s.deleteTree s.t.ctx (s.subtree c)
    if s.subtreeRuns c || s.subtreeTells c || s.subtreeMoves c then waits (.ctxdel S d a) s .other (.begun v)
    else returns (.ctxdel S d a) S s t d 0 ∧
      (∀ n ∈ s.subtree c, t.ctx n = none) ∧ (∀ h ∈ t.handles, h.1 / 2 ^ 24 ∉ s.subtree c) ∧ (∀ x ∈ t.trigs, x.ctx ∉ s.subtree c) ∧
      (∀ w ∈ t.wins, w.ctx ∉ s.subtree c) ∧
      ((∀ u ∈ s.tasks, u.ctx ∈ s.subtree c → idleFetch u) → settledL2 s →
        ((s.tasks.map (·.id)).Nodup → ∀ u ∈ t.tasks, u.ctx ∉ s.subtree c) ∧
        (∀ oid o, s.obj oid = some o → o.ownerCtx.toNat ∈ s.subtree c → o.ownerEp = s.boot.ep → t.obj oid = none) ∧
        (∀ x k, s.ctx s.t.ctx = some x → s.t.ctx ∉ s.subtree c → (s.ctxs.map (·.1)).Nodup → (∀ q ∈ s.ctxs, (q.2.counters.map (·.1)).Nodup) →
          let n := ((s.subtree c).map fun n => ((s.ctx n).bind fun y => alGet y.counters k).getD 0).sum
          ∃ y, t.ctx s.t.ctx = some y ∧ (alGet y.counters k).getD 0 % 2 ^ 64 = ((alGet x.counters k).getD 0 + n) % 2 ^ 64))) ∧
  (∀ (S : Bool) (d a : BitVec 5) (s : State), firstTime s → okS s a → childOf s (s.rs a).val →
    let c := (s.rs a).val.toNat
    (∀ n ∈ s.subtree c, s.ctxIs n .deleting = false) →
    let s1 := (((s.subtree c).foldl (fun s n => s.modCtx n fun x => { x with st := .deleting }) s).stopTasks c)
    if s1.subtreeRuns c || s1.subtreeTells c || s1.subtreeMoves c then
      exec (.ctxdel S d a) s = .next (s1.block .other (.begun (s.rs a).val))
    else returns (.ctxdel S d a) S s (s1.deleteTree s1.t.ctx (s1.subtree c)) d 0) ∧
  (∀ (S kids : Bool) (d a : BitVec 5) (s : State) (n : Nat) (e : HEntry), firstTime s → okS s a →
    s.entryChecked s.t.ctx (s.rs a).val (whoOf (.ctxrevoke S d a kids)) = .ok (n, e) →
    if s.handleOpen n then waits (.ctxrevoke S d a kids) s .other (.begun (BitVec.ofNat 64 n))
    else
      let hit := fun (p : Nat × HEntry) => (p.2.st == .live && s.derives s.t.ctx n s.handles.length p.2) || (!kids && p.1 == hkey s.t.ctx n)
      let gone := s.handles.filter hit
      let s0 : State := { s with
        handles := s.handles.map fun p => if hit p then (p.1, { p.2 with st := .revoked }) else p,
        wins := s.wins.filter fun w => !(gone.map (·.1)).contains (hkey w.ctx w.handle.toNat) }
      let s1 := State.settle (s0.loseHandles (gone.map (·.1)))
      returns (.ctxrevoke S d a kids) S s s1 d (BitVec.ofNat 64 gone.length)) ∧
  (∀ (S : Bool) (d a b : BitVec 5) (s : State), okS s a → okS s b → childOf s (s.rs a).val →
    let c := (s.rs a).val.toNat
    let h := (s.rs b).val.toNat
    (∀ x, h ≠ 0 → h < 2 ^ 24 → s.ringObj s.t.ctx h 4 20 = some x → x.2.moving = true → waits (.logarm S d a b) s .other .plain) ∧
    (∀ x s1, h < 2 ^ 24 → s.ringObj s.t.ctx h 4 20 = some x → x.2.moving = false → s.ringFrames s.die x.1 x.2 = some s1 →
      returns (.logarm S d a b) S s
        (s1.modCtx c fun y => { y with log := some { ring := BitVec.ofNat 24 h, rctx := s.t.ctx, pages := [], told := false } }) d 0) ∧
    (∀ x, h < 2 ^ 24 → s.ringObj s.t.ctx h 4 20 = some x → x.2.moving = false → s.ringFrames s.die x.1 x.2 = none → returns (.logarm S d a b) S s s d (-4)) ∧
    (2 ^ 24 ≤ h → returns (.logarm S d a b) S s s d (-2)) ∧
    (h < 2 ^ 24 → s.ringObj s.t.ctx h 4 20 = none → returns (.logarm S d a b) S s (s.noteRing s.t.ctx h 4 20) d (-2)) ∧
    returns (.logarmOff S d a) S s (s.modCtx c fun y => { y with log := none }) d 0)

namespace Sys2Proof.Claims

/-- The stop bit of an instruction's word (R15). -/
def stopBit (i : Instr) : Option Bool := (encode i).map fun w => w.getLsbD 31

/-- Entry e stands at the head of the vector queue at the engine's turn, and its word passes its checks (R173). -/
abbrev atHead (e : QEntry) (s : State) : Prop := s.turn = .vector ∧ s.t.v.q.head? = some e ∧ s.vecCheck e = none

/-- s with further results in flight. -/
def flown (s : State) (fs : List Flight) : State := { s with t := { s.t with v := { s.t.v with flights := s.t.v.flights ++ fs } } }

/-- A result of entry e for vector register d or the port that it names (R141, R164, R166). -/
def resultFlight (s : State) (e : QEntry) (d : BitVec 5) (val mask : BitVec 2048) (keep : Bool) (fl : Fl) : Flight :=
  { land := s.t.v.step + latOf e.w, dst := e.dstOf d, val := val, mask := mask, poison := s.vpoison e,
    keep := keep && (e.portOf d).isNone, flags := fl, also := none }

/-- A result of entry e for mask register d, discarded for `m0` (R19, R164). -/
def maskFlight (s : State) (e : QEntry) (d : BitVec 3) (val mask : BitVec 256) (keep : Bool) : Flight :=
  { land := s.t.v.step + latOf e.w, dst := if d = 0 then .nowhere else .m d, val := val.setWidth 2048, mask := mask.setWidth 2048,
    poison := s.vpoison e, keep := keep, flags := 0, also := none }

/-- The elements of type f of vector register n, as entry e reads it (R140, R163). -/
def element (s : State) (e : QEntry) (n : BitVec 5) (f : Fmt) (i : Nat) : Nat :=
  (s.vread e n).bits.toNat / 2 ^ (fmtWidth f * i) % 2 ^ fmtWidth f

/-- Element i of type f is active under mask m (R163). -/
def active (s : State) (m : BitVec 3) (f : Fmt) (i : Nat) : Bool := (s.mread m).bits.getLsbD (fmtWidth f / 8 * i)

/-- Elements of type f in a register. -/
def elements (f : Fmt) : Nat := 2048 / fmtWidth f

/-- The result of an element-wise word under mask m: g gives each active element and its flags (R160, R163). -/
def laneFlight (s : State) (e : QEntry) (d : BitVec 5) (m : BitVec 3) (f : Fmt) (g : Nat → Nat × Fl) : Flight :=
  let xs := (List.range (elements f)).map fun i => if active s m f i then g i else (0, 0)
  let ms := (List.range (elements f)).map fun i => if active s m f i then 2 ^ fmtWidth f - 1 else 0
  resultFlight s e d (ofElems (fmtWidth f) (xs.map (·.1))) (ofElems (fmtWidth f) ms) (m != 0) (xs.foldl (fun r x => r ||| x.2) 0)

/-- An exact result rounded once under RNE (R176). -/
def rne (f : Fmt) (x : Ex) : Nat × Fl := x.round f .rne 0 0

/-- At its step the word i puts one result in flight, element i of which g gives. -/
def laneWord (i : Instr) (d : BitVec 5) (m : BitVec 3) (f : Fmt) (g : QEntry → State → Nat → Nat × Fl) : Prop :=
  ∀ (e : QEntry) (s : State), atHead e s → e.w = i → exec i s = .next ((flown s [laneFlight s e d m f (g e s)]).vecDone e)

/-- At its step the word i puts the result x in flight. -/
def flies (i : Instr) (x : QEntry → State → Flight) : Prop :=
  ∀ (e : QEntry) (s : State), atHead e s → e.w = i → exec i s = .next ((flown s [x e s]).vecDone e)

/-- An integer result in the width of its format (R183). -/
def wrapped (f : Fmt) (x : Int) : Nat × Fl := ((x % 2 ^ fmtWidth f).toNat, 0)

/-- The inputs of a reduction, widened, an inactive one replaced by the identity (R184). -/
def reduced (s : State) (e : QEntry) (a : BitVec 5) (m : BitVec 3) (f : Fmt) (ident : Nat) : List Nat :=
  (List.range (elements f)).map fun i => if active s m f i then
    (if fmtIsInt f then (intVal f (element s e a f i) % 2 ^ 32).toNat else (convert f .f32 .rne 0 0 false (element s e a f i)).1)
    else ident

/-- The result of a reduction: the root in bytes 0 to 3, the rest zero (R184). -/
def reduceFlight (s : State) (e : QEntry) (d a : BitVec 5) (m : BitVec 3) (f : Fmt) (ident : Nat) (g : Nat → Nat → Nat × Fl) : Flight :=
  let r := reduceTree g 8 (reduced s e a m f ident)
  resultFlight s e d (BitVec.ofNat 2048 (r.1 % 2 ^ 32)) (BitVec.allOnes 2048) false r.2

/-- The result of a comparison: w/8 bits of the mask for each element (R178). -/
def compareFlight (s : State) (e : QEntry) (d : BitVec 3) (a b : BitVec 5) (f : Fmt) (g : Nat → Nat → Bool) : Flight :=
  let n := fmtWidth f / 8
  maskFlight s e d (BitVec.ofNat 256 (packElems n ((List.range (elements f)).map fun i =>
    if g (element s e a f i) (element s e b f i) then 2 ^ n - 1 else 0))) (BitVec.allOnes 256) false

/-- At its step the word i delivers v to a register of the control engine, with a deferral record when what it reads is poisoned
(R171), and the flags become fl. -/
def delivers (i : Instr) (r : Reg) (v : QEntry → State → Word) (fl : BitVec 5 → BitVec 5) : Prop :=
  ∀ (e : QEntry) (s : State), atHead e s → e.w = i →
    let p : Option Deferral := (s.firstPoisoned e).map fun b => { info := vecPoison i 0x13 b, org := e.pc.setWidth 32 }
    let none_ : Flight :=
      { land := s.t.v.step + latOf i, dst := .nowhere, val := 0, mask := 0, poison := false, keep := false, flags := 0, also := none }
    let v1 := { s.t.v with flights := s.t.v.flights ++ [none_], deliv := s.t.v.deliv ++ [{ reg := r, val := v e s, poison := p }] }
    exec i s = .next (State.vecDone { s with t := { s.t with v := v1, x := { s.t.x with flags := fl s.t.x.flags } } } e)

/-- The elements active under every mask of a list (R190). -/
def live (s : State) (ms : List (BitVec 3)) (f : Fmt) : Nat :=
  ((List.range (elements f)).filter fun i => ms.all fun m => active s m f i).length

end Sys2Proof.Claims

/-- What a scalar or condition register holds, a condition as 0 or 1 (R30). -/
def Sys2Proof.Claims.heldNow (s : State) (r : Reg) : SReg :=
  match r with
  | .s n => s.rs n
  | .c n => { val := if (s.rc n).val then 1 else 0, poison := (s.rc n).poison }
  | _ => SReg.zero

/-- R16, R30, R31, R152, R297: a vector, matrix or fetch word at the control engine's turn, outside a handler and with no poisoned scalar to
capture, enters its engine's queue with the values of the scalars it names, its prefix, its offset and the SR generator as it stands, and
a register it delivers becomes pending; a poisoned one raises POISON, and in a handler every such word raises PRIVILEGE. Discarding a word whose
register is still pending gives the register back the value and poison that it held at dispatch. -/
def Obligations.QueueWordsAreDispatched : Prop :=
  (∀ (c : Ctl) (e : QEntry) (n : BitVec 5) (x : SReg), deliversOf e.w = some (.s n) → e.was = some x → .s n ∈ c.pend → n ≠ 0 →
    (c.unpendOne e).sreg n = x ∧ (c.unpendOne e).pend = c.pend.filter fun r => r != .s n) ∧
  ∀ (i : Instr) (S : Bool) (s : State), stopBit i = some S → engineOf i ∈ [1, 3, 4] → s.turn = .control →
    (s.t.x.hmode = true → raises i s (privTrap (whoOf i) 3 0)) ∧
    (s.t.x.hmode = false → ∀ r, firstBad s (capturesOf i) = some r → raises i s (poisonTrap (whoOf i) false r.toNat)) ∧
    (s.t.x.hmode = false → firstBad s (capturesOf i) = none →
      let caps := (capturesOf i).map fun r => (s.rs r).val
      let c := s.t.c.rebind i
      let e : QEntry :=
        { w := i, pfx := s.t.c.pfx, caps := caps, pc := s.wordOff, gseq := s.t.c.gseq, sr := s.t.v.sr, ports := c.ports,
          was := (deliversOf i).map (heldNow s) }
      let t : State := { s with t := { s.t with
        c := { c with pend := c.pend ++ (deliversOf i).toList },
        v := { s.t.v with sr := srAfter i caps s.t.v.sr, q := if engineOf i = 1 then s.t.v.q ++ [e] else s.t.v.q },
        mq := if engineOf i = 3 then s.t.mq ++ [e] else s.t.mq,
        f := { s.t.f with q := if engineOf i = 4 then s.t.f.q ++ [e] else s.t.f.q } } }
      exec i s = .next (t.advance S))

/-- R163, R164, R166, R176, R177, R179, R180, R182: at its step an element-wise float word puts one result in flight, of its active elements. -/
def Obligations.FloatWordsComputeTheirLanes : Prop :=
  ∀ (S : Bool) (d a b : BitVec 5) (n m t : BitVec 3),
    let f := fmtOfT t.toNat
    let x := fun (e : QEntry) (s : State) (r : BitVec 5) (i : Nat) => exOf f (element s e r f i)
    let el := fun (e : QEntry) (s : State) (r : BitVec 5) (i : Nat) => element s e r f i
    laneWord (.vadd S d a b m t) d m f (fun e s i => rne f ((x e s a i).add (x e s b i))) ∧
    laneWord (.vsub S d a b m t) d m f (fun e s i => rne f ((x e s a i).add (x e s b i).neg)) ∧
    laneWord (.vmul S d a b m t) d m f (fun e s i => rne f ((x e s a i).mul (x e s b i))) ∧
    laneWord (.vfma S d a b m t) d m f (fun e s i => rne f (((x e s a i).mul (x e s b i)).add (x e s d i))) ∧
    laneWord (.vfms S d a b m t) d m f (fun e s i => rne f (((x e s a i).mul (x e s b i)).add (x e s d i).neg)) ∧
    laneWord (.vfnma S d a b m t) d m f (fun e s i => rne f (((x e s a i).mul (x e s b i)).neg.add (x e s d i))) ∧
    laneWord (.vmax S d a b m t) d m f (fun e s i => (fMaxMin f true (el e s a i) (el e s b i), 0)) ∧
    laneWord (.vmin S d a b m t) d m f (fun e s i => (fMaxMin f false (el e s a i) (el e s b i), 0)) ∧
    laneWord (.vabs S d a m t) d m f (fun e s i => (el e s a i % 2 ^ (fmtWidth f - 1), 0)) ∧
    laneWord (.vneg S d a m t) d m f (fun e s i => (el e s a i ^^^ 2 ^ (fmtWidth f - 1), 0)) ∧
    laneWord (.vclass S d a m t) d m f (fun e s i => (classBit f (el e s a i), 0)) ∧
    laneWord (.vrcp S d a m t) d m f (fun e s i => builtin .rcp f (el e s a i)) ∧
    laneWord (.vrsq S d a m t) d m f (fun e s i => builtin .rsq f (el e s a i)) ∧
    laneWord (.vexp2 S d a m t) d m f (fun e s i => builtin .exp2 f (el e s a i)) ∧
    laneWord (.vlog2 S d a m t) d m f (fun e s i => builtin .log2 f (el e s a i)) ∧
    laneWord (.vscale S d a b m t) d m f (fun e s i => scaleEl f (el e s a i) (el e s b i)) ∧
    laneWord (.vtbl S d a n m t) d m f (fun e s i => tableEl (vget s.t.v.tabs n.toNat { seg := 0, desc := 0 }) f (el e s a i))

/-- R163, R164, R183, R189, R192: the same of the element-wise words on integers and bits, which raise no flag. -/
def Obligations.IntegerWordsComputeTheirLanes : Prop :=
  ∀ (S : Bool) (d a b : BitVec 5) (m t : BitVec 3),
    let f := fmtOfT t.toNat
    let w := fmtWidth f
    let v := fun (e : QEntry) (s : State) (r : BitVec 5) (i : Nat) => intVal f (element s e r f i)
    let el := fun (e : QEntry) (s : State) (r : BitVec 5) (i : Nat) => element s e r f i
    laneWord (.viadd S d a b m t) d m f (fun e s i => wrapped f (v e s a i + v e s b i)) ∧
    laneWord (.visub S d a b m t) d m f (fun e s i => wrapped f (v e s a i - v e s b i)) ∧
    laneWord (.vimul S d a b m t) d m f (fun e s i => wrapped f (v e s a i * v e s b i)) ∧
    laneWord (.vimulh S d a b m t) d m f (fun e s i => wrapped f ((v e s a i * v e s b i).fdiv (2 ^ w))) ∧
    laneWord (.vimin S d a b m t) d m f (fun e s i => wrapped f (min (v e s a i) (v e s b i))) ∧
    laneWord (.vimax S d a b m t) d m f (fun e s i => wrapped f (max (v e s a i) (v e s b i))) ∧
    laneWord (.viabs S d a m t) d m f (fun e s i => wrapped f (v e s a i).natAbs) ∧
    laneWord (.vand S d a b m t) d m f (fun e s i => (el e s a i &&& el e s b i, 0)) ∧
    laneWord (.vor S d a b m t) d m f (fun e s i => (el e s a i ||| el e s b i, 0)) ∧
    laneWord (.vxor S d a b m t) d m f (fun e s i => (el e s a i ^^^ el e s b i, 0)) ∧
    laneWord (.vshl S d a b m t) d m f (fun e s i => (el e s a i * 2 ^ (el e s b i % w), 0)) ∧
    laneWord (.vshr S d a b m t) d m f (fun e s i => (el e s a i / 2 ^ (el e s b i % w), 0)) ∧
    laneWord (.vsra S d a b m t) d m f (fun e s i =>
      wrapped f (Int.fdiv (if 2 ^ (w - 1) ≤ el e s a i then (el e s a i : Int) - 2 ^ w else el e s a i) (2 ^ (el e s b i % w)))) ∧
    laneWord (.vperm S d a b m t) d m f (fun e s i => (el e s a (el e s b i % elements f), 0)) ∧
    laneWord (.viota S d m t) d m f (fun _ _ i => (i, 0)) ∧
    laneWord (.vbcst S d a m t) d m f (fun e _ _ => ((e.cap 0).toNat, 0)) ∧
    laneWord (.vrng S d m) d m .i32 (fun e _ i => (e.random 1 i, 0))

/-- R164, R178, R179, R184, R185, R191, R192: words that choose, reduce, scan, move and compare put their one result in flight. -/
def Obligations.WordsThatReduceScanAndCompare : Prop :=
  ∀ (S : Bool) (d a b : BitVec 5) (d' a' b' c m o t : BitVec 3),
    let f := fmtOfT t.toNat
    let w := fmtWidth f
    flies (.vsel S d a b m t) (fun e s => resultFlight s e d (ofElems w ((List.range (elements f)).map fun i =>
      if active s m f i then element s e a f i else element s e b f i)) (BitVec.allOnes 2048) false 0) ∧
    (fmtIsInt f = true →
      flies (.vrsum S d a m t) (fun e s => reduceFlight s e d a m f 0 fun x y => ((x + y) % 2 ^ 32, 0)) ∧
      flies (.vrmax S d a m t) (fun e s => reduceFlight s e d a m f (intMin f % 2 ^ 32).toNat fun x y => (ibin max .i32 x y, 0)) ∧
      flies (.vrmin S d a m t) (fun e s => reduceFlight s e d a m f (intMax f % 2 ^ 32).toNat fun x y => (ibin min .i32 x y, 0))) ∧
    (fmtIsInt f = false →
      flies (.vrsum S d a m t) (fun e s => reduceFlight s e d a m f 0x80000000 (fAdd .f32)) ∧
      flies (.vrmax S d a m t) (fun e s => reduceFlight s e d a m f 0xFF800000 fun x y => (fMaxMin .f32 true x y, 0)) ∧
      flies (.vrmin S d a m t) (fun e s => reduceFlight s e d a m f 0x7F800000 fun x y => (fMaxMin .f32 false x y, 0))) ∧
    flies (.vscan S d a m t) (fun e s =>
      let out := scanList f (if fmtIsInt f then 0 else 2 ^ (w - 1)) ((List.range (elements f)).map fun i => (active s m f i, element s e a f i))
      let ms := (List.range (elements f)).map fun i => if active s m f i then 2 ^ w - 1 else 0
      resultFlight s e d (ofElems w (out.map (·.1))) (ofElems w ms) (m != 0) (orFlags out)) ∧
    flies (.vmov S d a m) (fun e s => resultFlight s e d (s.vread e a).bits (maskOf (s.mread m).bits 8 256) (m != 0) 0) ∧
    flies (.vcmp S d' a b c t) (fun e s => compareFlight s e d' a b f fun x y => fcc c.toNat (fval f x) (fval f y)) ∧
    flies (.vicmp S d' a b c t) (fun e s => compareFlight s e d' a b f fun x y => icc c.toNat (intVal f x) (intVal f y)) ∧
    flies (.vmlog S d' a' b' m o) (fun e s =>
      let x := (s.mread a').bits
      let y := (s.mread b').bits
      maskFlight s e d' (match o.toNat with
        | 0 => x &&& y | 1 => x ||| y | 2 => x ^^^ y | 3 => x &&& ~~~y | 4 => x ||| ~~~y | 5 => ~~~(x ^^^ y) | 6 => ~~~(x &&& y)
        | _ => ~~~(x ||| y)) (s.mread m).bits (m != 0))

/-- R153, R186 to R188, R196: the converting words put their result in flight, `VQMX` its elements in d and its scales in d + 1, each at
the place that p gives, and raises its flags unless d or d + 1 is then poisoned (R164); `VTRW` writes a row of a tile, `VTZ` zeroes one, `VTCR` reads a column.
The column of tile elements of 6 bits counts modulo 341 (log entry 108, DESIGN CHOICE). -/
def Obligations.WordsThatConvert : Prop :=
  (∀ (S bf : Bool) (d a v : BitVec 5) (p : BitVec 4) (el x y : BitVec 4) (r : BitVec 3) (k t : BitVec 2),
    let src := fmtOf x
    let dst := fmtOf y
    let n := convN src dst
    let plain := fun (sat : Bool) (e : QEntry) (s : State) =>
      let xs := (List.range n).map fun i => convert src dst (rndOf r) (32 / (n / 64)) (e.random (n / 64) i) sat (element s e a src i)
      resultFlight s e d (ofElems (fmtWidth dst) (xs.map (·.1))) (BitVec.allOnes 2048) false (orFlags xs)
    flies (.vcvt S d a x y r) (plain false) ∧ flies (.vcvts S d a x y r) (plain true) ∧
    flies (.vdqmx S d p el bf k) (fun e s =>
      let dst := if bf then Fmt.bf16 else Fmt.f32
      let n := if bf then 128 else 64
      let at_ := k.toNat * n
      let lo : BitVec 5 := p.setWidth 5 <<< 1
      let xs := (List.range n).map fun i => convVal dst .rne 0 0 false
        (mxValue (fmtOf el) (elemAt (s.vread e (lo ||| 1)).bits 8 (at_ / 32 + i / 32))
          (elemAt (s.vread e lo).bits (fmtWidth (fmtOf el)) (at_ + i)))
      resultFlight s e d (ofElems (fmtWidth dst) (xs.map (·.1))) (BitVec.allOnes 2048) false (orFlags xs)) ∧
    flies (.vtrw S t v a x y) (fun e s =>
      let xs := (List.range n).map fun i => convert src dst .rne 0 0 false (element s e v src i)
      { resultFlight s e 0 (ofElems (fmtWidth dst) (xs.map (·.1))) (BitVec.allOnes 2048) false (orFlags xs) with
        dst := .row t (BitVec.ofNat 6 ((e.cap 0).toNat % 64)) }) ∧
    flies (.vtcr S d t a x y) (fun e s =>
      let col := (e.cap 0).toNat % elements src
      let xs := (List.range 64).map fun r => convert src dst .rne 0 0 false (elemAt (s.rowOf t r).bits (fmtWidth src) col)
      resultFlight s e d (ofElems (fmtWidth dst) (xs.map (·.1))) (BitVec.allOnes 2048) false (orFlags xs)) ∧
    flies (.vtz S t) (fun e s =>
      { land := s.t.v.step + latOf e.w, dst := .tile t, val := 0, mask := 0, poison := false, keep := false, flags := 0, also := none })) ∧
  (∀ (e : QEntry) (s : State) (S bf y : Bool) (d : BitVec 4) (a : BitVec 5) (el : BitVec 4) (r : BitVec 3) (p : BitVec 2), atHead e s →
    e.w = .vqmx S d a el bf r y p →
    let src := if bf then Fmt.bf16 else Fmt.f32
    let n := if bf then 128 else 64
    let w := fmtWidth (fmtOf el)
    let ins := (List.range n).map fun i => if y then clampInf src (element s e a src i) else (element s e a src i, 0)
    let q := quantBlocks (fmtOf el) (rndOf r) (32 / (n / 64)) (e.random (n / 64)) (n / 32) 0 (ins.map fun x => fval src x.1)
    let lo : BitVec 5 := d.setWidth 5 <<< 1
    let at_ := p.toNat * n
    exec (.vqmx S d a el bf r y p) s = .next ((flown s
      [{ resultFlight s e lo (BitVec.ofNat 2048 (packElems w q.2.1 * 2 ^ (at_ * w))) (BitVec.ofNat 2048 ((2 ^ (n * w) - 1) * 2 ^ (at_ * w)))
           true (q.2.2 ||| orFlags ins) with
           also := if (e.portOf (lo ||| 1)).isNone then some (lo ||| 1) else none },
       resultFlight s e (lo ||| 1) (BitVec.ofNat 2048 (packElems 8 q.1 * 2 ^ (8 * (at_ / 32))))
         (BitVec.ofNat 2048 ((2 ^ (8 * (n / 32)) - 1) * 2 ^ (8 * (at_ / 32)))) true 0]).vecDone e))

/-- R171, R190, R192, R198 to R200: the words that deliver a value send it to the control engine, with a deferral record when what they read
is poisoned; `VFLG.clear` clears the flags; `VTKW` takes a token, `VTKS` gives one with the last of the earlier results to land; `VNOP`
occupies its steps; `VCHK` of an unpoisoned register and `VSEED` do nothing more. The delivered result then replaces its register. The
model's own readings: the delivery is an event of its own (log entry 40, DEDUCED).
Of two `VFLG` in one step the second reads what the first has left (log entry 107, DESIGN CHOICE). -/
def Obligations.DeliveredWordsTokensAndWaits : Prop :=
  (∀ (S : Bool) (c a m t : BitVec 3) (d v b : BitVec 5),
    let f := fmtOfT t.toNat
    delivers (.vany S c a m t) (.c c) (fun _ s => if live s [m, a] f = 0 then 0 else 1) id ∧
    delivers (.vall S c a m t) (.c c) (fun _ s => if live s [m, a] f = live s [m] f then 1 else 0) id ∧
    delivers (.vmpop S d a m t) (.s d) (fun _ s => BitVec.ofNat 64 (live s [m, a] f)) id ∧
    delivers (.vext S d v b t) (.s d) (fun e s =>
      let x := element s e v f ((e.cap 0).toNat % elements f)
      if fmtIsInt f then BitVec.ofInt 64 (intVal f x) else BitVec.ofNat 64 x) id ∧
    delivers (.vflg S d false) (.s d) (fun _ s => s.t.x.flags.setWidth 64) id ∧
    delivers (.vflg S d true) (.s d) (fun _ s => s.t.x.flags.setWidth 64) (fun _ => 0)) ∧
  (∀ (e : QEntry) (s : State) (S : Bool) (k : BitVec 3), atHead e s →
    (e.w = .vtkw S k → exec e.w s = .next (State.vecDone (tokenTaken s k) e)) ∧
    (e.w = .vtks S k → (∃ f ∈ s.t.v.flights, s.t.v.step < f.land) →
      let last := (s.t.v.flights.map (·.land)).foldl max s.t.v.step
      let x : Flight :=
        { land := last, dst := .token k, val := 0, mask := 0, poison := false, keep := false, flags := 0, also := none }
      exec e.w s = .next (State.vecDone { s with t := { s.t with v := { s.t.v with
        occ := max s.t.v.occ (last - s.t.v.step), flights := s.t.v.flights ++ [x] } } } e)) ∧
    (e.w = .vtks S k → (∀ f ∈ s.t.v.flights, f.land ≤ s.t.v.step) → exec e.w s = .next (State.vecDone { s with t := { s.t with
      tok := vset s.t.tok k.toNat (vget s.t.tok k.toNat 0 + 1) } } e))) ∧
  (∀ (e : QEntry) (s : State) (S : Bool) (n : BitVec 16), atHead e s → e.w = .vnop S n →
    exec e.w s = .next (State.vecDone { s with t := { s.t with v := { s.t.v with occ := max s.t.v.occ (n.toNat - 1) } } } e)) ∧
  (∀ (e : QEntry) (s : State) (S k : Bool) (a b : BitVec 5), atHead e s → e.w = .vchk S a k ∨ e.w = .vseed S a b →
    exec e.w s = .next (s.vecDone e)) ∧
  (∀ (s : State) (x : Deliv) (xs : List Deliv) (n : BitVec 5), s.t.v.deliv = x :: xs → x.reg = .s n →
    ∃ t, exec .deliveredResult s = .next t ∧
      scalarSet { s with t := { s.t with v := { s.t.v with deliv := xs }, c := { s.t.c with pend := s.t.c.pend.erase x.reg } } } t n
        { val := x.val, poison := x.poison }) ∧
  (∀ (s : State) (x : Deliv) (xs : List Deliv) (n : BitVec 3), s.t.v.deliv = x :: xs → x.reg = .c n →
    ∃ t, exec .deliveredResult s = .next t ∧
      conditionSet { s with t := { s.t with v := { s.t.v with deliv := xs }, c := { s.t.c with pend := s.t.c.pend.erase x.reg } } } t n
        { val := x.val != 0, poison := x.poison })

/-- R168, R181, R193 to R195, R197: the words between registers and memory. Loads see the window without the stores of their own step and
the one before; stores put the register's bytes there at their step; `VTLD` loads a table and `VACR` a quarter of a tile's row. -/
def Obligations.VectorLoadsAndStores : Prop :=
  (∀ (e : QEntry) (s : State) (S : Bool) (d a b : BitVec 5) (k : BitVec 11) (r : BitVec 2), atHead e s →
    (e.w = .vld S d a k → exec e.w s = .next
      ((flown s [resultFlight s e d (bitsOfBytes 2048 (s.vload (e.vldOff k).toNat 256)) (BitVec.allOnes 2048) false 0]).vecDone e)) ∧
    (e.w = .vst S d a k → exec e.w s = .next ((s.vstore (e.vldOff k).toNat (leBytes 256 (s.vread e d).bits.toNat)).vecDone e)) ∧
    (e.w = .vlds S d a b r →
      let n := 8 * 2 ^ r.toNat
      let bs := (List.range (256 / n)).flatMap fun j => s.vload (e.cap 0 + BitVec.ofNat 64 j * e.cap 1).toNat n
      exec e.w s = .next ((flown s [resultFlight s e d (bitsOfBytes 2048 bs) (BitVec.allOnes 2048) false 0]).vecDone e)) ∧
    (e.w = .vsts S d a b r →
      let n := 8 * 2 ^ r.toNat
      let bs := leBytes 256 (s.vread e d).bits.toNat
      exec e.w s = .next (((List.range (256 / n)).foldl (fun (u : State) j =>
        u.vstore (e.cap 0 + BitVec.ofNat 64 j * e.cap 1).toNat ((bs.drop (j * n)).take n)) s).vecDone e))) ∧
  (∀ (e : QEntry) (s : State) (S : Bool) (d a b : BitVec 5) (m : BitVec 3) (w : BitVec 2), atHead e s →
    let k := 2 ^ w.toNat
    let n := if w = 3 then 32 else 64
    let offs := ((List.range n).filter fun i => (s.mread m).bits.getLsbD (k * i)).map fun i =>
      (i, e.cap 0 + BitVec.ofNat 64 (elemAt (s.vread e b).bits 32 i))
    (e.w = .vgth S d a b m w → ∃ v mk, exec e.w s = .next ((flown s [resultFlight s e d v mk (m != 0) 0]).vecDone e) ∧
      v = BitVec.ofNat 2048 ((offs.map fun p => leNat (s.vload p.2.toNat k) * 2 ^ (8 * k * p.1)).sum) ∧
      mk = BitVec.ofNat 2048 ((offs.map fun p => (2 ^ (8 * k) - 1) * 2 ^ (8 * k * p.1)).sum) ||| ~~~(BitVec.ofNat 2048 (2 ^ (8 * k * n) - 1))) ∧
    (e.w = .vsct S d a b m w → exec e.w s = .next ((offs.foldl (fun (u : State) p =>
      u.vstore p.2.toNat (leBytes k (elemAt (s.vread e d).bits (8 * k) p.1))) s).vecDone e))) ∧
  (∀ (e : QEntry) (s : State) (S : Bool) (d : BitVec 3) (a : BitVec 5), atHead e s →
    (e.w = .vmld S d a → exec e.w s = .next
      ((flown s [maskFlight s e d (bitsOfBytes 256 (s.vload (e.cap 0).toNat 32)) (BitVec.allOnes 256) false]).vecDone e)) ∧
    (e.w = .vmst S d a → exec e.w s = .next ((s.vstore (e.cap 0).toNat (leBytes 32 (s.mread d).bits.toNat)).vecDone e))) ∧
  (∀ (e : QEntry) (s : State) (S : Bool) (n : BitVec 3) (a b : BitVec 5), atHead e s → e.w = .vtld S n a b →
    let tab := VDst.tab n (bitsOfBytes 16384 (s.vload (e.cap 0).toNat 2048)) ((e.cap 1).setWidth 13)
    exec e.w s = .next ((flown s [{
      land := s.t.v.step + latOf e.w, dst := tab, val := 0, mask := 0, poison := false, keep := false, flags := 0, also := none }]).vecDone e)) ∧
  (∀ (e : QEntry) (s : State) (S : Bool) (d : BitVec 5) (a : BitVec 4) (r : BitVec 5) (q : BitVec 2), atHead e s →
    e.w = .vacr S d a r q → (s.tile s.core a.toNat).bad = [] →
    exec e.w s = .next ((flown s [resultFlight s e d (bitsOfBytes 2048
      ((s.tile s.core a.toNat).data.read (1024 * ((e.cap 0).toNat % 128) + 256 * q.toNat) 256)) (BitVec.allOnes 2048) false 0]).vecDone e))

namespace Sys2Proof.Claims

/-- The check of scratchpad offsets, each a multiple of 2^log2 and with n bytes in the window (R173, R193 to R195, R294): the first misaligned one
raises ALIGNMENT, one outside the window BOUNDS with subcode SPAD-RANGE; otherwise the check goes on with `rest`. -/
def offsetsRule (e : QEntry) (s : State) (offs : List Word) (log2 n sub : Nat) (rest c : Option TrapInfo) : Prop :=
  (∀ o, offs.find? (fun o => o.toNat % 2 ^ log2 != 0) = some o → c = some (alignTrap (whoOf e.w) sub o log2)) ∧
  ((∀ o ∈ offs, o.toNat % 2 ^ log2 = 0) → (∃ o ∈ offs, s.t.window < o.toNat + n) → c = some (boundsPlain (whoOf e.w) 0x0A)) ∧
  ((∀ o ∈ offs, o.toNat % 2 ^ log2 = 0 ∧ o.toNat + n ≤ s.t.window) → c = rest)

/-- POISON of the first poisoned register that the word of an entry reads (R173). -/
def poisonRule (e : QEntry) (s : State) (sub : Nat) : Option TrapInfo :=
  (s.firstPoisoned e).map fun r => mkTrap .poison (whoOf e.w) sub (r.2 + (if r.1 then 32 else 0)) 0 0

/-- A result that is to be pushed to a binding in force, or to one still to come in program order, must not be poisoned (R140, R141, R164, R173). -/
def pushRule (e : QEntry) (s : State) : Option TrapInfo :=
  let theirs := fun (p : Port) (no : Nat) => (p.bound && p.no == no) || decide (p.no < no)
  if (vdsts e.w).any fun d => (match e.dstOf d with | .port q no => theirs (s.port q.toNat) no | _ => false) then poisonRule e s 0x11 else none

/-- The traps of the vector words, as their entries give them (R173, R181, R193 to R195, R197, R198). -/
def vectorChecks (e : QEntry) (s : State) : Prop :=
  let c := s.vecCheck e
  let rows := fun (r : BitVec 2) => (List.range (256 / 2 ^ (3 + r.toNat))).map fun j => e.cap 0 + BitVec.ofNat 64 j * e.cap 1
  let elems := fun (b : BitVec 5) (m : BitVec 3) (w : BitVec 2) =>
    ((List.range (if w = 3 then 32 else 64)).filter fun i => (s.mread m).bits.getLsbD (2 ^ w.toNat * i)).map fun i =>
      e.cap 0 + BitVec.ofNat 64 (elemAt (s.vread e b).bits 32 i)
  let offset := fun (b : BitVec 5) (rest : Option TrapInfo) =>
    if (s.vread e b).poison then some (mkTrap .poison (whoOf e.w) 0x12 b.toNat 0 0) else rest
  match e.w with
  | .vld _ _ _ k => offsetsRule e s [e.vldOff k] 6 256 1 (pushRule e s) c
  | .vst _ _ _ k => offsetsRule e s [e.vldOff k] 6 256 1 (poisonRule e s 0x11) c
  | .vlds _ _ _ _ r => offsetsRule e s (rows r) (3 + r.toNat) (2 ^ (3 + r.toNat)) 1 (pushRule e s) c
  | .vsts _ _ _ _ r => offsetsRule e s (rows r) (3 + r.toNat) (2 ^ (3 + r.toNat)) 1 (poisonRule e s 0x11) c
  | .vgth _ _ _ b m w => offsetsRule e s (elems b m w) w.toNat (2 ^ w.toNat) 1 (offset b (pushRule e s)) c
  | .vsct _ _ _ b m w => offsetsRule e s (elems b m w) w.toNat (2 ^ w.toNat) 1 (offset b (poisonRule e s 0x11)) c
  | .vmld _ _ _ => offsetsRule e s [e.cap 0] 5 32 1 none c
  | .vmst _ _ _ => offsetsRule e s [e.cap 0] 5 32 1 (poisonRule e s 0x11) c
  | .vtld _ _ _ _ =>
    let b := e.cap 1
    let bad := 2 ^ 13 ≤ b.toNat ∨ 8 < (b.extractLsb' 8 4).toNat ∨ (b.getLsbD 12 = true ∧ 7 < (b.extractLsb' 8 4).toNat)
    offsetsRule e s [e.cap 0] 8 2048 2 (if bad then some (boundsPlain (whoOf e.w) 6) else none) c
  | .vacr _ _ a _ _ => c = if s.t.ownsAcc a.toNat then pushRule e s else some (mkTrap .slotOwner (whoOf e.w) 3 (a.toNat + 256 * 0x3FF) 0 0)
  | .vchk _ _ _ => c = poisonRule e s 0x10
  | _ => c = pushRule e s

end Sys2Proof.Claims

/-- R165 to R169, R173, R181, R193 to R195, R197, R198: the vector engine. A frozen engine does nothing; a step still occupied only lands what is due; otherwise the next
group's words, dispatched whole, take their turns after what is due has landed, unless a word of it fails its checks, each made after the pops of
the words before it; the first that fails freezes the engine with its trap pending. The order of a word's own checks is the model's (log entry
106, DESIGN CHOICE). A word that has issued leaves the queue, and with the last of its group the step ends. A result lands under
its mask, with its poison, and commits its flags unless it or its second register is poisoned. With nothing to issue the engine stays at its
step. The model's own readings: a trap
between two words closes their step (log entry 33, DEDUCED); `VTKS` awaits room in its FIFO (log entry 38, DEDUCED); a drain occupies a step
(log entry 39, DESIGN CHOICE); a push in flight stays in flight meanwhile (log entry 101, DEDUCED). -/
def Obligations.TheVectorEngineSteps : Prop :=
  (∀ s : State, s.t.v.halted = true → exec .vectorStep s = .next s) ∧
  (∀ s : State, s.t.st = .running → s.t.v.halted = false → s.pushBlocked s.dueFlights = false → 0 < s.t.v.occ → s.tokenBlocked [] = false →
    exec .vectorStep s = .next { s.landDue with t := { s.landDue.t with
      v := { s.landDue.t.v with step := s.landDue.t.v.step + 1, occ := s.landDue.t.v.occ - 1 } } }) ∧
  (∀ (s : State) (w : QEntry) (ws : List QEntry), s.t.st = .running → s.t.v.halted = false → s.pushBlocked s.dueFlights = false →
    s.t.v.occ = 0 → s.nextStep = some (w :: ws) → s.vecHeld = false → s.popBlocked (w :: ws) = false → s.tokenBlocked (w :: ws) = false →
    match s.landDue.stepCheck (w :: ws) 0 with
    | some x => ∃ t, exec .vectorStep s = .next t ∧ t.t.v.halted = true ∧ ∃ p, t.t.x.pending.Perm (s.t.x.pending ++ [p]) ∧
        p.info = x.2.2 ∧ p.halting = true ∧ p.clk = (s.dieOf s.die).count
    | none => ∃ t, exec .vectorStep s = .next t ∧ t.agenda = (w :: ws).map (fun _ => Act.turn .vector) ++ s.agenda ∧ t.mem = s.mem ∧
        t.t.v.v = s.landDue.t.v.v ∧ t.t.v.step = s.t.v.step) ∧
  (∀ (e : QEntry) (s : State), vectorChecks e s) ∧
  (∀ (e : QEntry) (s : State), s.firstPoisoned e = none ↔ (∀ n ∈ vsrcs e.w, (s.vread e n).poison = false) ∧
    (∀ m ∈ msrcs e.w, (s.mread m).poison = false) ∧
    ∀ S d t r x y, e.w = .vtcr S d t r x y → ∀ k < 64, (s.rowOf t k).poison = false) ∧
  (∀ (s : State) (e : QEntry) (es : List QEntry) (k : Nat), s.stepCheck [] k = none ∧
    (∀ i, s.vecCheck e = some i → s.stepCheck (e :: es) k = some (e, k, i)) ∧
    (s.vecCheck e = none → s.stepCheck (e :: es) k = (s.popPorts e).stepCheck es (k + 1)) ∧
    (e.pops = [] → s.popPorts e = s)) ∧
  (∀ (s : State) (e : QEntry) (q : List QEntry), s.t.v.q = e :: q → e.pops = [] →
    s.vecDone e = { s with t := { s.t with v := { s.t.v with
      q := q, step := if q.head?.any (fun x => x.gseq == e.gseq && !x.isDrain) then s.t.v.step else s.t.v.step + 1 } } }) ∧
  (∀ s : State, s.t.v.occ = 0 → s.t.v.q = [] → exec .vectorStep s = .next s) ∧
  (∀ (s : State) (f : Flight) (n : BitVec 5), f.dst = .v n →
    let old := vget s.t.v.v n.toNat VReg.zero
    let p := f.poison || (f.keep && old.poison)
    let drops := p || (match f.also with | some m => (vget s.t.v.v m.toNat VReg.zero).poison | none => false)
    s.landOne f = { s with t := { s.t with
      v := { s.t.v with v := vset s.t.v.v n.toNat { bits := (old.bits &&& ~~~f.mask) ||| (f.val &&& f.mask), poison := p } },
      x := { s.t.x with flags := if drops then s.t.x.flags else s.t.x.flags ||| f.flags } } })

namespace Sys2Proof.Claims

/-- Entry e stands at the head of the matrix queue at the matrix engine's turn, not halted, with the grant of the matrix-issue weir (R202). -/
abbrev atMatrix (e : QEntry) (s : State) : Prop :=
  s.turn = .matrix ∧ s.t.mq.head? = some e ∧ s.t.mhalted = false ∧ s.t.part ∈ s.grants

/-- The word i takes its whole effect, which makes s into s1; its grant is spent and it leaves the queue (R202, R203). -/
def serves (i : Instr) (s s1 : State) : Prop :=
  exec i s = .next { s1 with grants := s1.grants.erase s1.t.part, t := { s1.t with mq := s1.t.mq.drop 1, eligAt := none } }

/-- The word i of entry e raises a matrix trap, which leaves s1: its grant is spent, the queue halts with the word at its head, and the trap becomes
pending with its program counter and opcode for `MQCMD` (R228), in its place among those that pend (R296). -/
def matrixTrapsAs (i : Instr) (e : QEntry) (s s1 : State) (x : TrapInfo) : Prop :=
  let p : PTrap :=
    { eng := 3, info := x, cmd := csrFields [(32, e.pc.toNat % 2 ^ 32), (0, (whoOf e.w).op)], pos := 0, halting := true,
      clk := (s.dieOf s.die).count }
  ∃ pend, pend.Perm (s.t.x.pending ++ [p]) ∧ exec i s = .next { s1 with
    grants := s.grants.erase s.t.part,
    t := { s.t with mhalted := true, x := { s.t.x with pending := pend } } }

/-- The same of a word that changes nothing else. -/
def matrixTraps (i : Instr) (e : QEntry) (s : State) (x : TrapInfo) : Prop := matrixTrapsAs i e s s x

/-- The word i names tile a, and has a span of n bytes in the window (R218 to R221). -/
def spanWord (i : Instr) (a : BitVec 4) (n : Option Nat) : Prop :=
  match i with
  | .mzero _ b => b = a ∧ n = none
  | .mlda _ b _ => b = a ∧ n = some 131072
  | .mscal _ b _ c => b = a ∧ n = some (if c then 1024 else 512)
  | .mdrn _ b _ t _ _ x _ => b = a ∧ n = some (4096 * fmtWidth (fmtOf t) + if x then 1024 else 0)
  | _ => False

/-- An F32 pattern is a NaN. -/
def isNan (x : Nat) : Bool := fval .f32 x == .nan

/-- An F32 pattern is infinite. -/
def isInf (x : Nat) : Bool := match fval .f32 x with | .inf _ => true | _ => false

/-- The task under execution holds tile a of its core (R205). -/
abbrev holds (s : State) (a : BitVec 4) : Prop := s.t.ownsAcc a.toNat = true

/-- Slot n of the core is the task's and not FAULTED (R137). -/
abbrev usable (s : State) (n : BitVec 7) : Prop :=
  (s.slot s.core n.toNat).ownedBy s.t = true ∧ (s.slot s.core n.toNat).st ≠ .faulted

/-- Tile a with its lost rows replaced (R217). -/
def tileOf (s : State) (a : BitVec 4) : Tile := (s.tile s.core a.toNat).heal

/-- The version that the entry's prefix expects is the tile's, or it expects none (R209). -/
abbrev versionMet (s : State) (a : BitVec 4) (e : QEntry) : Prop := ∀ v, mmaVersion e.pfx = some v → (s.tile s.core a.toNat).ver = v

/-- Arrangement, format and MX of the two slots are those that the MMA asks for (R211). -/
abbrev matched (o : MmaOp) (bt : Bool) (x y : Slot) : Prop :=
  x.arr = .a ∧ y.arr = (if bt then .bt else .b) ∧ x.fmt = o.ta ∧ y.fmt = o.tb ∧ x.mx = o.mx ∧ y.mx = o.mx

/-- The offset is a multiple of 64 and the span of n bytes lies in the window (R219). -/
abbrev spanOk (s : State) (off : Word) (n : Nat) : Prop := off.toNat % 64 = 0 ∧ off.toNat + n ≤ s.t.window

/-- One row of R212, R214 and R215 for an element: the groups in ascending order, each an exact sum, added with one rounding for a float
format and wrapped for integers; the number of wraps. -/
def multiplied (o : MmaOp) (x y : Slot) (old m n : Nat) : Nat × Nat :=
  let start := if o.ow then 0 else old
  (List.range (o.k / o.g)).foldl (fun (r : Nat × Nat) g =>
    if fmtIsInt o.ta then
      let t := intVal .i32 r.1 + groupInt o x y m n g
      (intEnc .i32 t, if t < -2 ^ 31 ∨ 2 ^ 31 ≤ t then r.2 + 1 else r.2)
    else (((exOf .f32 r.1).add (groupSum o x y m n g)).round .f32 .rne 0 0 |>.1, r.2)) (start, 0)

end Sys2Proof.Claims

/-- R205, R209, R211, R212, R214 to R217, R228: MMA and MMAT at their turn. A tile the task does not hold and a slot that is not its own or is
FAULTED trap; a slot not yet FULL and a version not yet reached make the word wait; a slot of another arrangement or format traps; otherwise
every element of the tile becomes the sum over the groups, the version counts one and the tile's counters what the word did. A slot in which
an uncorrectable error is found becomes FAULTED and is reported, the first of two (log entry 109, DESIGN CHOICE). The model's own readings: ECC errors are marks (log
entry 65, DEDUCED); ROLE-LAYOUT names no handle (log entry 63, DEDUCED). -/
def Obligations.MatrixWordsMultiplyTwoSlots : Prop :=
  ∀ (S bt : Bool) (a : BitVec 4) (x y : BitVec 7) (f : BitVec 3) (e : QEntry) (s : State),
    let i : Instr := if bt then .mmat S a x y f else .mma S a x y f
    let o := mmaOp f e.pfx
    let sa := s.slot s.core x.toNat
    let sb := s.slot s.core y.toNat
    let old := tileOf s a
    let new := old.mma o sa sb
    atMatrix e s → e.w = i →
    (¬ holds s a → matrixTraps i e s (accTrap (whoOf i) a)) ∧
    (holds s a → ∀ b, s.slotBad (whoOf i) [x, y] = some b → matrixTraps i e s b) ∧
    (holds s a → usable s x → usable s y →
      ((sa.readable = false ∨ sb.readable = false ∨ ¬ versionMet s a e) → exec i s = .next s) ∧
      (sa.readable = true → sb.readable = true → versionMet s a e →
        (¬ matched o bt sa sb → matrixTraps i e s (boundsPlain (whoOf i) 8)) ∧
        (matched o bt sa sb → sa.bad = false → sb.bad = false → serves i s (s.putTile a new) ∧
          new.ver = old.ver + 1 ∧ new.kind = fmtIsInt o.ta ∧
          (∀ m n, m < 128 → n < 256 → new.elem m n = (multiplied o sa sb (old.elem m n) m n).1 % 2 ^ 32) ∧
          let cells := (List.range 32768).map fun k => (k / 256, k % 256)
          let was := fun (p : Nat × Nat) => if o.ow then 0 else old.elem p.1 p.2
          let is := fun (p : Nat × Nat) => multiplied o sa sb (old.elem p.1 p.2) p.1 p.2
          new.mmas = old.mmas + 1 ∧ new.ecc = old.ecc ∧ new.wraps = old.wraps + BitVec.ofNat 64 (cells.map fun p => (is p).2).sum ∧
          (fmtIsInt o.ta = true → new.nans = old.nans ∧ new.infs = old.infs) ∧
          (fmtIsInt o.ta = false →
            new.nans = old.nans + BitVec.ofNat 64 (cells.filter fun p => isNan (is p).1 && !isNan (was p)).length ∧
            new.infs = old.infs + BitVec.ofNat 64 (cells.filter fun p => isInf (is p).1 && !isInf (was p) && !isNan (was p)).length)) ∧
        (matched o bt sa sb → sa.bad = true →
          let s1 := s.setSlot s.core x.toNat { sa with st := .faulted, fcause := 0x0C, fsub := 2 }
          matrixTrapsAs i e s s1 (s1.slotTrap .slotFaulted (whoOf i) 2 x.toNat)) ∧
        (matched o bt sa sb → sa.bad = false → sb.bad = true →
          let s1 := s.setSlot s.core y.toNat { sb with st := .faulted, fcause := 0x0C, fsub := 2 }
          matrixTrapsAs i e s s1 (s1.slotTrap .slotFaulted (whoOf i) 2 y.toNat))))

/-- R137, R205, R206, R218 to R226: MREL gives up a slot of the task's, which becomes EMPTY or leaves the task; MWAIT completes once the
tile's version has reached its number; MTKS adds a token that its FIFO has room for; MTKW takes one; each waits, changing nothing, until
then. The words that clear, load, scale and drain a tile act on the task's own tile, with an aligned span in the window or an EMPTY slot of
the task's: what the tile, the scratchpad and the slot hold then, an MX slot with its scales from byte 32,768 on. MDRN and MDRS leave the
tile as it is. A word whose tile the task does not hold raises SLOT-OWNER, ACC-NOT-HELD; a misaligned span ALIGNMENT, one outside the window
BOUNDS, SPAD-RANGE; `MDRS` on a slot of another SLOT-OWNER, on a FAULTED one SLOT-FAULTED. The model's own readings: the tile is checked before
the span and the slot (log entry 106, DESIGN CHOICE); ECC errors are marks (log entry 65, DEDUCED); what a slot faulted by one reports (log
entry 60, DEDUCED). -/
def Obligations.MatrixWordsMoveTilesReleaseAndWait : Prop :=
  (∀ (S kp : Bool) (a : BitVec 4) (z : BitVec 7) (v : BitVec 16) (k : BitVec 3) (e : QEntry) (s : State), atMatrix e s →
     let x := s.slot s.core z.toNat
     (e.w = .mrel S z kp → x.ownedBy s.t = false → matrixTraps (.mrel S z kp) e s (s.slotTrap .slotOwner (whoOf (.mrel S z kp)) 1 z.toNat)) ∧
     (e.w = .mrel S z kp → x.ownedBy s.t = true → (x.st = .filling ∨ x.st = .draining) → exec (.mrel S z kp) s = .next s) ∧
     (e.w = .mrel S z kp → x.ownedBy s.t = true → x.st ≠ .filling → x.st ≠ .draining →
       serves (.mrel S z kp) s (s.setSlot s.core z.toNat (if kp then { x with st := .empty } else Slot.reset)).settle) ∧
     (e.w = .mwait S a v → ¬ holds s a → matrixTraps (.mwait S a v) e s (accTrap (whoOf (.mwait S a v)) a)) ∧
     (e.w = .mwait S a v → holds s a → 0 ≤ ((s.tile s.core a.toNat).ver - v).toInt → serves (.mwait S a v) s s) ∧
     (e.w = .mwait S a v → holds s a → ((s.tile s.core a.toNat).ver - v).toInt < 0 → exec (.mwait S a v) s = .next s) ∧
     (let popped := if s.t.popClk = (s.dieOf s.die).count then vget s.t.pops k.toNat 0 else 0
      (e.w = .mtks S k → s.tokens k + popped < 16 → serves (.mtks S k) s (s.setTokens k (s.tokens k + 1))) ∧
      (e.w = .mtks S k → 16 ≤ s.tokens k + popped → exec (.mtks S k) s = .next s)) ∧
     (e.w = .mtkw S k → 0 < s.tokens k → serves (.mtkw S k) s (tokenTaken s k)) ∧
     (e.w = .mtkw S k → s.tokens k = 0 → exec (.mtkw S k) s = .next s)) ∧
  (∀ (S c y x p l : Bool) (a o : BitVec 4) (z : BitVec 7) (r : BitVec 5) (q : BitVec 3) (e : QEntry) (s : State), atMatrix e s → holds s a →
     let t := tileOf s a
     let off := (e.cap 0).toNat
     let dst := fmtOf o
     let w := fmtWidth dst
     (e.w = .mzero S a → serves (.mzero S a) s (s.putTile a { t with data := [], ver := t.ver + 1 })) ∧
     (e.w = .mlda S a r → spanOk s (e.cap 0) 131072 → ∃ new : Tile, serves (.mlda S a r) s (s.putTile a new) ∧
       new = { t with data := new.data, ver := t.ver + 1 } ∧
       ∀ m n, m < 128 → n < 256 → new.elem m n = leNat (s.spad (off + 1024 * m + 4 * n) 4)) ∧
     (e.w = .mscal S a r c → spanOk s (e.cap 0) (if c then 1024 else 512) → ∃ new : Tile, serves (.mscal S a r c) s (s.putTile a new) ∧
       new = { t with data := new.data, kind := false, ver := t.ver + 1 } ∧
       ∀ m n, m < 128 → n < 256 → new.elem m n = scaleElem t.fmt (t.elem m n) (leNat (s.spad (off + 4 * (if c then n else m)) 4)) % 2 ^ 32) ∧
     (e.w = .mdrn S a r o q y false p → spanOk s (e.cap 0) (4096 * w) →
       let rs := (drainOrder p).map fun k => t.drain e dst (rndOf q) y k.1 k.2
       serves (.mdrn S a r o q y false p) s (((s.putTile a t).setSpad off (leBytes (4096 * w) (packElems w (rs.map (·.1))))).commitFlags
         (orFlags rs))) ∧
     (e.w = .mdrn S a r o q y true p → spanOk s (e.cap 0) (4096 * w + 1024) →
       let d := t.drainMx e dst (rndOf q) y ((drainOrder p).map some)
       serves (.mdrn S a r o q y true p) s ((((s.putTile a t).setSpad off (leBytes (4096 * w) (packElems w d.2.1))).setSpad (off + 4096 * w)
         (d.1.map (BitVec.ofNat 8))).commitFlags d.2.2)) ∧
     (e.w = .mdrs S a z o q y x l → usable s z → (s.slot s.core z.toNat).st = .empty → ∃ (new : Slot) (fl : Fl),
       serves (.mdrs S a z o q y x l) s (((s.putTile a t).setSlot s.core z.toNat new).commitFlags fl) ∧
       new = { s.slot s.core z.toNat with st := .full, arr := mdrsArr x l, fmt := dst, mx := x, bad := false, data := new.data } ∧
       (x = false →
         let rs := (mdrsOrder x l (slotK w)).map fun k => match k with
           | some k => t.drain e dst (rndOf q) y k.1 k.2 | none => (0, 0)
         fl = orFlags rs ∧ new.data.read 0 32768 = leBytes 32768 (packElems w (rs.map (·.1)))) ∧
       (x = true →
         let d := t.drainMx e dst (rndOf q) y (mdrsOrder x l (slotK w))
         fl = d.2.2 ∧ new.data.read 0 32768 = leBytes 32768 (packElems w d.2.1) ∧
           new.data.read 32768 d.1.length = d.1.map (BitVec.ofNat 8))) ∧
     (e.w = .mdrs S a z o q y x l → usable s z → (s.slot s.core z.toNat).st ≠ .empty → exec (.mdrs S a z o q y x l) s = .next s)) ∧
  (∀ (i : Instr) (a : BitVec 4) (n : Option Nat) (e : QEntry) (s : State), atMatrix e s → e.w = i → spanWord i a n →
    (¬ holds s a → matrixTraps i e s (accTrap (whoOf i) a)) ∧
    ∀ k, n = some k → holds s a →
      ((e.cap 0).toNat % 64 ≠ 0 → matrixTraps i e s (alignTrap (whoOf i) 1 (e.cap 0) 6)) ∧
      ((e.cap 0).toNat % 64 = 0 → s.t.window < (e.cap 0).toNat + k → matrixTraps i e s (boundsPlain (whoOf i) 0x0A))) ∧
  (∀ (S y x l : Bool) (a o : BitVec 4) (z : BitVec 7) (q : BitVec 3) (e : QEntry) (s : State), atMatrix e s → e.w = .mdrs S a z o q y x l →
    let i := Instr.mdrs S a z o q y x l
    let sl := s.slot s.core z.toNat
    (¬ holds s a → matrixTraps i e s (accTrap (whoOf i) a)) ∧
    (holds s a → sl.ownedBy s.t = false → matrixTraps i e s (s.slotTrap .slotOwner (whoOf i) 1 z.toNat)) ∧
    (holds s a → sl.ownedBy s.t = true → sl.st = .faulted → matrixTraps i e s (s.slotTrap .slotFaulted (whoOf i) 1 z.toNat))) ∧
  (∀ (s : State) (w : Who) (a : BitVec 4) (sub n : Nat), n < 128 → sub < 256 → w.eng < 256 → w.op < 256 →
    let info := fun (i : TrapInfo) => i.x0.toNat = w.eng * 2 ^ 16 + w.op * 2 ^ 8 + (i.x0.toNat % 256)
    (let i := accTrap w a
     info i ∧ i.cause = .slotOwner ∧ i.x0.toNat % 256 = 3 ∧ i.x1.toNat = 0x3FF * 256 + a.toNat ∧ i.x2 = 0 ∧ i.x3 = 0) ∧
    (let i := s.slotTrap .slotFaulted w sub n
     let sl := s.slot s.core n
     info i ∧ i.cause = .slotFaulted ∧ i.x0.toNat % 256 = sub ∧ i.x1.toNat % 256 = n ∧ (sl.st = .free → i.x1.toNat / 256 = 0x3FF) ∧
       i.x2.toNat = sl.fcause.toNat * 256 + sl.fsub.toNat ∧ i.x3 = 0))

namespace Sys2Proof.Claims

/-- Entry e stands at the head of the fetch queue at the fetch engine's turn (R105). -/
abbrev atFetch (e : QEntry) (s : State) : Prop := s.turn = .fetch ∧ s.t.f.q.head? = some e

/-- The head of the fetch queue has left it with its number in queue order, and no release is pending (R105, R120). -/
def popped (s : State) : State := { s with t := { s.t with f := { s.t.f with q := s.t.f.q.drop 1, frel := none, seq := s.t.f.seq + 1 } } }

/-- View w of the task under execution. -/
def viewAt (s : State) (w : BitVec 4) : View := vget s.t.f.w w.toNat View.zero

/-- At its turn the word i sets view w to g of what it was, and leaves the queue (R109). -/
def setsView (i : Instr) (w : BitVec 4) (g : QEntry → View → View) : Prop :=
  ∀ (e : QEntry) (s : State), atFetch e s → e.w = i →
    let p := popped s
    exec i s = .next { p with t := { p.t with f := { p.t.f with w := vset s.t.f.w w.toNat (g e (viewAt s w)) } } }

/-- A command that begins: its entry, its number, copies of its views, when it begins (R105). -/
def commandOf (s : State) (e : QEntry) (rel : Option Word) : FCmd :=
  let at_ := fun k => match (fetViews e.w)[k]? with | some w => viewAt s w | none => View.zero
  { seq := s.t.f.seq, e := e, v := at_ 0, v2 := at_ 1, oid := 0, oid2 := 0, rel := rel, beg := s.fresh, begun := false, ok := false, pos := 0,
    outst := [], ended := false, halted := false, mason := none, fail := none, err := false, esub := 0, list := [], badRows := [], buf := [],
    chunk := none, quit := none }

/-- A command from entry e that has its slot: it has begun (R106, R137). -/
def holding (s : State) (e : QEntry) : FCmd := { commandOf s e none with begun := true, beg := s.fresh + 1 }

/-- The word of entry e has left the queue and is the command in its issue phase (R105). -/
def issuing (s : State) (e : QEntry) : State :=
  let p := popped s
  { p with fresh := s.fresh + 1, t := { p.t with f := { p.t.f with act := some (commandOf s e none) } } }

/-- s with a command begun from entry e, before its checks. -/
def begun (s : State) (e : QEntry) : State := State.putCmd (issuing s e) (commandOf s e none)

/-- s with slot n of the core taken by the command (R111, R113, R137): FILLING and empty of data, or DRAINING for FSTS. -/
def slotTaken (s : State) (e : QEntry) (n : BitVec 7) (drain : Bool) : State :=
  let b := issuing s e
  let x := s.slot s.core n.toNat
  State.putCmd (State.setSlot { b with fresh := s.fresh + 2 } s.core n.toNat
    (if drain then { x with st := .draining } else { x with st := .filling, data := [], bad := false })) (holding s e)

/-- The binding of port q ended, if it is bound: read-ahead is discarded and the lines reserved for it are given up, accepted pushes stay until
they are written, and what a late push of an outbound binding will report is kept (R88, R118, R142). -/
def freed (s : State) (q : BitVec 2) : State :=
  let p := s.port q.toNat
  let u := s.unpendRuns p.oid p.runs
  if p.bound then { u with t := { u.t with f := { u.t.f with
    ports := vset u.t.f.ports q.toNat { p with
      bound := false, fifo := if p.out && !p.dead then p.fifo else [], dead := false, halted := false, mason := none, fail := none,
      asked := if p.out then p.asked else none, res := p.out && p.res, runs := [] }
    past := if p.out then u.t.f.past ++ [p.past] else u.t.f.past } } }
  else s

/-- An outbound port of the task still has accepted elements, or lines of them, to write (R118). -/
def portDrains (s : State) (q : BitVec 2) : Bool := (s.port q.toNat).out && !((s.port q.toNat).fifo.isEmpty && (s.port q.toNat).buf.isEmpty)

/-- BOUNDS with a subcode for the object as a whole (R57). -/
def boundsOf (acc : Machine.Acc) (w : Who) (sub : Nat) : TrapInfo := boundsTrap w sub acc.h acc.oid.toNat 0 0 0

/-- The index of the element at the low end of dimension j's coordinates, and of the one at the high end (R104). -/
def viewEnds (v : View) (j : Nat) : Int × Int :=
  let b : Int := (vget v.base j 0).toNat
  let k : Int := (vget v.extm j 0).toNat
  (b, b + k * (vget v.step j 0).toInt)

/-- What R104 says of dimension j of a view: the trap of the first of RANK, EXTENT and BOX that fails, with the first and last index. -/
def dimFails (acc : Machine.Acc) (v : View) (need : BitVec 6) (w : Who) (j : Nat) : Option TrapInfo :=
  let lo := min (viewEnds v j).1 (viewEnds v j).2
  let hi := max (viewEnds v j).1 (viewEnds v j).2
  let t := fun (sub : Nat) (f l : Int) => some (boundsTrap w sub acc.h acc.oid.toNat j (f % 2 ^ 32).toNat (l % 2 ^ 32).toNat)
  if v.scale = true ∧ j = 0 then
    let l := min (32 * hi + 31) ((acc.o.extent 0 : Int) - 1)
    if lo < 0 ∨ ((acc.o.extent 0 + 31) / 32 : Nat) ≤ hi then t 2 (32 * lo) l
    else if need = rWRITE ∧ (32 * lo < acc.e.lo 0 ∨ min (acc.e.hi 0) (acc.o.extent 0 - 1) < l) then t 3 (32 * lo) l
    else if need ≠ rWRITE ∧ (32 * lo + 31 < acc.e.lo 0 ∨ min (acc.e.hi 0) (acc.o.extent 0 - 1) < 32 * hi) then t 3 (32 * lo) l
    else none
  else if acc.o.rank.toNat ≤ j ∧ hi ≠ 0 then t 1 lo hi
  else if lo < 0 ∨ acc.o.extent j ≤ hi then t 2 lo hi
  else if lo < acc.e.lo j ∨ acc.e.hi j < hi then t 3 lo hi
  else none

/-- R104: the checks of a view in their order, the first that fails giving its trap; the bounds and the residency only of a word that does not
check its elements one by one (R112, R115). -/
def viewRule (s : State) (v : View) (need : BitVec 6) (w : Who) (all : Bool) : Chk Machine.Acc :=
  if v.hx = true then .trap (mkTrap .handleInvalid w 1 v.handle.toNat 0 0)
  else match s.dataChecked s.t.ctx (v.handle.setWidth 64) need w with
    | .trap i => .trap i
    | .stall => .stall
    | .ok acc =>
      if v.bad = true then .trap (boundsOf acc w 7)
      else if v.scale = true ∧ acc.o.layout ≠ 3 then .trap (boundsOf acc w 8)
      else match (if all = true then [0, 1, 2, 3].findSome? (dimFails acc v need w) else none) with
        | some i => .trap i
        | none =>
          if all = true ∧ acc.o.res = 3 then .trap (mkTrap .missingObject w 1 acc.h acc.oid.toNat
            ((v.place acc.o fun j => (min (viewEnds v j).1 (viewEnds v j).2).toNat).2 / 8 / 65536))
          else .ok acc

/-- K of an element width (R111). -/
def kOf (e : Nat) : Nat := if e = 16 then 64 else if e = 8 ∨ e = 6 then 128 else if e = 4 then 256 else 0

/-- A view's extents fit the tile of an arrangement (R111): 128 × K, K × 256, or 256 × K. -/
def fitsTile (v : View) (e : Nat) (r : Arr) : Prop :=
  let ext := fun j => (vget v.extm j 0).toNat + 1
  let tile := match r with | .a => (128, kOf e) | .b => (kOf e, 256) | .bt => (256, kOf e)
  ext 1 ≤ tile.1 ∧ ext 0 ≤ tile.2 ∧ ext 2 = 1 ∧ ext 3 = 1

/-- R111: steps 4 and 5 of the checks of FILL in role r. -/
def fillRule (acc : Machine.Acc) (v : View) (w : Who) (r : Arr) (c : Option TrapInfo) : Prop :=
  let e := v.width acc.o
  let mx := acc.o.layout = 3
  let odd := (vget v.step 0 0).toInt ≠ 1 ∨ (vget v.base 0 0).toNat % 32 ≠ 0
  (e ≠ 32 → ¬ fitsTile v e r → c = some (boundsOf acc w 7)) ∧
  (e = 32 ∨ fitsTile v e r →
    (e = 32 ∨ v.scale = true ∨ (mx ∧ r = .b) ∨ (mx ∧ odd) → c = some (boundsOf acc w 8)) ∧
    (¬ (e = 32 ∨ v.scale = true ∨ (mx ∧ r = .b) ∨ (mx ∧ odd)) → c = none))

/-- R112: the checks of FILLC beyond those of the handle, where f gives the fields of the view's shape state. -/
def fillcRule (acc : Machine.Acc) (v : View) (w : Who) (c : Option TrapInfo) : Prop :=
  let e := v.width acc.o
  let f := fun lo n => (v.shape.extractLsb' lo n).toNat
  let shape := acc.o.rank = 4 ∧ acc.o.extent 0 = f 96 32 ∧ acc.o.extent 1 = f 64 32 ∧ acc.o.extent 2 = f 32 32 ∧ acc.o.extent 3 = f 0 32 ∧
    v.shaped = true ∧ (e = 32 ∨ fitsTile v e .a)
  let role := v.scale = true ∨ (acc.o.layout = 3 ∧ (f 96 32 % 32 ≠ 0 ∨ (vget v.base 0 0).toNat % 32 ≠ 0))
  (¬ shape → c = some (boundsOf acc w 7)) ∧ (shape → e = 32 → c = some (boundsOf acc w 8)) ∧
  (shape → e ≠ 32 → 2 ^ e ≤ f 288 32 → c = some (boundsOf acc w 6)) ∧
  (shape → e ≠ 32 → f 288 32 < 2 ^ e → (role → c = some (boundsOf acc w 8)) ∧ (¬ role → c = none))

/-- R113: the checks of FSTS beyond those of R104, on a slot x. -/
def fstsRule (acc : Machine.Acc) (v : View) (w : Who) (x : Slot) (c : Option TrapInfo) : Prop :=
  let e := v.width acc.o
  let ext0 := (vget v.extm 0 0).toNat + 1
  let b0 := (vget v.base 0 0).toNat
  let mx := v.scale = false ∧ acc.o.layout = 3
  let bad := v.fmt acc.o ≠ fmtCode x.fmt ∨ ¬ (mx ↔ x.mx = true) ∨
    (mx ∧ ((vget v.step 0 0).toInt ≠ 1 ∨ b0 % 32 ≠ 0 ∨ (ext0 % 32 ≠ 0 ∧ b0 + ext0 ≠ acc.o.extent 0)))
  (e ≠ 32 → ¬ fitsTile v e x.arr → c = some (boundsOf acc w 7)) ∧
  (e = 32 ∨ fitsTile v e x.arr → (bad → c = some (boundsOf acc w 8)) ∧ (¬ bad → c = none))

/-- R114: the checks of FLD and FST at scratchpad offset p with pitch b, for elements of e bits. -/
def padRule (s : State) (w : Who) (v : View) (e : Nat) (p b : Word) (c : Option TrapInfo) : Prop :=
  let ext := fun j => (vget v.extm j 0).toNat + 1
  let row := (ext 0 * e + 7) / 8
  let pitch := if b = 0 then row else b.toNat
  let out := 2 ^ 32 ≤ b.toNat ∨ s.t.window < p.toNat + (ext 1 * ext 2 * ext 3 - 1) * pitch + row
  (p.toNat % 16 ≠ 0 → c = some (alignTrap w 1 p 4)) ∧
  (p.toNat % 16 = 0 → b.toNat % 16 ≠ 0 → c = some (alignTrap w 1 b 4)) ∧
  (p.toNat % 16 = 0 → b.toNat % 16 = 0 → (out → c = some (boundsPlain w 0x0A)) ∧ (¬ out → c = none))

/-- R115: the checks of FGTH of n rows at offset p by the list at offset b. -/
def gatherRule (s : State) (w : Who) (acc : Machine.Acc) (v : View) (p b : Word) (n : Nat) (c : Option TrapInfo) : Prop :=
  let ext := fun j => (vget v.extm j 0).toNat + 1
  let row := (ext 0 * v.width acc.o + 7) / 8
  let out := s.t.window < b.toNat + 8 * n ∨ s.t.window < p.toNat + (n - 1) * ((row + 63) / 64 * 64) + row
  let entry := fun r => (bitsOfBytes 64 (s.spad (b.toNat + 8 * r) 8) : Word)
  (p.toNat % 64 ≠ 0 → c = some (alignTrap w 1 p 6)) ∧
  (p.toNat % 64 = 0 → b.toNat % 8 ≠ 0 → c = some (alignTrap w 2 b 3)) ∧
  (p.toNat % 64 = 0 → b.toNat % 8 = 0 → (out → c = some (boundsPlain w 0x0A)) ∧
    (¬ out → ext 1 ≠ 1 ∨ ext 2 ≠ 1 ∨ ext 3 ≠ 1 → c = some (boundsOf acc w 7)) ∧
    (¬ out → ext 1 = 1 → ext 2 = 1 → ext 3 = 1 →
      ((∃ r < n, (entry r).extractLsb' 32 31 ≠ 0) → c = some (boundsPlain w 6)) ∧
      ((∀ r < n, (entry r).extractLsb' 32 31 = 0) → c = none)))

/-- The command has passed its checks on an object: it may issue requests (R101). -/
def passed (s : State) (a : FCmd) (acc : Acc) : State := s.putCmd { a with ok := true, oid := acc.oid }

end Sys2Proof.Claims

/-- R109, R110: the words that set a view act when they execute; a value that the view cannot hold sets BAD and leaves the other fields. FSHAPE
halts at a record that is misaligned, outside the window or with reserved bits, and waits while an earlier activity has its bytes to write. -/
def Obligations.FetchWordsSetViews : Prop :=
  ∀ (S : Bool) (w : BitVec 4) (a b : BitVec 5) (f : BitVec 3) (j : BitVec 2) (p : Bool),
    setsView (.fview S w a f) w (fun e _ => { View.zero with
      handle := (e.cap 0).extractLsb' 0 24, hx := decide ((e.cap 0).toNat / 2 ^ 24 ≠ 0), defer := f.getLsbD 0, noalloc := f.getLsbD 1,
      scale := f.getLsbD 2, step := Vector.replicate 4 1 }) ∧
    setsView (.fdim S w a b j) w (fun e v =>
      if 1 ≤ (e.cap 0).toNat ∧ (e.cap 0).toNat ≤ 65536 ∧ -2 ^ 31 ≤ (e.cap 1).toInt ∧ (e.cap 1).toInt < 2 ^ 31 then
        { v with extm := vset v.extm j.toNat (BitVec.ofNat 16 ((e.cap 0).toNat - 1)), step := vset v.step j.toNat ((e.cap 1).extractLsb' 0 32) }
      else { v with bad := true }) ∧
    setsView (.fidx S w a b p) w (fun e v =>
      if (e.cap 0).toNat < 2 ^ 32 ∧ (e.cap 1).toNat < 2 ^ 32 then
        { v with base := vset (vset v.base (2 * p.toNat) ((e.cap 0).extractLsb' 0 32)) (2 * p.toNat + 1) ((e.cap 1).extractLsb' 0 32) }
      else { v with bad := true }) ∧
    setsView (.fadv S w a j) w (fun e v =>
      let x : Int := (vget v.base j.toNat 0).toNat + (e.cap 0).toInt * ((vget v.extm j.toNat 0).toNat + 1) * (vget v.step j.toNat 0).toInt
      if 0 ≤ x ∧ x < 2 ^ 32 then { v with base := vset v.base j.toNat (BitVec.ofInt 32 x) } else { v with bad := true }) ∧
    (∀ (e : QEntry) (s : State), atFetch e s → e.w = .fshape S w a →
      let off := (e.cap 0).toNat
      let r := bitsOfBytes 512 (s.spad off 64)
      let s1 := begun s e
      let stops := fun i => exec (.fshape S w a) s = .next (s1.haltCmd (commandOf s e none) i)
      (off % 64 ≠ 0 → stops (alignTrap (whoOf e.w) 2 (e.cap 0) 6)) ∧
      (off % 64 = 0 → s.t.window < off + 64 → stops (boundsPlain (whoOf e.w) 0x0A)) ∧
      (off % 64 = 0 → off + 64 ≤ s.t.window → s1.winBusy (commandOf s e none) off (off + 64) = true →
        exec (.fshape S w a) s = .next s1) ∧
      (off % 64 = 0 → off + 64 ≤ s.t.window → s1.winBusy (commandOf s e none) off (off + 64) = false → r.extractLsb' 320 192 ≠ 0 →
        stops (boundsPlain (whoOf e.w) 6)) ∧
      (off % 64 = 0 → off + 64 ≤ s.t.window → s1.winBusy (commandOf s e none) off (off + 64) = false → r.extractLsb' 320 192 = 0 →
        exec (.fshape S w a) s = .next (State.dropCmd { s1 with t := { s1.t with f := { s1.t.f with
          w := vset s.t.f.w w.toNat (if (shapeOf r).bad then { viewAt s w with bad := true } else { viewAt s w with shape := r, shaped := true }) } } }
          (commandOf s e none))))

/-- R101, R104, R105, R111 to R116, R119: a fetch word that begins takes its number, copies its views, takes its slot, and when its checks
pass on the objects of its views it may issue requests; the checks of a view come in the order of R104 and those of each word as its rule
gives them; a slot of another task and a FAULTED one halt the word, and one in another state makes it wait; FILL and FILLC leave the slot with the object's format and the role's arrangement.
The model's own readings: view checks before those of the scratchpad (log entry 48, DEDUCED); the order within FGTH (log entry 49, DEDUCED);
and within FCOPY (log entry 50, DEDUCED); the report of a PAD too wide (log entry 57, DEDUCED). -/
def Obligations.FetchWordsBeginTheirCommands : Prop :=
  ∀ (S : Bool) (w w2 : BitVec 4) (n : BitVec 7) (r : BitVec 2) (x y : BitVec 5) (rows : BitVec 6) (e : QEntry) (s : State) (acc acc2 : Acc),
    atFetch e s → s.t.f.frel = none →
    let a := commandOf s e none
    let b := begun s e
    let f := slotTaken s e n false
    let z := s.slot s.core n.toNat
    let h := holding s e
    let d := slotTaken s e n true
    let wd := a.v.width acc.o
    let who := whoOf e.w
    let mine := z.ownedBy s.t = true
    let slotWord := (∃ S w r, e.w = .fill S n w r) ∨ (∃ S w, e.w = .fillc S n w) ∨ (∃ S w, e.w = .fsts S n w)
    let drains := ∃ S w, e.w = .fsts S n w
    (slotWord → ¬ mine → exec e.w s = .next (State.haltCmd (issuing s e) a ((issuing s e).slotTrap .slotOwner who 1 n.toNat))) ∧
    (slotWord → mine → z.st = .faulted →
      exec e.w s = .next (State.haltCmd (issuing s e) a ((issuing s e).slotTrap .slotFaulted who 1 n.toNat))) ∧
    (slotWord → mine → z.st ≠ .faulted → (drains → z.st ≠ .full) → (¬ drains → z.st ≠ .empty) → exec e.w s = .next (issuing s e)) ∧
    (∀ i, e.w = .fill S n w r → mine → z.st = .empty → f.viewChecked a.v 0 rREAD who true = .trap i →
      exec (.fill S n w r) s = .next (f.askCmd h i)) ∧
    (∀ i, e.w = .fld S w x y → b.viewChecked a.v 0 rREAD who true = .trap i → exec (.fld S w x y) s = .next (b.askCmd a i)) ∧
    (∀ i, e.w = .fst S w x y → b.viewChecked a.v 0 rWRITE who true = .trap i → exec (.fst S w x y) s = .next (b.askCmd a i)) ∧
    (∀ need all, s.viewChecked a.v 0 need who all = viewRule s a.v need who all) ∧
    fillRule acc a.v who (arrOfRole r) (fillCheck acc a.v who (arrOfRole r)) ∧ fillcRule acc a.v who (fillcCheck acc a.v who) ∧
    fstsRule acc a.v who z (fstsCheck acc a.v who z) ∧ padRule s who a.v wd (e.cap 0) (e.cap 1) (s.spadRows who a.v wd (e.cap 0) (e.cap 1)) ∧
    gatherRule s who acc a.v (e.cap 0) (e.cap 1) (rows.toNat + 1) (s.gthCheck who acc a.v (e.cap 0) (e.cap 1) (rows.toNat + 1)) ∧
    (e.w = .fill S n w r → mine → z.st = .empty → f.viewChecked a.v 0 rREAD who true = .ok acc → fillCheck acc a.v who (arrOfRole r) = none →
      exec (.fill S n w r) s = .next ((passed f h acc).setSlot s.core n.toNat { f.slot s.core n.toNat with
        arr := arrOfRole r, fmt := (fmtOfCode acc.o.fmt.toNat).getD .f32, mx := acc.o.layout == 3 })) ∧
    (e.w = .fillc S n w → mine → z.st = .empty → f.viewChecked a.v 0 rREAD who false = .ok acc → fillcCheck acc a.v who = none →
      exec (.fillc S n w) s = .next ((passed f h acc).setSlot s.core n.toNat { f.slot s.core n.toNat with
        arr := .a, fmt := (fmtOfCode acc.o.fmt.toNat).getD .f32, mx := acc.o.layout == 3 })) ∧
    (e.w = .fsts S n w → mine → z.st = .full → d.viewChecked a.v 0 rWRITE who true = .ok acc →
      fstsCheck acc a.v who (d.slot s.core n.toNat) = none → exec (.fsts S n w) s = .next (passed d h acc)) ∧
    (e.w = .fld S w x y → b.viewChecked a.v 0 rREAD who true = .ok acc → b.spadRows who a.v wd (e.cap 0) (e.cap 1) = none →
      exec (.fld S w x y) s = .next (passed b a acc)) ∧
    (e.w = .fst S w x y → b.viewChecked a.v 0 rWRITE who true = .ok acc → b.spadRows who a.v wd (e.cap 0) (e.cap 1) = none →
      exec (.fst S w x y) s = .next (passed b a acc)) ∧
    (e.w = .fcopy S w w2 → b.viewChecked a.v 0 rWRITE who true = .ok acc → b.viewChecked a.v2 0 rREAD who true = .ok acc2 →
      (∀ j, j < 4 → a.v.ext j = a.v2.ext j) → a.v.fmt acc.o = a.v2.fmt acc2.o →
      exec (.fcopy S w w2) s = .next (b.putCmd { a with ok := true, oid := acc.oid, oid2 := acc2.oid })) ∧
    (e.w = .fgth S w x y rows → b.viewChecked a.v 0 rREAD who false = .ok acc →
      b.winBusy a (e.cap 1).toNat ((e.cap 1).toNat + 8 * (rows.toNat + 1)) = false →
      b.gthCheck who acc a.v (e.cap 0) (e.cap 1) (rows.toNat + 1) = none →
      exec (.fgth S w x y rows) s = .next (b.putCmd { a with ok := true, oid := acc.oid, list := b.gthList (e.cap 1) (rows.toNat + 1) })) ∧
    (e.w = .fpre S w r → b.viewChecked a.v 0 rREAD who true = .ok acc → exec (.fpre S w r) s = .next ((passed b a acc).preMove (.fpre S w r) acc))

/-- R117, R118, R120 to R122: a release sends the next word it covers to the release buffer, which holds 64; FBIND binds a port that has
drained, FUNB unbinds one; FDONE leaves a value to be written, of which 16 wait, or halts at a misaligned place or one outside the window; FTKS leaves a token to be pushed; FTKW takes one. The
model's own readings: what FUNB awaits (log entry 62, DEDUCED). -/
def Obligations.FetchWordsReleaseBindAndSignal : Prop :=
  ∀ (S o p : Bool) (w : BitVec 4) (q : BitVec 2) (k : BitVec 3) (x y : BitVec 5) (e : QEntry) (s : State), atFetch e s →
    let t := popped s
    let port := s.port q.toNat
    let s1 := freed s q
    (∀ time, s.t.f.frel = some time → releasable e.w = true → s.relHeld < 64 → stopBit e.w ≠ none → engineOf e.w = 4 →
      exec e.w s = .next { t with t := { t.t with f := { t.t.f with rel := s.t.f.rel ++ [commandOf s e (some time)] } } }) ∧
    (∀ time, s.t.f.frel = some time → releasable e.w = true → 64 ≤ s.relHeld → stopBit e.w ≠ none → engineOf e.w = 4 → exec e.w s = .next s) ∧
    (e.w = .frel S x → exec (.frel S x) s = .next { s with t := { s.t with f := { s.t.f with q := s.t.f.q.drop 1, frel := some (e.cap 0) } } }) ∧
    (e.w = .fbind S q w p o → portDrains s1 q = false → ∀ acc,
      (begun s1 e).viewChecked (viewAt s w) 0 (if o then rWRITE else rREAD) (whoOf e.w) true = .ok acc →
      let b := begun s1 e
      exec (.fbind S q w p o) s = .next ((b.setPort q.toNat { Port.unbound with
        bound := true, out := o, wrap := p, no := vget e.ports q.toNat 0, pc := e.pc, v := viewAt s w, oid := acc.oid,
        width := (viewAt s w).width acc.o, total := (viewAt s w).total, late := (b.port q.toNat).late }).dropCmd (commandOf s1 e none))) ∧
    (e.w = .fbind S q w p o → portDrains s1 q = true → exec (.fbind S q w p o) s = .next s1) ∧
    (e.w = .funb S q → port.bound = false → exec (.funb S q) s = .next { t with fresh := s.fresh + 1 }) ∧
    (e.w = .funb S q → port.bound = true → portDrains s1 q = false →
      exec (.funb S q) s = .next (freed { t with fresh := s.fresh + 1 } q)) ∧
    (e.w = .funb S q → port.bound = true → portDrains s1 q = true →
      let u := freed { t with fresh := s.fresh + 1 } q
      exec (.funb S q) s = .next { u with t := { u.t with f := { u.t.f with
        run := s.t.f.run ++ [{ commandOf s e none with ok := true, ended := true }] } } }) ∧
    (e.w = .fdone S x y p → s.t.f.frel = none → s.t.f.fdone.length < 16 → (e.cap 0).toNat % 8 = 0 → (e.cap 0).toNat + 8 ≤ s.t.window →
      let b := begun s e
      exec (.fdone S x y p) s = .next (State.dropCmd { b with t := { b.t with f := { b.t.f with
        fdone := s.t.f.fdone ++ [{ seq := s.t.f.seq, beg := s.fresh, all := p, off := (e.cap 0).toNat, val := e.cap 1 }] } } } (commandOf s e none))) ∧
    (e.w = .fdone S x y p → s.t.f.frel = none → 16 ≤ s.t.f.fdone.length → exec (.fdone S x y p) s = .next s) ∧
    (e.w = .fdone S x y p → s.t.f.frel = none → s.t.f.fdone.length < 16 →
      let stops := fun i => exec (.fdone S x y p) s = .next ((begun s e).haltCmd (commandOf s e none) i)
      ((e.cap 0).toNat % 8 ≠ 0 → stops (alignTrap (whoOf e.w) 1 (e.cap 0) 3)) ∧
      ((e.cap 0).toNat % 8 = 0 → s.t.window < (e.cap 0).toNat + 8 → stops (boundsPlain (whoOf e.w) 0x0A))) ∧
    (e.w = .ftks S k → exec (.ftks S k) s = .next { t with t := { t.t with f := { t.t.f with ftks := s.t.f.ftks ++ [{ seq := s.t.f.seq, k := k }] } } }) ∧
    (e.w = .ftkw S k → 0 < s.tokens k → exec (.ftkw S k) s = .next (tokenTaken t k)) ∧
    (e.w = .ftkw S k → s.tokens k = 0 → exec (.ftkw S k) s = .next s)

namespace Sys2Proof.Claims

/-- A released command that can begin: its time has come, and it is no FDONE behind sixteen unwritten values (R120, R121). -/
def due (s : State) (a : FCmd) (time : Word) : Prop :=
  a.rel = some time ∧ time ≤ s.ticks ∧ ((∃ S x y p, a.e.w = .fdone S x y p) → s.t.f.fdone.length < 16)

/-- Command a is one of the task's, by its number, and no transfer of the partition waits at its weir (R105); r is its oldest request. -/
abbrev mayComplete (s : State) (n : Nat) (a : FCmd) (r : FReq) (rs : List FReq) : Prop :=
  s.t.f.cmd n = some a ∧ a.outst = r :: rs ∧ (∀ x ∈ s.transfers, x.cls = 1 → x.part ≠ s.t.part)

/-- What follows, t, unless it would leave more fetch traps waiting than the eight that wait behind the first: then s as it is (R124). -/
def roomFor (s t : State) : State := if 9 < t.fetTraps ∧ s.fetTraps < t.fetTraps then s else t

/-- The word copies from a second object (R116). -/
def copies (i : Instr) : Bool := match i with | .fcopy .. => true | _ => false

/-- The word ends a binding (R118). -/
def endsPort (i : Instr) : Bool := match i with | .funb .. => true | _ => false

/-- The word checks each of its elements, or rows, by itself (R112, R115). -/
def checksEachOf (i : Instr) : Bool := match i with | .fillc .. | .fgth .. => true | _ => false

/-- The word gathers rows under a view with DEFER (R127). -/
def defersRows (a : FCmd) : Bool := a.v.defer && match a.e.w with | .fgth .. => true | _ => false

/-- Command a with one more request, of m elements from its position on; with its last request its issue phase ends and the queue goes on
(R101, R105). -/
def advanced (s : State) (a : FCmd) (r : FReq) : State :=
  let a2 : FCmd := { a with pos := a.pos + r.count, outst := a.outst ++ [r] }
  if a.pos + r.count ≠ a.total then s.putCmd a2
  else if s.t.f.act.any fun b => b.seq == a.seq then
    { s with t := { s.t with f := { s.t.f with act := none, run := s.t.f.run ++ [{ a2 with ended := true }] } } }
  else s.putCmd { a2 with ended := true }

/-- A request of m elements of w bits issued: charged to the fetch-issue weir in units of 512 bytes (R101, R105). -/
def issued (s : State) (a : FCmd) (w m : Nat) : State :=
  let u := s.ask 1 s.core s.t.ctx (max 1 ((m * w + 4095) / 4096))
  advanced u a { first := a.pos, count := m, oid := a.oid, oid2 := a.oid2, bad := false, since := u.ticks }

/-- Window bit of element c of row `row` of a command whose rows lie `pitch` bytes apart. -/
def windowBit (a : FCmd) (pitch e row c : Nat) : Nat := 8 * ((a.e.cap 0).toNat + row * pitch) + c * e

/-- The bytes of a row of elements of e bits, and the distance of rows: operand b, or with 0 a row (R114). -/
def pitchFor (a : FCmd) (e : Nat) : Nat := if a.e.cap 1 = 0 then (a.v.ext 0 * e + 7) / 8 else (a.e.cap 1).toNat

/-- The window holds v in the e bits from bit k on, and else what it held in w. -/
def windowHas (t w : State) (k e v : Nat) : Prop :=
  t.t.win.getBits k e = v ∧ ∀ b, 8 * b + 8 ≤ k ∨ k + e ≤ 8 * b → t.t.win.get b = w.t.win.get b

/-- Slot n of the core holds v in the e bits from bit k on, and else what it held in w. -/
def slotHas (t w : State) (n k e v : Nat) : Prop :=
  (t.slot t.core n).data.getBits k e = v ∧
    ∀ b, 8 * b + 8 ≤ k ∨ k + e ≤ 8 * b → (t.slot t.core n).data.get b = (w.slot w.core n).data.get b

/-- The movement of elements with w bits of slot n of the core replaced. -/
def intoSlot (x : Xf) (n bit w v : Nat) : Xf :=
  let y := x.s.slot x.s.core n
  { x with s := x.s.setSlot x.s.core n { y with data := y.data.putBits bit w v } }

/-- The slot bit of the scale of element (row, c) of a tile whose rows have n elements: the sidecar follows 32 KiB of elements, a byte for each
block of 32 (R111). -/
def sideBit (n row c : Nat) : Nat := 8 * (32768 + row * (n / 32) + c / 32)

/-- The elements of request r of command a moved in turn, the chunk of the window that an earlier request has read in part standing as it did
then (R134). -/
def movedAll (s : State) (a : FCmd) (r : FReq) (v1 v2 : Via) : Xf :=
  let u := match a.chunk with
    | some (k, d) => { s with t := { s.t with win := s.t.win.write (64 * k) (leBytes 64 d.toNat) } }
    | none => s
  ((List.range r.count).map fun i => r.first + i).foldl (Xf.move a v1 v2) (Xf.start u a.buf r.first)

/-- The chunk of 64 bytes in which a request of FST ends at element `next` and the next one begins, as the request has read it (R134). -/
def chunkOf (a : FCmd) (u : State) (e next : Nat) : Option (Nat × BitVec 512) :=
  let at_ := fun p => windowBit a (pitchFor a e) e (p / a.v.ext 0) (p % a.v.ext 0)
  match a.e.w with
  | .fst .. => if next < a.total ∧ at_ next / 512 = (at_ (next - 1) + e - 1) / 512
    then some (at_ next / 512, bitsOfBytes 512 (u.spad (64 * (at_ next / 512)) 64)) else none
  | _ => none

/-- A gathered row that ends with the request: bit 63 of its list entry says whether it was deferred, and a deferred row is zero (R115, R127). -/
def rowOver (s : State) (a : FCmd) (r : FReq) : State :=
  let next := r.first + r.count
  let row := next / a.v.ext 0 - 1
  let bytes := (a.v.ext 0 * s.widthOf a + 7) / 8
  let entry := (a.e.cap 1).toNat + 8 * row
  let old := leNat (s.spad entry 8) % 2 ^ 63
  if next % a.v.ext 0 ≠ 0 then s
  else if a.badRows.contains row then
    (s.setSpad ((a.e.cap 0).toNat + row * ((bytes + 63) / 64 * 64)) (List.replicate bytes 0)).setSpad entry (leBytes 8 (old + 2 ^ 63))
  else s.setSpad entry (leBytes 8 old)

/-- Command a is complete: it has left the engine, and the conditions that await it are looked at (R107, R121). -/
def completed (s : State) (a : FCmd) : State :=
  State.settle { s with t := { s.t with f := { s.t.f with
    act := if s.t.f.act.any fun b => b.seq == a.seq then none else s.t.f.act
    run := s.t.f.run.filter fun b => b.seq != a.seq
    errs := if a.err then s.t.f.errs ++ [a.seq] else s.t.f.errs } } }

end Sys2Proof.Claims

/-- R101, R102, R105, R120, R127: a command begins when the word at the head of the queue has its turn or, in the release buffer, when its time
has come, the earliest first; its next request, of one page of one shard, is issued once its entry, element, residency and the frames that it
writes to pass, and moves its position on, unless the core has 16,384 outstanding; with the last the queue goes on. A page without a walk is walked to, the next one
in advance; the oldest walk of the extent map that a die's weir has granted ends at the page's frame. The
model's own readings: when a request is charged (log entry 64, DESIGN CHOICE); RETRY and a resumption check the view from the position on (log entry 51, DEDUCED); a halted released
command holds the queue (log entry 54, DEDUCED); walks take time only (log entry 76, DESIGN CHOICE); the words FUNB of one group have their
turn together (log entry 124, DEDUCED). -/
def Obligations.FetchCommandsIssueRequests : Prop :=
  ∀ (n die : Nat) (s : State),
    (∀ e q, s.t.st = .running → s.t.image = false → s.t.f.act = none → s.t.f.q = e :: q → s.fetWaits e = false → s.fetHalted = false →
      s.fetStalled = false → s.t.c.stores = [] → (s.t.x.hmode = true → s.watermark 0 7 Config.subDepth < s.t.f.q.length) →
      let with_ := if endsPort e.w then q.takeWhile fun x => x.gseq == e.gseq && endsPort x.w else []
      exec .fetchCommandBegin s = .next { s with agenda := (e :: with_).map (fun _ => Act.turn .fetch) ++ s.agenda }) ∧
    (∀ a time l1 l2, s.t.st = .running → s.t.c.stores = [] → s.t.f.rel = l1 ++ a :: l2 → due s a time → (∀ b ∈ s.t.f.rel, b.rel ≠ none) →
      (∀ b ∈ l1, ∀ u, due s b u → time < u) → (∀ b ∈ l2, ∀ u, due s b u → time ≤ u) →
      exec .releasedCommandBegin s = .next (State.tryBegin { s with
        fresh := s.fresh + 1
        t := { s.t with f := { s.t.f with
          rel := s.t.f.rel.filter fun b => b.seq != a.seq
          run := s.t.f.run ++ [{ a with beg := s.fresh }] } } } a.seq)) ∧
    (∀ a i, (s.fetHalted = true → s.haltCmd a i = s) ∧
      (s.fetHalted = false → a.buf = [] → a.asked = none → s.haltCmd a i = roomFor s (State.pendTrap
        (s.putCmd { a with halted := true, ok := false, fail := none, chunk := none }) 4 i a.word (BitVec.ofNat 64 a.pos) true)) ∧
      (i.cause ≠ .missingObject → i.cause ≠ .framePoolEmpty → s.askCmd a i = s.haltCmd a i) ∧
      (i.cause = .missingObject ∨ i.cause = .framePoolEmpty → (∀ S w k, a.e.w ≠ .fpre S w k) →
        s.askCmd a i = State.putCmd (State.toMason { s with fresh := s.fresh + 1 } (.fault s.reqNo s.t.ctx s.t.part i)) { a with mason := some s.reqNo }) ∧
      (defersRows a = false → ∀ m, s.reqFault a m i = s.askCmd a i) ∧
      (defersRows a = true → ∀ m, s.reqFault a m i = advanced (s.reportTrap i) a
        { first := a.pos, count := min m (a.v.ext 0 - a.pos % a.v.ext 0), oid := a.oid, oid2 := a.oid, bad := true, since := s.ticks })) ∧
    (∀ a, s.t.f.cmd n = some a → s.t.st = .running → a.halted = false → a.ended = false → a.mason = none → s.fetStalled = false →
      (16384 ≤ s.coreRequests → exec (.fetchRequest n) s = .next s) ∧
      (s.coreRequests < 16384 → a.ok = false → exec (.fetchRequest n) s = .next (s.tryBegin n)) ∧
      (s.coreRequests < 16384 → a.ok = true → a.fail = none → s.mustWait a = true → exec (.fetchRequest n) s = .next s) ∧
      (∀ i, s.coreRequests < 16384 → a.ok = true → a.fail = some i → exec (.fetchRequest n) s = .next (s.haltCmd a i)) ∧
      (s.coreRequests < 16384 → a.ok = true → a.fail = none → s.mustWait a = false →
        let who := whoOf a.e.w
        let need := if fetWrites a.e.w then rWRITE else rREAD
        (∀ i, s.recheck a.v need who = .trap i → exec (.fetchRequest n) s = .next (s.reqFault a (a.v.ext 0) i)) ∧
        (∀ acc i, s.recheck a.v need who = .ok acc → copies a.e.w = true → s.recheck a.v2 rREAD who = .trap i →
          exec (.fetchRequest n) s = .next (s.reqFault a (a.v.ext 0) i)) ∧
        (∀ acc acc2, s.recheck a.v need who = .ok acc →
          (if copies a.e.w then s.recheck a.v2 rREAD who = .ok acc2 else acc2 = acc) →
          (∀ i, a.elemTrap acc a.pos = some i → exec (.fetchRequest n) s = .next (s.reqFault a (a.v.ext 0) i)) ∧
          (a.elemTrap acc a.pos = none →
            let a1 : FCmd := { a with oid := acc.oid, oid2 := acc2.oid }
            let m := runLen (a1.key acc.o acc2.o) (fun p => (a1.elemTrap acc p).isNone) (a.total - a.pos) a.pos []
            let pages := a1.pages acc.o acc2.o a.pos m
            (s.srcStalls a1 acc.o acc2.o m = true → exec (.fetchRequest n) s = .next s) ∧
            (s.srcStalls a1 acc.o acc2.o m = false → acc.o.res = 3 → checksEachOf a.e.w = false →
              exec (.fetchRequest n) s = .next (s.reqFault a1 m (missingAt acc a.v who ((a1.tupleAt a.pos).getD fun _ => 0)))) ∧
            (s.srcStalls a1 acc.o acc2.o m = false → acc.o.res ≠ 3 → copies a.e.w = true → acc2.o.res = 3 →
              exec (.fetchRequest n) s = .next (s.reqFault a1 m (missingAt acc2 a.v2 who (a.v2.tuple a.pos)))) ∧
            (s.srcStalls a1 acc.o acc2.o m = false → acc.o.res ≠ 3 ∨ checksEachOf a.e.w = true → (copies a.e.w = true → acc2.o.res ≠ 3) →
              (∀ s1, (if fetWrites a.e.w then s.prepAll acc pages = .ready s1 else s1 = s) → exec (.fetchRequest n) s =
                .next (issued ((s1.translate a1 acc.o acc2.o m).reserveReq a1 acc.o acc2.o m) a1 (a.v.width acc.o) m)) ∧
              (∀ sub page, fetWrites a.e.w = true → s.prepAll acc pages = .noFrame sub page →
                exec (.fetchRequest n) s = .next (s.reqFault a1 m (frameTrap who sub acc.h acc.oid.toNat page))) ∧
              (∀ c, fetWrites a.e.w = true → s.prepAll acc pages = .logFull c →
                exec (.fetchRequest n) s = .next (s.tellLogFull c acc.oid (pages.headD (0, 0)).2 s.queueCode (a.e.pc.setWidth 32)))))))) ∧
    (∀ k f, alGet s.xcache k = none → alGet s.pages k = some f → (∀ w ∈ s.walks, w.key ≠ k) →
      let u := s.ask 2 s.die s.t.ctx 1
      s.walkPages [k] [] = { u with xcache := alSet s.xcache k f } ∧
      s.walkPages [] [k] = { u with walks := s.walks ++ [{ die := s.die, oid := BitVec.ofNat 48 (k / 2 ^ 35), key := k }] }) ∧
    (∀ w, (s.walks.filter fun w => w.die == die).head? = some w →
      (s.transfers.filter fun x => x.cls == 2 && x.unit == die).length < (s.walks.filter fun w => w.die == die).length →
      exec (.extentMapWalk die) s = .next { s with walks := s.walks.erase w, xcache := match alGet s.pages w.key with
        | some f => alSet s.xcache w.key f | none => s.xcache })

/-- R73, R74, R97, R107, R121, R122, R127, R128, R137: the oldest request of a command completes once its transfers have passed and earlier
activities allow; an error of a line or a link, and a request without a reply for 50,000 or 1,000,000 ticks, ends it with FETCH-ERROR, which
a fill keeps for its slot, a gather with DEFER for its row, and every other command reports; the command whose last request is over is complete, whichever word it is, its
slot FULL or FAULTED, unless its last line writes still await the reply of their place; an
FDONE value is written once the commands that it covers are complete and its bytes are free, and a token pushed once those before it are.
The model's own readings: a request awaits what the weirs have to grant (log entry 64, DESIGN CHOICE); deferred row errors (log entry 55,
DEDUCED); a request whose trap finds no room among those that wait (log entry 112, DESIGN CHOICE). -/
def Obligations.FetchRequestsComplete : Prop :=
  ∀ (n : Nat) (s : State),
    (∀ a r rs, mayComplete s n a r rs →
      exec (.fetchRequestComplete n) s = .next (s.complete a none) ∧
      (∀ o sh bit, s.reqFirst a r = some (o, sh, bit) →
        exec (.fetchError n 1) s = .next ((s.loseLine r.oid o sh (bit / 8)).complete a (some (1, sh))) ∧
        (s.readPlace o sh = 2 → ∀ sub ∈ [4, 5], exec (.fetchError n (BitVec.ofNat 8 sub)) s = .next (s.complete a (some (sub, sh)))) ∧
        (s.readPlace o sh < 2 → 50000 ≤ (s.ticks - r.since).toNat → exec (.tierTimeout n) s = .next (s.complete a (some (2, sh)))) ∧
        (s.readPlace o sh < 2 → (s.ticks - r.since).toNat < 50000 → exec (.tierTimeout n) s = .next s) ∧
        (s.readPlace o sh = 2 → 1000000 ≤ (s.ticks - r.since).toNat → exec (.peerTimeout n) s = .next (s.complete a (some (3, sh)))) ∧
        (s.readPlace o sh = 2 → (s.ticks - r.since).toNat < 1000000 → exec (.peerTimeout n) s = .next s)) ∧
      (∀ err s1 a1, r.bad = false → s.moveReq a r err = (s1, a1, none) → s.complete a err = roomFor s (s1.closeReq a1 r rs)) ∧
      (∀ err s1 a1 b t, r.bad = false → s.moveReq a r err = (s1, a1, some b) → s.unanswered (.asked r.since) b.1.1.1 = some t →
        s.complete a err = s) ∧
      (∀ err s1 a1 b, r.bad = false → s.moveReq a r err = (s1, a1, some b) → s.unanswered (.asked r.since) b.1.1.1 = none →
        let u := s1.unpendReq a r
        ((∃ S m w k, a1.e.w = .fill S m w k) ∨ (∃ S m w, a1.e.w = .fillc S m w) →
          s.complete a err = roomFor s (u.closeReq { a1 with err := true, esub := if a1.err then a1.esub else b.1.1.1 } r rs)) ∧
        (defersRows a1 = true → s.complete a err = roomFor s (u.closeReq { a1 with badRows := a1.badRows ++ [r.first / a1.v.ext 0] } r rs)) ∧
        (defersRows a1 = false → (∀ S m w k, a1.e.w ≠ .fill S m w k) → (∀ S m w, a1.e.w ≠ .fillc S m w) →
          s.complete a err = roomFor s (State.closeReq (u.pendTrap 4 (u.fetchTrap (whoOf a1.e.w) b.1.2 b.1.1) a1.word (BitVec.ofNat 64 b.2) false)
            { a1 with err := true } r rs))) ∧
      (r.bad = true → s.complete a none = roomFor s (s.closeReq { a with badRows := a.badRows ++ [r.first / a.v.ext 0] } r rs))) ∧
    (∀ (a : FCmd) (r : FReq) (rs : List FReq), a.halted = false →
      let b : FCmd := { a with outst := rs }
      ((∀ S w x y k, a.e.w ≠ .fgth S w x y k) → a.ended = false ∨ rs ≠ [] → s.closeReq a r rs = s.putCmd b) ∧
      ((∃ S w x y k, a.e.w = .fgth S w x y k) →
        (a.ended = false ∨ rs ≠ [] → s.closeReq a r rs = (rowOver s b r).putCmd b) ∧
        (a.ended = true → a.buf = [] → a.asked = none → s.closeReq a r [] = completed (rowOver s { a with outst := [] } r) { a with outst := [] })) ∧
      (a.ended = true → a.buf = [] → a.asked = none → a.quit = none →
        (∀ S m w k, a.e.w = .fill S m w k ∨ a.e.w = .fillc S m w → (s.slot s.core m.toNat).dying = false →
          s.closeReq a r [] = completed (s.setSlot s.core m.toNat (if a.err
            then { s.slot s.core m.toNat with st := .faulted, fcause := 0x0B, fsub := BitVec.ofNat 8 a.esub }
            else { s.slot s.core m.toNat with st := .full })) { a with outst := [] }) ∧
        (∀ S m w, a.e.w = .fsts S m w → (s.slot s.core m.toNat).dying = false →
          s.closeReq a r [] = completed (if (s.slot s.core m.toNat).st = .draining
            then s.setSlot s.core m.toNat { s.slot s.core m.toNat with st := .full } else s) { a with outst := [] }) ∧
        (∀ S w w2 x y k, a.e.w = .fld S w x y ∨ a.e.w = .fst S w x y ∨ a.e.w = .fcopy S w w2 ∨ a.e.w = .fpre S w k →
          s.closeReq a r [] = completed s { a with outst := [] })) ∧
      (a.ended = true → (∀ S w x y k, a.e.w ≠ .fgth S w x y k) → ∀ v s1 e t, s.viaOf a.oid a.v false = some v →
        State.sendLines a.oid v.acc.o a.v.noalloc a.buf s = (s1, some e) → s.unanswered (askedAt a.asked) e.1.1 = some t →
        s.closeReq a r [] = s.putCmd { a with outst := [], asked := some t })) ∧
    (∀ d, s.t.f.fdone.find? s.doneReady = some d →
      let t := s.setSpad d.off (leBytes 8 (if s.t.f.coveredErr d then (d.val ||| 0x8000000000000000).toNat else d.val.toNat))
      s.t.f.covered d = true ∧
      exec .fdoneValueWrite s = .next { t with t := { t.t with f := { t.t.f with fdone := s.t.f.fdone.filter fun x => x.seq != d.seq } } }) ∧
    (∀ d, s.t.f.ftks.find? (fun t => s.t.f.allOver t.seq && s.pushFits t.k 1) = some d →
      let t := s.setTokens d.k (s.tokens d.k + 1)
      exec .fetchTokenPush s = .next { t with t := { t.t with f := { t.t.f with ftks := s.t.f.ftks.filter fun x => x.seq != d.seq } } })

namespace Sys2Proof.Claims

/-- The first element of a pass that is not yet delivered with n port elements of it (R117). -/
def passElems (p : Port) (n : Nat) : Nat := min p.total (2048 * n / p.width)

/-- The bits of the elements that port element m of a pass holds, read in turn: it holds bits 2,048 m and on of the pass (R117). -/
def portElement (s : State) (p : Port) (acc : Machine.Acc) (m : Nat) : Xf × Nat :=
  let k := 2048 * m / p.width
  let n := min p.total ((2048 * (m + 1) + p.width - 1) / p.width) - k
  let read := fun (a : Xf × Nat) i =>
    let g := a.1.get { acc := acc, noalloc := p.v.noalloc, l1 := true } (p.v.place acc.o (p.v.tuple (k + i))) p.width
    (g.1, a.2 + g.2 * 2 ^ (p.width * i))
  let y := (List.range n).foldl read (Xf.start s [] (p.posOf p.count), 0)
  (y.1, y.2 / 2 ^ (2048 * m - k * p.width))

/-- Port p with one element more read ahead (R117). -/
def readAhead (p : Port) (d : BitVec 2048) (poison : Bool) : Port :=
  { p with fifo := p.fifo ++ [{ data := d, poison := poison }], count := p.count + 1, fail := none, asked := none, res := false, runs := [],
           again := false, ended := !p.wrap && decide (p.perPass ≤ p.count + 1) }

/-- The machine after the resolved read of an element of inbound port q, in its state p (R55, R73, R117, R127, R128). -/
def elementRead (s : State) (q : Nat) (p : Port) (acc : Machine.Acc) (t : State) : Prop :=
  (∀ s1 d, s.portRead p acc = (s1, d, none) → t = s1.setPort q (readAhead p d false)) ∧
  (∀ s1 d b, s.portRead p acc = (s1, d, some b) →
    (∀ u, s.portSilent q b.1.1 true = some u → t = u) ∧
    (s.portSilent q b.1.1 true = none → p.v.defer = true → t = (s1.unpendRuns p.oid p.runs).setPort q (readAhead p 0 true)) ∧
    (s.portSilent q b.1.1 true = none → p.v.defer = false →
      let u := s1.unpendRuns p.oid p.runs
      t = roomFor s (State.pendTrap (State.setPort { u with fresh := u.fresh + 1 } q (readAhead p (Config.lostElem u.fresh) true)) 4
        (s.fetchTrap (whoOf (.fbind false 0 0 false false)) b.2 b.1) p.word (BitVec.ofNat 64 (p.posOf p.count)) false)))

/-- The machine after the next request of outbound port q, in its state p, has written elements of its head x, when its lines have been sent
(R99, R101, R117): the elements of one page of one shard; the bits that an element leaves over wait for the next port element. -/
def elementWritten (s : State) (q : Nat) (p : Port) (acc : Machine.Acc) (x : PElem) (t : State) : Prop :=
  let m := p.count % p.perPass
  let first := passElems p m
  let last := passElems p (m + 1)
  let r := p.request acc
  let left := 2048 * m - first * p.width
  let bits := p.part.toNat % 2 ^ left + x.data.toNat * 2 ^ left
  let put := fun (y : Xf) i => y.put { acc := acc, noalloc := p.v.noalloc, l1 := false } (p.v.place acc.o (p.v.tuple (r.1 + i))) p.width
    (bits / 2 ^ (p.width * (r.1 - first + i)) % 2 ^ p.width)
  let y := (List.range r.2).foldl put (Xf.start s p.buf (p.posOf p.count + p.sub))
  let pend := p.linePending acc.oid acc.o (r.1 + r.2)
  let p1 := { p with buf := y.buf.filter fun b => pend b.key, fail := none, asked := none, res := false, again := false }
  ∀ s1, State.sendLines acc.oid acc.o p.v.noalloc (y.buf.filter fun b => !pend b.key) y.s = (s1, none) →
    t = s1.setPort q (if r.1 + r.2 < last then { p1 with sub := p.sub + r.2 }
      else { p1 with fifo := p.fifo.drop 1, count := p.count + 1, sub := 0,
                     part := BitVec.ofNat 8 (if last = p.total then 0 else bits / 2 ^ (p.width * (last - first))) })

end Sys2Proof.Claims

/-- R88, R99, R101, R102, R111 to R119, R134, R272: the elements of a request move one by one, from the line of the object that holds them to the place in
the window or the slot that the word's rule gives, in the layout MX with their scales, or from there into the line writes that wait, each line being read once and written once;
FPRE fills or pins each of its lines in the L2; an inbound binding reads one port element ahead, of elements of any width, up to eight, and an outbound one writes its head page by page; an image is copied page by page into the
window. A port element or a page of an image that misses is asked for first and read when its tier has answered. The model's own readings: when a gathered line is sent (log entry 61, DESIGN CHOICE); the bytes of a lost element (log entry 25,
DESIGN CHOICE); the last byte of a row of FGTH (log entry 56, DEDUCED); the image is read through the L1 (log entry 117, DEDUCED); walks (log entry 76, DESIGN CHOICE). -/
def Obligations.StreamsAndImagesMoveBytes : Prop :=
  (∀ (n : Nat) (s : State) (a : FCmd) (r : FReq) (rs : List FReq) (v1 v2 : Via), mayComplete s n a r rs → r.bad = false →
    s.viaOf r.oid a.v (viaL1 a.e.w) = some v1 → s.viaOf r.oid2 a.v2 (viaL1 a.e.w) = some v2 →
    let x := movedAll s a r v1 v2
    let next := r.first + r.count
    let pend := a.linePending v1.acc.o v2.acc.o next
    ((∀ S w k, a.e.w ≠ .fpre S w k) → x.err = none →
      (fetWrites a.e.w = false → a.buf = [] → a.chunk = none → exec (.fetchRequestComplete n) s = .next (roomFor s (x.s.closeReq a r rs))) ∧
      (fetWrites a.e.w = true → ∀ s1, State.sendLines r.oid v1.acc.o a.v.noalloc (x.buf.filter fun b => !pend b.key)
          { x.s with t := { x.s.t with win := s.t.win, v := s.t.v } } = (s1, none) →
        exec (.fetchRequestComplete n) s = .next (roomFor s (s1.closeReq { a with
          buf := x.buf.filter fun b => pend b.key, chunk := chunkOf a x.s (a.v.width v1.acc.o) next } r rs)))) ∧
    (∀ S w k, a.e.w = .fpre S w k →
      let keys := ((List.range r.count).flatMap fun i =>
        lkeys a.oid (a.v.place v1.acc.o (a.v.tuple (r.first + i))) (a.v.width v1.acc.o)).eraseDups
      ∀ s1, s.preLines r.oid v1.acc.o (k == 2) keys = (s1, none) → exec (.fetchRequestComplete n) s = .next (roomFor s (s1.closeReq a r rs)))) ∧
  (∀ (s : State) (oid : BitVec 48) (o : Obj) (pin : Bool) (k : Nat) (ks : List Nat),
    let sh := keyShard k
    let off := keyOff k
    s.preLines oid o pin [] = (s, none) ∧
    (s.lineFault oid o sh off = none → s.elsewhere o sh = true →
      s.preLines oid o pin (k :: ks) = (s.askEp s.t.ctx (s.nearest o sh)).preLines oid o pin ks) ∧
    (s.lineFault oid o sh off = none → s.elsewhere o sh = false → s.frameOf oid sh (off / 65536) = none →
      s.preLines oid o pin (k :: ks) = s.preLines oid o pin ks) ∧
    (∀ f, s.lineFault oid o sh off = none → s.elsewhere o sh = false → s.frameOf oid sh (off / 65536) = some f →
      s.preLines oid o pin (k :: ks) =
        State.preLines (if pin then s.l2pin s.t.ctx (physAddr f off) else (s.l2fill s.t.ctx (physAddr f off) false false).1) oid o pin ks)) ∧
  (∀ (a : FCmd) (v1 v2 : Via) (x : Xf) (p : Nat) (S : Bool) (w w2 : BitVec 4) (y z : BitVec 5) (rows : BitVec 6) (m : BitVec 7) (k : BitVec 2),
    let o := v1.acc.o
    let e := a.v.width o
    let c := p % a.v.ext 0
    let row := p / a.v.ext 0
    let bytes := (a.v.ext 0 * e + 7) / 8
    let bit := windowBit a (pitchFor a e) e row c
    let g := x.get v1 (a.v.place o (a.v.tuple p)) e
    let q := Xf.move a v1 v2 x p
    let scale := fun (t : Nat → Nat) => ((o.locate t).1, 8 * o.scaleOff (o.locate t).1 (o.locate t).2)
    (a.e.w = .fld S w y z → c + 1 ≠ a.v.ext 0 ∨ (bit + e) % 8 = 0 → windowHas q.s g.1.s bit e g.2) ∧
    (a.e.w = .fld S w y z → c + 1 = a.v.ext 0 → (bit + e) % 8 ≠ 0 → windowHas q.s g.1.s bit (e + (8 - (bit + e) % 8)) g.2) ∧
    (a.e.w = .fst S w y z → q = x.put v1 (a.v.place o (a.v.tuple p)) e (x.s.t.win.getBits bit e)) ∧
    (a.e.w = .fgth S w y z rows → ∀ t, a.tupleAt p = some t →
      let h := x.get v1 (a.v.place o t) e
      windowHas q.s h.1.s (windowBit a ((bytes + 63) / 64 * 64) e row c) e h.2) ∧
    (a.e.w = .fill S m w k → o.layout ≠ 3 → slotHas q.s g.1.s m.toNat ((arrOfRole k).bit e row c) e g.2) ∧
    (a.e.w = .fill S m w k → o.layout = 3 →
      let u := intoSlot g.1 m.toNat ((arrOfRole k).bit e row c) e g.2
      let h := u.get v1 (scale (a.v.tuple p)) 8
      q = intoSlot h.1 m.toNat (sideBit ((arrOfRole k).dims e).2 row c) 8 h.2) ∧
    (a.e.w = .fillc S m w → o.layout ≠ 3 → (∀ t, a.tupleAt p = some t →
        let h := x.get v1 (a.v.place o t) e
        slotHas q.s h.1.s m.toNat (Arr.a.bit e row c) e h.2) ∧
      (a.tupleAt p = none → slotHas q.s x.s m.toNat (Arr.a.bit e row c) e ((shapeOf a.v.shape).pad % 2 ^ e))) ∧
    (a.e.w = .fillc S m w → o.layout = 3 → (∀ t, a.tupleAt p = some t →
        let d := x.get v1 (a.v.place o t) e
        let u := intoSlot d.1 m.toNat (Arr.a.bit e row c) e d.2
        let h := u.get v1 (scale t) 8
        q = intoSlot h.1 m.toNat (sideBit (Arr.a.dims e).2 row c) 8 h.2) ∧
      (a.tupleAt p = none →
        q = intoSlot (intoSlot x m.toNat (Arr.a.bit e row c) e (shapeOf a.v.shape).pad) m.toNat (sideBit (Arr.a.dims e).2 row c) 8 0x7F)) ∧
    (∀ d, a.e.w = .fsts S m w → d = x.s.slot x.s.core m.toNat →
      let u := x.put v1 (a.v.place o (a.v.tuple p)) e (d.data.getBits (d.arr.bit e row c) e)
      (d.mx = false → q = u) ∧
      (d.mx = true → q = u.put v1 (scale (a.v.tuple p)) 8 (d.data.getBits (sideBit (d.arr.dims e).2 row c) 8))) ∧
    (a.e.w = .fcopy S w w2 → let h := x.get v2 (a.v2.place v2.acc.o (a.v2.tuple p)) e
      h.1.err = none → q = h.1.put v1 (a.v.place o (a.v.tuple p)) e h.2)) ∧
  (∀ (x : Xf) (v : Via) (sh bit w val : Nat), bit % 512 + w ≤ 512 →
    let key := lkey v.acc.oid sh (bit / 512)
    let k := bit % 512
    (∀ d, x.cache.find? (fun p => p.1 == key) = some d → x.get v (sh, bit) w = (x, d.2.toNat / 2 ^ k % 2 ^ w)) ∧
    (∀ s1 d, x.cache.find? (fun p => p.1 == key) = none →
      (if v.l1 then x.s.readLineL1 x.s.core x.s.t.ctx v.acc.oid v.acc.o sh (64 * (bit / 512)) v.noalloc
        else x.s.readLine x.s.t.ctx v.acc.oid v.acc.o sh (64 * (bit / 512)) v.noalloc) = (s1, .ok d) →
      (∀ b ∈ x.buf, b.key ≠ key) → (∀ b ∈ x.s.portBufs, b.key ≠ key) →
      x.get v (sh, bit) w = ({ x with s := s1, cache := (key, d) :: x.cache }, d.toNat / 2 ^ k % 2 ^ w)) ∧
    (0 < w → (∃ b ∈ (x.put v (sh, bit) w val).buf, b.key = key ∧ b.data.toNat / 2 ^ k % 2 ^ w = val % 2 ^ w ∧ ∀ i < w, b.mask.getLsbD (k + i) = true) ∧
      ∀ b ∈ (x.put v (sh, bit) w val).buf, b.key ≠ key → b ∈ x.buf)) ∧
  (∀ (q : BitVec 2) (s : State) (p : Port) (acc : Acc), p = s.port q.toNat → (∀ x ∈ s.transfers, x.cls = 1 → x.part ≠ s.t.part) →
    p.dead = false → p.halted = false → p.mason = none →
    let m := p.count % p.perPass
    (p.bound = true → p.out = false → p.ended = false → p.perPass ≠ 0 → s.t.st = .running → p.fifo.length < 8 →
      (p.res = true → s.portAcc p = some acc → ∃ t, exec (.streamReadAhead q) s = .next t ∧ elementRead s q.toNat p acc t) ∧
      (p.res = false → s.fetStalled = false → s.portMustWait q.toNat p = false → p.fail = none →
        s.portChecked p (whoOf (.fbind false 0 0 false false)) = .ok acc →
        let r := p.range m
        let next := if r.1 + r.2 < p.total then p.pageKeys acc.oid acc.o (r.1 + r.2) 1 else if p.wrap then p.pageKeys acc.oid acc.o 0 1 else []
        let u := (s.ask 1 s.core s.t.ctx 1).walkPages (p.pageKeys acc.oid acc.o r.1 r.2) next
        let runs := p.lineRuns acc.oid acc.o
        let misses := p.v.noalloc = false ∧ s.runsMiss acc true runs = true
        (misses → exec (.streamReadAhead q) s =
          .next ((u.reserveRuns acc true runs).setPort q.toNat { p with asked := some s.ticks, res := true, runs := runs })) ∧
        (¬ misses → ∃ t, exec (.streamReadAhead q) s = .next t ∧ elementRead u q.toNat p acc t))) ∧
    (s.portRead p acc = ((portElement s p acc m).1.s, BitVec.ofNat 2048 (portElement s p acc m).2, (portElement s p acc m).1.err)) ∧
    (p.out = true →
      (∀ x rest, p.res = true → p.fifo = x :: rest → s.portAcc p = some acc →
        exec (.streamWrite q) s = .next (State.settleFunb (s.portWrite q.toNat p acc x))) ∧
      (∀ s1 x rest, p.res = false → s.fetStalled = false → s.portMustWait q.toNat p = false → p.fail = none → p.fifo = x :: rest →
        s.portChecked p (whoOf (.fbind false 0 0 false true)) = .ok acc →
        let r := p.request acc
        let ts := (List.range r.2).map fun i => p.v.place acc.o (p.v.tuple (r.1 + i))
        s.prepAll acc ((ts.flatMap fun t => (pagesOf (t.2 / 8) ((t.2 % 8 + p.width + 7) / 8)).map fun g => (t.1, g)).eraseDups) = .ready s1 →
        let next := if r.1 + r.2 < p.total then p.pageKeys acc.oid acc.o (r.1 + r.2) 1 else []
        exec (.streamWrite q) s = .next (State.settleFunb (State.portWrite
          ((s1.ask 1 s1.core s1.t.ctx (max 1 ((r.2 * p.width + 4095) / 4096))).walkPages (p.pageKeys acc.oid acc.o r.1 1) next) q.toNat p acc x))) ∧
      (p.res = false → s.fetStalled = false → p.fifo = [] → s.portDue q.toNat p = true →
        exec (.streamWrite q) s = .next (State.settleFunb (s.flushPort q.toNat))) ∧
      (p.res = false → s.fetStalled = false → p.fifo = [] → s.portDue q.toNat p = false → s.portAwaited q.toNat p = true →
        exec (.streamWrite q) s = .next (s.landPort q.toNat))) ∧
    (∀ x : PElem, elementWritten s q.toNat p acc x (s.portWrite q.toNat p acc x)) ∧
    ((p.request acc).1 = passElems p m + p.sub)) ∧
  (∀ (s : State) (acc : Acc), s.t.st = .running → s.t.image = true → s.t.imageHalt = false → s.t.starts = [] →
    s.t.x.hmode = false → (∀ x ∈ s.transfers, x.cls = 1 → x.part ≠ s.t.part) →
    let h := s.t.tr.extractLsb' 64 24
    let n := (s.t.tr.extractLsb' 32 32).toNat
    let run := imageRun acc.o s.t.imagePos n
    let wake := Wake.access .imageCopy acc.h acc.oid [run] 0 0
    let reads := fun (u : State) =>
      (∀ s1 bs, u.readObj u.core u.t.ctx acc.oid acc.o run.1 run.2.1 run.2.2 false true = (s1, .ok bs) →
        let t := s1.setSpad s.t.imagePos bs
        exec .imageCopy s = .next { t with t := { t.t with
          imagePos := t.t.imagePos + run.2.2, image := decide (t.t.imagePos + run.2.2 < n), c := { t.t.c with wait := none } } }) ∧
      (∀ s1 e t, u.readObj u.core u.t.ctx acc.oid acc.o run.1 run.2.1 run.2.2 false true = (s1, .error e) →
        u.unanswered u.progress e = some t → exec .imageCopy s = .next (u.block wake (.asked t)))
    (s.resolved = none → s.fetStalled = false → s.progress = .plain → s.dataChecked s.t.ctx (h.setWidth 64) rREAD imageWho = .ok acc →
      boundsChecked acc (fun _ => 0) (fun j => if j = 0 then n else 1) imageWho [0, 1, 2, 3] = none → acc.o.res ≠ 3 →
      s.shardStalls acc.o run.1 rREAD = false →
      let u := s.ask 1 s.core s.t.ctx (max 1 ((8 * run.2.2 + 4095) / 4096))
      (u.runsMiss acc true [run] = true → exec .imageCopy s = .next ((u.reserveRuns acc true [run]).block wake (.asked u.ticks))) ∧
      (u.runsMiss acc true [run] = false → reads u)) ∧
    (∀ z t, s.resolved = some (acc, z) → s.progress = .asked t → reads s))

/-- R84 to R87: decoding a line's payload gives the line back, in the mode that Coursing chooses for it; that mode is eligible, no eligible
mode takes fewer sectors, and the payload takes four sectors at most. -/
def Obligations.EncodedLinesDecodeToThemselves : Prop :=
  ∀ d : BitVec 512,
    let m := coursingMode d
    let n := (nzWords d).length
    coursingDecode m (coursingPack m d) = d ∧ coursingSectors m n ≤ 4 ∧ (n = 0 → m = 0) ∧
    (n ≠ 0 → coursingEligible m d = true ∧ ∀ k, 1 ≤ k → k ≤ 7 → coursingEligible k d = true →
      coursingSectors m n < coursingSectors k n ∨ (coursingSectors m n = coursingSectors k n ∧ m ≤ k))

namespace Sys2Proof.Claims

/-- A set in which no two tags hold one superblock and no two lines name one pool sector (R83). -/
def soundSet (st : L2Set) : Prop :=
  st.used.Nodup ∧ ∀ v < 32, ∀ w < 32, (st.tag v).free = false → (st.tag w).free = false → (st.tag v).ptag = (st.tag w).ptag → v = w

/-- Way a leaves before way b: unpinned before pinned, then the older, and among equals the lower (R92, R93). -/
def leavesFirst (st : L2Set) (a b : Nat) : Prop :=
  let x := st.tag a
  let y := st.tag b
  (x.pin = false ∧ y.pin = true) ∨ (x.pin = y.pin ∧ (y.age < x.age ∨ (x.age = y.age ∧ a < b)))

/-- Of the ways that p names, w leaves first. -/
def firstOf (st : L2Set) (p : Nat → Prop) (w : Nat) : Prop := p w ∧ ∀ v, p v → v ≠ w → leavesFirst st w v

/-- The way that a request of a context takes for a superblock without a tag (R92): the lowest free way of its mask, then the lowest free one, then a way
of its mask whose owner's mask lacks it, then any of its mask. A superblock with a line pending is not taken (R88; log entry 66, DESIGN
CHOICE). -/
def wayRules (s : State) (ctx k : Nat) : Prop :=
  let st := s.l2set k
  let mask := fun (c w : Nat) => (BitVec.ofNat 32 (s.ctxField c 672 32)).getLsbD w
  let free := fun w => w < 32 ∧ (st.tag w).free = true
  let mine := fun w => w < 32 ∧ mask ctx w = true ∧ (st.tag w).pend = 0
  let strange := fun w => mine w ∧ mask (st.tag w).ctx.toNat w = false
  (∀ w, free w → mask ctx w = true → (∀ v, v < w → ¬ (free v ∧ mask ctx v = true)) → s.pickWay ctx k = some w) ∧
  (∀ w, (∀ v, free v → mask ctx v = false) → free w → (∀ v, v < w → ¬ free v) → s.pickWay ctx k = some w) ∧
  (∀ w, (∀ v, ¬ free v) → firstOf st strange w → s.pickWay ctx k = some w) ∧
  (∀ w, (∀ v, ¬ free v) → (∀ v, ¬ strange v) → firstOf st mine w → s.pickWay ctx k = some w) ∧
  ((∀ v, ¬ free v) → (∀ v, ¬ mine v) → s.pickWay ctx k = none)

/-- The line that leaves so that n sectors fit for line i of way w, which has `own` of them (R93, R94): a line of a context that is over its quota before
any other, the requester being counted with what it asks for; its owner, if another, counts it as a victim (R98). -/
def victimRules (s : State) (ctx k w i n own : Nat) : Prop :=
  let st := s.l2set k
  let owner := fun v => (st.tag v).ctx.toNat
  let beyond := fun c => s.own c 608 7 < (if c = ctx then st.held c + n - (if owner w = ctx then own else 0) else st.held c)
  let line := fun (v j : Nat) => v < 32 ∧ j < 4 ∧ (st.line v j).lv = true ∧ ¬ (v = w ∧ j = i)
  let first := fun (p : Nat → Prop) (v j : Nat) => line v j ∧ p v ∧
    ∀ v' j', line v' j' → p v' → (v' = v ∧ j' = j) ∨ leavesFirst st v v' ∨ (v = v' ∧ j < j')
  ∀ fuel ev,
    (n ≤ st.freeSectors.length + own → State.makeRoom ctx k w i n own (fuel + 1) s ev = some (s, ev)) ∧
    (st.freeSectors.length + own < n → ∀ v j,
      first (fun v => beyond (owner v)) v j ∨ ((∀ v' j', line v' j' → ¬ beyond (owner v')) ∧ first (fun _ => True) v j) →
      let t := s.evictLine k v j
      State.makeRoom ctx k w i n own (fuel + 1) s ev =
        State.makeRoom ctx k w i n own fuel (if owner v = ctx then t else t.count (owner v) 0x010A 1) (ev + 1))

end Sys2Proof.Claims

/-- R74, R83, R88 to R98, R131: what a fill, a miss with its reservation and its install, a line write, a pin and an
invalidation do at the L2, hit or miss, placed or bypassed, for the context whose request it is; which way and which lines a request takes from
others, by way masks and quotas. A line reads afterwards as what was merged into it; after an invalidation no
line of the frame is valid in the L2 or an L1, and with a write-back every dirty byte stands in its tier. The model's own readings: the
pending line of a miss (log entry 66, DESIGN CHOICE); who pays a write-back (log entry 90, DESIGN CHOICE); a freed tag and the sectors taken
(log entry 92, DESIGN CHOICE); when a byte counts as written (log entry 83, DEDUCED). -/
def Obligations.LinesAreFilledWrittenAndPinned : Prop :=
  ∀ (ctx : Nat) (pa : BitVec 48) (noalloc wb : Bool) (data mask : BitVec 512) (frame : BitVec 32) (s : State),
    let k := setKey pa
    let a := lineAddr pa
    let filled := fun (t : State) (n : Nat) => ((t.count ctx 0x010B 64).count ctx 0x010C n).ask 3 (indexHash pa).1 ctx 1
    let d := s.tierLine a
    let m := s.askTier ctx a
    let used := match (s.l2set k).find (ptagOf pa) with
      | some w => { m with l2 := alSet m.l2 k ((s.l2set k).touch w) }
      | none => m
    (s.l2pending pa = none →
      (∀ w l, s.l2line pa = some (w, l) → s.l2bad.contains a = false →
        exec (.l2Fill ctx pa noalloc) s = .next (filled { s with l2 := alSet s.l2 k ((s.l2set k).touch w) } l.cnt.toNat)) ∧
      (∀ w l, s.l2line pa = some (w, l) → exec (.l2Install ctx pa) s = .next { s with l2 := alSet s.l2 k ((s.l2set k).touch w) }) ∧
      (s.lineBad pa = true → exec (.l2Fill ctx pa noalloc) s = .next (s.l2lose pa) ∧
        (s.l2line pa = none → exec (.l2Install ctx pa) s = .next s)) ∧
      (s.l2line pa = none → s.bad.contains a = false →
        exec (.l2Fill ctx pa true) s = .next (filled used 0) ∧
        (∀ s1 ev, m.place ctx pa d (fun _ => 0) = some (s1, ev) →
          exec (.l2Fill ctx pa false) s = .next (filled s1 (coursingSectors (coursingMode d) (nzWords d).length))) ∧
        (m.place ctx pa d (fun _ => 0) = none → exec (.l2Fill ctx pa false) s = .next ((filled m 0).count ctx 0x010D 1)) ∧
        (∀ s1, s.l2reserve ctx pa = some s1 → exec (.l2Install ctx pa) s = .next s1 ∧
          (soundSet (s.l2set k) → (s1.l2pending pa).isSome = true ∧ s1.l2line pa = none)) ∧
        (s.l2reserve ctx pa = none → exec (.l2Install ctx pa) s = .next (s.count ctx 0x010D 1)))) ∧
    (∀ w, s.l2pending pa = some w → s.l2line pa = none →
      let o := (vget ((s.l2set k).tag w).who (lineIdx pa) 0).toNat
      (s.bad.contains a = true → exec (.l2Install ctx pa) s = .next (s.unpend pa)) ∧
      (s.bad.contains a = false → ∃ s1 ev, s.place o pa d (fun _ => 0) = some (s1, ev) ∧ exec (.l2Install ctx pa) s = .next s1)) ∧
    (mask ≠ BitVec.allOnes 512 → s.lineBad pa = true →
      exec (.l2LineWrite ctx pa data mask noalloc) s = .next ((s.l2lose pa).tearLine a data mask)) ∧
    (mask = BitVec.allOnes 512 ∨ s.lineBad pa = false → s.l2pending pa = none →
      exec (.l2LineWrite ctx pa data mask noalloc) s = .next (s.l2write ctx pa data mask noalloc) ∧
      (soundSet (s.l2set k) → (s.l2write ctx pa data mask noalloc).lineNow pa = mergeBits (s.lineNow pa) data mask) ∧
      (noalloc = true → s.l2line pa = none →
        (s.l2write ctx pa data mask true).mem = s.mem.write a (leBytes 64 (mergeBits d data mask).toNat))) ∧
    (∀ w l, s.l2line pa = some (w, l) → soundSet (s.l2set k) → (s.l2bad.filter fun b => b / 256 == pa.toNat / 256) = [a] →
      (s.l2lose pa).l2line pa = none ∧ (s.l2lose pa).mem = s.mem ∧
        (l.dirty = 0 → (s.l2lose pa).bad = s.bad) ∧ (l.dirty ≠ 0 → a ∈ (s.l2lose pa).bad)) ∧
    (let base := BitVec.ofNat 48 (pa.toNat / 256 * 256)
     let f := [0, 64, 128, 192].foldl (fun (t : State) x => (t.l2fill ctx (base + BitVec.ofNat 48 x) false false).1) s
     ∀ w, (f.l2set (setKey base)).find (ptagOf base) = some w →
       let st := f.l2set (setKey base)
       exec (.l2Pin ctx pa) s = .next { f with l2 := alSet f.l2 (setKey base) { st with tags := vset st.tags w { st.tag w with pin := true } } }) ∧
    (let still := ∀ pb : BitVec 48, pb.toNat / 65536 = frame.toNat → s.l2pending pb = none
     ∃ t, exec (.l2Invalidation frame wb) s = .next t ∧
      t = { s with l2 := t.l2, l2bad := t.l2bad, l1 := t.l1, mem := t.mem, bad := t.bad, transfers := t.transfers, ctxs := t.ctxs } ∧
      (∀ x ∈ t.l1, ∀ b, t.l1Phys x = some b → b / 65536 ≠ frame.toNat) ∧
      (still → t.ctxs = s.ctxs ∧ (wb = false → t.mem = s.mem ∧ t.bad = s.bad ∧ t.transfers = s.transfers)) ∧
      (still → (∀ j, soundSet (s.l2set j)) → ∀ pb : BitVec 48, pb.toNat / 65536 = frame.toNat →
        t.l2line pb = none ∧ t.l2pending pb = none ∧
        ∀ w l, wb = true → s.l2line pb = some (w, l) → l.dirty ≠ 0 → s.l2bad.contains (lineAddr pb) = false →
          ∀ g < 4, (t.tierLine (lineAddr pb)).extractLsb' (128 * g) 128 =
            if l.mode = 7 ∧ l.dirty.getLsbD g = false then (s.tierLine (lineAddr pb)).extractLsb' (128 * g) 128
            else (State.lineNow s pb).extractLsb' (128 * g) 128)) ∧
    wayRules s ctx k ∧ ∀ w i n own, w < 32 → i < 4 → victimRules s ctx k w i n own

namespace Sys2Proof.Claims

/-- t, which serves a peer's request at s: the context's counters stand as they did, and what it presents to the weirs is told as a peer's
(R71, R98, R292). -/
def forPeer (s t : State) (ctx : Nat) : State :=
  let u := match s.ctx ctx with
    | some x => t.modCtx ctx fun y => { y with counters := x.counters }
    | none => t
  let n := s.transfers.length
  { u with transfers := u.transfers.take n ++ (u.transfers.drop n).map fun x => { x with peer := true } }

/-- An answer to the outside: 0 ACCEPTED or done, 1 POOL-FULL, 2 REJECTED (R75, R77), with the data of a read. -/
def answered (s : State) (a : BitVec 2) (data : List (List Byte)) : State :=
  { s with answers := s.answers ++ [a], hostData := s.hostData ++ data }

/-- The checks of an access through window w (R55, R77): entry, object, and the rights of the window. -/
def throughWindow (s : State) (w : Window) (need : BitVec 6) : Chk Machine.Acc :=
  let who : Who := { eng := 0, op := 0 }
  match s.entryChecked w.ctx (w.handle.setWidth 64) who with
  | .trap i => .trap i
  | .stall => .stall
  | .ok p => match s.objChecked p.1 p.2 who (!s.byReplica p.2.oid need) with
    | .trap i => .trap i
    | .stall => .stall
    | .ok a =>
      let x2 := a.oid.toNat + need.toNat * 2 ^ 48
      if w.rights &&& need ≠ need then .trap (mkTrap .rights who 1 a.h x2 0)
      else if need = rWRITE ∧ a.o.sealed = true then .trap (mkTrap .rights who 2 a.h x2 0)
      else .ok a

end Sys2Proof.Claims

/-- R48, R55, R64, R71, R73, R75, R77, R241, R268, R269, R292: the directory home of an object follows from its ID, and answers with its entry; a read, a
write and an atomic of a peer are served for its context tag, or answered with FETCH-ERROR; a spawn port admits a whole record of an
endpoint that its context admits and that R268 passes; a host window is read and written within its checks; and every other write to a port
and every other access through a window is answered REJECTED: of another endpoint, without the right, failing R55, beyond the end of the
storage, an atomic, or at a closed window. The
model's own readings: a peer's request counts for no context here (log entry 73, DEDUCED); a host write takes frames of die 0 (log entry 72,
DESIGN CHOICE); the endpoint of a trap report of a port (log entry 75, DEDUCED). -/
def Obligations.PeersPortsAndHostsAreServed : Prop :=
  ∀ (ctx die sh off n : Nat) (oid : BitVec 48) (data : List Byte) (ep : BitVec 12) (s : State), s.boot.portsUp = true →
    (∀ x, s.boot.members[(oid.extractLsb' 32 16 ^^^ oid.extractLsb' 16 16 ^^^ oid.extractLsb' 0 16).toNat * s.boot.members.length / 65536]? = some x →
      s.dirHome oid = x) ∧
    (∀ o, s.obj oid = some o → exec (.peerRequest ctx die oid sh off n 2 data) s =
      .next (if s.dirHome oid = s.boot.ep then answered s 0 [leBytes 128 (o.bits oid).toNat] else answered s 2 [])) ∧
    (∀ o, s.obj oid = some o → s.placeOf o sh < 2 → off + n ≤ o.shardBytes sh → s.moves.any (fun m => m.oid == oid && m.copied) = false →
      let replies := fun (kind : BitVec 4) (t : State) => exec (.peerRequest ctx die oid sh off n kind data) s = .next (forPeer s t ctx)
      (∀ s1 bs, s.readObj 48 ctx oid o sh off n false false = (s1, .ok bs) → replies 0 (answered s1 0 [bs])) ∧
      (∀ s1 e, s.readObj 48 ctx oid o sh off n false false = (s1, .error e) → replies 0 (answered s1 2 [[BitVec.ofNat 8 e]])) ∧
      (∀ s1 s2 e, s.framesFor (die % 4) oid o sh (pagesOf off (data.take n).length) = some s1 →
        s1.writeObj 48 ctx oid o sh off (data.take n) false = (s2, e) →
        replies 1 (match e with | none => answered s2 0 [] | some k => answered s2 2 [[BitVec.ofNat 8 k]])) ∧
      (∀ (kind : BitVec 4) s1, 3 ≤ kind.toNat → s.framesFor (die % 4) oid o sh (pagesOf off n) = some s1 →
        (∀ s2 e, s1.readObj 48 ctx oid o sh off n false false = (s2, .error e) → replies kind (answered s2 2 [[BitVec.ofNat 8 e]])) ∧
        (∀ s2 bs, s1.readObj 48 ctx oid o sh off n false false = (s2, .ok bs) →
          (peerAtomic kind.toNat n (leNat bs) data = none → replies kind (answered s2 0 [bs])) ∧
          (∀ s3 x e, peerAtomic kind.toNat n (leNat bs) data = some x → s2.writeObj 48 ctx oid o sh off (leBytes n x) false = (s3, e) →
            replies kind (match e with | none => answered s3 0 [bs] | some k => answered s3 2 [[BitVec.ofNat 8 k]]))))) ∧
    (∀ old, let v := leNat (data.take n)
      peerAtomic 3 n old data = some (old + v) ∧ peerAtomic 6 n old data = some (old &&& v) ∧ peerAtomic 7 n old data = some (old ||| v) ∧
      peerAtomic 8 n old data = some v ∧ peerAtomic 11 n old data = some (max old v) ∧ peerAtomic 12 n old data = some (min old v) ∧
      (∀ e, leNat ((data.drop n).take n) = e → peerAtomic 9 n old data = if old = v then some e else none)) ∧
    (∀ c port, c < 4096 → port < 4 → data.length = 128 → s.admits c ep = true →
      let r := bitsOfBytes 1024 data
      let replies := fun (t : State) => exec (.spawnPortWrite ep (0x004000000000 + 4096 * c + 128 * port) data) s = .next t
      match recordOutcome s c port r { eng := 0, op := 0 } with
      | .stall => replies s
      | .trap i => replies (answered (s.reportTrap i) 2 [])
      | .ok rc => match s.fillEntry port r rc with
        | none => replies (answered s 1 [])
        | some (s1, _) => replies (answered s1 0 [])) ∧
    (∀ x, x < 4096 * 4096 → (data.length ≠ 128 ∨ x % 128 ≠ 0 ∨ 4 ≤ x % 4096 / 128 ∨ s.admits (x / 4096) ep = false) →
      exec (.spawnPortWrite ep (0x004000000000 + x) data) s = .next (answered s 2 [])) ∧
    (∀ win (kind : BitVec 2), off < 2 ^ 36 →
      let replies := fun (t : State) => exec (.hostWindowAccess ep (2 ^ 48 + 2 ^ 36 * win + off) n kind data) s = .next t
      ((s.wins.find? fun w => w.num == win) = none → replies (answered s 2 [])) ∧
      (∀ w, (s.wins.find? fun w => w.num == win) = some w →
        (w.ep ≠ ep ∨ 2 ≤ kind.toNat ∨ (kind = 1 ∧ data.length ≠ n) → replies (answered s 2 [])) ∧
        (w.ep = ep → kind = 0 ∨ (kind = 1 ∧ data.length = n) →
          let need := if kind = 1 then rWRITE else rREAD
          (∀ i, throughWindow s w need = .trap i → replies (answered (s.reportTrap i) 2 [])) ∧
          (throughWindow s w need = .stall → replies s) ∧
          (∀ a, throughWindow s w need = .ok a →
            (s.shardStalls a.o 0 need = true → replies s) ∧
            (s.shardStalls a.o 0 need = false →
              (a.o.bytes < off + n ∨ windowBounds a off n = false ∨ a.o.res = 3 → replies (answered s 2 [])) ∧
              (windowBounds a off n = true → a.o.res ≠ 3 →
                (kind = 0 → ∀ s1 g, s.readObj 48 w.ctx a.oid a.o 0 off n false false = (s1, g) →
                  replies (match g with | .ok bs => answered s1 0 [bs] | .error _ => answered s1 2 [])) ∧
                (kind = 1 → (∀ sub page, State.prepPages 0 w.ctx a.oid a.o 0 (pagesOf off n) s = .noFrame sub page → replies (answered s 2 [])) ∧
                  ∀ s1 s2 e, State.prepPages 0 w.ctx a.oid a.o 0 (pagesOf off n) s = .ready s1 →
                    s1.writeObj 48 w.ctx a.oid a.o 0 off data false = (s2, e) →
                    replies (match e with | none => answered s2 0 [] | some _ => answered s2 2 []))))))))

namespace Sys2Proof.Claims

/-- A word, a binding, a command or a start of the task awaits Mason (R62, R300, R309). -/
def asking (t : Task) : Bool :=
  let sent := fun (p : Progress) => match p with | .sent _ => true | _ => false
  (t.c.wait.any fun w => sent w.progress) || (t.x.kept.wait.any fun w => sent w.progress) || sent t.startAsk
    || (((match t.f.act with | some b => [b] | none => []) ++ t.f.run).any fun a => a.mason.isSome) || t.f.ports.toList.any fun p => p.mason.isSome

/-- An access of a word, at hand or interrupted by a handler, has been resolved and has not completed (R55). -/
def underWay (w : Option Wait) : Bool :=
  w.any fun x => (match x.wake with | .access .. => true | _ => false) && match x.progress with | .plain | .asked _ => true | _ => false

/-- An access of the task's words, writes in the background and ports, or a fetch request or a line write of a command, is in flight (R309). -/
def outstanding (t : Task) : Bool :=
  underWay t.c.wait || underWay t.x.kept.wait || !t.c.stores.isEmpty || (t.f.ports.toList.any fun p => p.res)
    || ((match t.f.act with | some b => [b] | none => []) ++ t.f.run).any fun a => !a.outst.isEmpty || a.asked.isSome

/-- A command as an image keeps it: one in its issue phase checks again from its position (R126, R129). -/
def kept (a : FCmd) : FCmd := if a.ended then a else { a with ok := false }

/-- A binding likewise: the checks of its view are made again from its position (R126, R129). -/
def keptPort (p : Port) : Port := if p.bound then { p with again := true } else p

/-- Task a comes before task b in the dispatch order of a core (R273): higher PRIO, then more issue tokens at the core's matrix-issue and
fetch-issue weirs, then the earlier moment of entering READY, then the lower pool index. -/
def sooner (s : State) (core : Nat) (a b : Task) : Prop :=
  let tokens := fun (t : Task) => ((s.weir 0 core).bucket t.ctx).tokens + ((s.weir 1 core).bucket t.ctx).tokens
  b.prio < a.prio ∨ (a.prio = b.prio ∧ (tokens b < tokens a ∨ (tokens a = tokens b ∧
    (a.readyAt < b.readyAt ∨ (a.readyAt = b.readyAt ∧ (a.id.extractLsb' 0 12).toNat < (b.id.extractLsb' 0 12).toNat)))))

/-- The task under execution captured in state st, as it leaves its partition (R277, R307 to R309). -/
def captured (s : State) (st : TaskSt) (forced : Bool) : Task :=
  let t := s.t
  { t with
    st := st, readyAt := s.clk, ranClk := 0, wasForced := forced, eligAt := none, c := { t.c with wait := t.c.wait.map fun w => { w with clk := 0 } },
    saving := asking t || outstanding t,
    f := { t.f with act := t.f.act.map kept, run := t.f.run.map kept, ports := t.f.ports.map keptPort },
    v := { t.v with score := if t.v.flights.isEmpty then t.v.score else some ((t.v.flights.map fun f => f.land).foldl max 0) } }

/-- The partition under execution is left, its task captured. -/
def leaves (s : State) (st : TaskSt) (forced : Bool) : State :=
  State.settle { s with t := Task.idle, others := s.others ++ [captured s st forced] }

/-- Engine traps pend by the clk in which they became pending, and within a clk by engine code (R296). -/
def inOrder (a b : PTrap) : Prop := a.clk < b.clk ∨ (a.clk = b.clk ∧ a.eng ≤ b.eng)

/-- The registers of an engine whose trap is taken: its command, its position, its ACT cleared (R124, R173, R228). -/
def engineRegs (x : Trp) (q : PTrap) : Trp :=
  if q.eng = 4 then { x with fqcmd := q.cmd, fqpos := q.pos, fqact := if q.halting then false else x.fqact }
  else if q.eng = 3 then { x with mqcmd := q.cmd, mqact := 0 }
  else if q.eng = 0 then x
  else { x with vqcmd := q.cmd, vqact := 0 }

/-- An 8-word entry of a ring of n entries of object oid written at its producer count, and the count raised (R324). -/
def appended (s : State) (oid : BitVec 48) (o : Obj) (n : Nat) (ev : BitVec 512) : State :=
  let p := leNat (s.objPeek oid 0 0 8)
  let s1 := (s.writeObj 48 0 oid o 0 (64 + 64 * (p % n)) (leBytes 64 ev.toNat) false).1
  (s1.writeObj 48 0 oid o 0 0 (leBytes 8 (p + 1)) false).1

end Sys2Proof.Claims

/-- R124, R270, R271, R273, R278, R296, R300, R305 to R309, R323, R324: placement of the first task in dispatch order on the lowest free
partition, parking of a word that has waited 4,096 clk or been asked to leave, the end of a slice, a forced save, its completion, the entry
of a pending trap at a boundary, and the append of a waiting event. The model's own readings: the order of a placement's traps (log entry
30, DEDUCED); code that moves (log entry 32, DEDUCED); room by the sum of the windows (log entry 67, DESIGN CHOICE); save images take no
frame (log entry 68, DESIGN CHOICE); a line write that waits with its bits in place keeps no task from parking (log entry 61, DESIGN CHOICE). -/
def Obligations.TasksArePlacedParkedAndSaved : Prop :=
  ∀ (p : Nat) (id : BitVec 64) (s : State),
    (∀ t r u, s.partFree p = true → (∀ q, q < p → s.partFree q = true → (s.pick q).isSome = false) → s.pick p = some (t, r) → r.taskById t.id = some u →
      ∃ v, exec (.taskPlace p) s = .next v ∧ v.t.id = t.id ∧ v.t.st = .running ∧ v.t.part = p ∧ v.t.core = some (p / 6) ∧ v.t.spilled = false ∧
        v.t.x.slice = false ∧ v.t.x.stop = false ∧ v.t.x.system = false ∧ v.t.x.forced = v.t.wasForced ∧ p ∉ v.grants) ∧
    (∀ t r, s.pick p = some (t, r) → t ∈ s.tasks ∧ s.roomFor t p = some r ∧ ∀ u ∈ s.tasks, (s.roomFor u p).isSome = true → ¬ sooner s (p / 6) u t) ∧
    (s.pick p = none → ∀ u ∈ s.tasks, s.roomFor u p = none) ∧
    (∀ i w, s.t.st = .running → s.t.c.phase = .running → s.wordAtPc = some i → s.t.c.wait = some w → parks i = true →
      (4096 ≤ w.clk ∨ s.t.x.slice = true ∨ s.t.x.stop = true ∨ s.t.x.system = true) → s.drained = true → s.waitOver i w.wake = false →
      exec .taskPark s = .next (leaves s .parked false)) ∧
    (s.t.st = .running → s.ctxField s.t.ctx 736 32 ≠ 0 → s.ctxField s.t.ctx 736 32 ≤ s.t.ranClk → s.t.x.slice = false →
      (∃ u ∈ s.others, (State.roomFor { s with t := { s.t with st := .parked } } u s.t.part).isSome = true) →
      exec .sliceExpiry s = .next { s with t := { s.t with x := s.t.x.reason fun x => { x with slice := true } } }) ∧
    (s.t.st = .running → s.t.x.asked = true → s.t.x.remain = 0 → s.interruptible = true →
      let u : State := { s with t := { s.t with
        x := { s.t.x with fscnt := s.t.x.fscnt + 1 }, c := { s.t.c with phase := if s.t.c.phase = .checked then .boundary else s.t.c.phase } } }
      let ev := fun chain => eventRec none 0 0 s.t.c.codeH chain s.t.id (s.boundaryOff.setWidth 32) s.t.part 0 0x20 2
      exec .forcedSave s = .next (((leaves u .ready true).count s.t.ctx 1 1).deliverEvent s.t.ctx s.t.id ev) ∧
      ∀ chain, (ev chain).extractLsb' 0 8 = 2 ∧ (ev chain).extractLsb' 8 8 = 0x20 ∧ (ev chain).extractLsb' 64 64 = s.t.id) ∧
    (∀ ctx mk c chain, s.findRing 8 (s.parent ctx) [ctx] = (some c, chain) →
      let u := s.noteRings 8 (s.parent ctx) s
      (u.ringMoving c = true → s.deliverEvent ctx id mk = { u with events := u.events ++ [{ ctx := c, ev := mk chain }] }) ∧
      (∀ s1, u.ringMoving c = false → u.appendEvent c (mk chain) = (s1, true) → s.deliverEvent ctx id mk = s1) ∧
      (∀ s1, u.ringMoving c = false → u.appendEvent c (mk chain) = (s1, false) → s.deliverEvent ctx id mk = u.count c 3 1)) ∧
    (∀ c x oid o ev, s.ctx c = some x → s.ringObj c x.ring.toNat 16 32 = some (oid, o) → o.moving = false →
      let room := (leNat (s.objPeek oid 0 0 8) + 2 ^ 64 - leNat (s.objPeek oid 0 8 8)) % 2 ^ 64
      s.appendEvent c ev = if room < (o.extent 0 / 2 - 8) / 8 then (appended s oid o ((o.extent 0 / 2 - 8) / 8) ev, true) else (s, false)) ∧
    (∀ t, s.taskById id = some t → t.saving = true →
      exec (.saveComplete id) s = .next (State.settle (s.asTask id fun u =>
        let v := u.drainReqs
        { v with t := { v.t with saving := asking v.t || (outstanding v.t && !v.fetStalled) } }))) ∧
    (∀ i, s.t.st = .running → s.interruptible = true → s.t.entryTrap = some i →
      let u : State := { s with t := { s.t with entryTrap := none, startAsk := .plain } }
      s.t.startAsk = .plain → i.cause ≠ .missingObject → s.handlerWaits i.cause = false →
        exec .trapEntry s = .next (u.takeTrap i s.boundaryOff s.boundaryKept)) ∧
    (s.t.st = .running → s.interruptible = true → s.t.x.hmode = false → s.t.entryTrap = none →
      (∀ i r, s.t.starts = i :: r →
        let u : State := { s with t := { s.t with starts := r, startAsk := .plain } }
        (s.t.startAsk = .plain → i.cause ≠ .missingObject → s.handlerWaits i.cause = false →
          exec .trapEntry s = .next (u.takeTrap i s.boundaryOff s.boundaryKept)) ∧
        (∀ x, s.t.startAsk = .failed x → s.handlerWaits x.cause = false →
          exec .trapEntry s = .next (u.takeTrap x s.boundaryOff s.boundaryKept)) ∧
        (s.t.startAsk = .plain → i.cause = .missingObject → exec .trapEntry s = .next { s with
          fresh := s.fresh + 1, intake := s.intake ++ [(s.clk, .fault s.reqNo s.t.ctx s.t.part i)]
          t := { s.t with startAsk := .sent s.reqNo } })) ∧
      (∀ q r, s.t.starts = [] → s.t.x.pending = q :: r →
        (s.handlerWaits q.info.cause = true → exec .trapEntry s = .next s) ∧
        (s.handlerWaits q.info.cause = false →
          let u : State := { s with t := { s.t with x := engineRegs { s.t.x with pending := r } q } }
          let v := u.takeTrap q.info s.boundaryOff s.boundaryKept (if q.halting then q.eng else 0)
          exec .trapEntry s = .next (if v.t.x.hmode
            then { v with t := { v.t with x := { v.t.x with taken := if q.halting then some q.eng else none } } } else v)))) ∧
    (∀ eng info cmd pos halting, s.t.x.pending.Pairwise inOrder →
      let q : PTrap := { eng := eng, info := info, cmd := cmd, pos := pos, halting := halting, clk := (vget s.dies s.die Die.nominal).count }
      let u := s.pendTrap eng info cmd pos halting
      u.t.x.pending.Pairwise inOrder ∧ u.t.x.pending.Perm (q :: s.t.x.pending) ∧
        u = { s with t := { s.t with x := { s.t.x with pending := u.t.x.pending } } }) ∧
    (∀ e r x, s.events = e :: r → s.ctx e.ctx = some x → x.ring ≠ 0 → (s.ringObj e.ctx x.ring.toNat 16 32).isSome = true →
      ∀ s1, s.appendEvent e.ctx e.ev = (s1, true) → exec .eventAppend s = .next { s1 with events := s1.events.erase e }) ∧
    (∀ e r x s1, s.events = e :: r → s.ctx e.ctx = some x → x.ring ≠ 0 → (s.ringObj e.ctx x.ring.toNat 16 32).isSome = true →
      s.appendEvent e.ctx e.ev = (s1, false) → e.ev.extractLsb' 0 8 ≠ 1 → s.ringMoving e.ctx = false →
      exec .eventAppend s = .next (State.count { s with events := r } e.ctx 3 1))

/-- R300, R323: Mason replies RESOLVED after what he repairs, or FAILED with the trap, to the request that heads his queue; an event for
which no ring was found ends its reflected task. The model's own readings: where Mason places absent contents (log entry 22, DESIGN CHOICE);
what he mends (log entry 79, DESIGN CHOICE); what a task that ends has under way (log entry 53, DEDUCED). -/
def Obligations.MasonAnswersFaultsAndEvents : Prop :=
  ∀ (no ctx part : Nat) (i : TrapInfo) (id : BitVec 64) (ev : BitVec 512) (r : List Req) (s : State),
    (s.mason = .fault no ctx part i :: r →
      exec .masonReplyResolved s = .next ((State.repair { s with mason := r } part i).answerTask no .resolved) ∧
      exec .masonReplyFailed s = .next (State.answerTask { s with mason := r } no (.failed i)) ∧
      (∀ w, s.t.c.wait = some w → w.progress = .sent no → ∃ t, exec .masonReplyFailed s = .next t ∧
        t.t.c.wait = some { w with progress := .failed i })) ∧
    (s.mason = .event ctx id ev :: r → ∀ t, State.taskById { s with mason := r } id = some t →
      (ev.extractLsb' 0 8 = 1 → t.st = .reflected → t.told = 0 → exec .masonEndsTask s = .next (State.killTask { s with mason := r } id)) ∧
      (t.st ≠ .reflected → exec .masonEndsTask s = .next { s with mason := r }))

namespace Sys2Proof.Claims

/-- The machine with further requests presented to a weir of classes 1 to 6 (R289). -/
def presented (s : State) (cls unit : Nat) (waiting : List (Nat × Nat × Nat × Nat)) : State :=
  if 1 ≤ cls ∧ cls ≤ 6 then { s with transfers := s.transfers ++ waiting.map fun q =>
    { cls := cls, unit := unit, ctx := q.1, part := q.2.1, since := s.weirNow cls unit } } else s

/-- The weir refilled for the clk at hand, unless it has been (R289). -/
def refilled (s : State) (cls unit : Nat) : State :=
  { s with weirs := alSet s.weirs (cls * 1024 + unit) (s.refillTo cls unit 1 (s.weir cls unit)) }

/-- The contexts with a descriptor here that have a request waiting at a weir, and those of them that hold a whole token (R289). -/
def waitingAt (s : State) (cls unit : Nat) : List Nat :=
  (s.ctxs.map fun p => p.1).filter fun c => (s.weirReqs cls unit).any fun r => r.ctx == c

/-- Those of them that wait with a request of this package's own (R71, R292). -/
def ownWaiting (s : State) (cls unit : Nat) : List Nat :=
  (s.ctxs.map fun p => p.1).filter fun c => (s.weirReqs cls unit).any fun r => r.ctx == c && !r.peer

/-- The weir after a pick, and the context and request that it grants, with whether a token pays (R289). -/
def pickAt (s : State) (cls unit : Nat) : Weir × Option WItem × Bool :=
  let w := s.weir cls unit
  let rs := s.weirReqs cls unit
  let cs := waitingAt s cls unit
  match leastBy (fun c => after w.last c 4096) (cs.filter fun c => (2 ^ 26 : Int) ≤ (w.bucket c).tokens) with
  | some c => (w, w.request c rs, true)
  | none => let p := s.sparePick cls w cs; (p.1, p.2.bind fun c => p.1.request c rs, false)

/-- The contexts that the weir has granted in the clk at hand. -/
def grantedNow (s : State) (cls unit : Nat) : List Nat :=
  if s.weirNow cls unit < (s.weir cls unit).ran then (s.weir cls unit).got else []

/-- A weir can begin a request in this clk: the units under way end within it (R287). -/
def canBegin (s : State) (cls unit : Nat) : Prop :=
  (s.weir cls unit).busy < (s.weirNow cls unit + 1) * Config.weirCapacity cls s.boot.intake

/-- A bank's access has waited 16 clk or more; it is a write of the fetch engine; it is of a vector engine (R133). -/
def aged (q : Nat × Bool × Nat) : Prop := 16 ≤ q.2.2
def fetchWrite (q : Nat × Bool × Nat) : Prop := q.1 = 6 ∧ q.2.1 = true
def ofVector (q : Nat × Bool × Nat) : Prop := q.1 < 6

/-- Access q is the oldest of those of a kind that wait for a bank. -/
def oldestOf (p : Nat × Bool × Nat → Prop) (l : List (Nat × Bool × Nat)) (q : Nat × Bool × Nat) : Prop :=
  p q ∧ ∀ r ∈ l, p r → r.2.2 ≤ q.2.2

end Sys2Proof.Claims

/-- R105, R133, R202, R287, R289, R291, R292: in a clk in which it can begin a request, a weir takes the oldest one of a context with a
whole token, or else of the one that `spare_pick` names, debits the token, counts `WR_TOK` or `WR_SPARE`, and is busy for its units; a
context that waits without a grant counts `WR_WAIT`, and what a peer's request presents counts at its own package; a transfer, walk, line, access or flit then has passed, a matrix word takes its turn, a
request reaches Mason. A bank grants one of the accesses that wait for it, in the order of precedence of `bank_grant`. The model's own
readings: how long a grant keeps a weir busy (log entry 74, DESIGN CHOICE). -/
def Obligations.WeirsGrantAndBanksArbitrate : Prop :=
  ∀ (cls unit core bank : Nat) (waiting : List (Nat × Nat × Nat × Nat)) (bw : List (Nat × Bool × Nat)) (s0 : State),
    let sp := presented s0 cls unit waiting
    let s := refilled sp cls unit
    let x := pickAt s cls unit
    let cap := Config.weirCapacity cls s.boot.intake
    ((sp.ctxs.map fun p => p.1).Nodup → ∀ c ∈ sp.ctxs.map fun p => p.1, sp.ctxField c (768 + 64 * cls) 64 ≠ 0 →
      let had := ((sp.weir cls unit).bucket c).tokens
      let gain : Int := if sp.weirNow cls unit < (sp.weir cls unit).ran then 0 else sp.ownRate c cls
      ((s.weir cls unit).bucket c).tokens = min (had + gain) (sp.weirDepth c cls * 2 ^ 26)) ∧
    (canBegin s cls unit → ∀ r, x.2.1 = some r →
      let c := s.count r.ctx (0x180 + 4 * cls + if x.2.2 then 0 else 1) (if r.peer then 0 else r.units)
      ∃ t, exec (.weirClk cls unit waiting) s0 = .next t ∧
      (let b := x.1.bucket r.ctx
       let b1 : Bucket := { b with
         tokens := if x.2.2 then b.tokens - r.units * 2 ^ 26 else b.tokens
         part := if r.part < 288 then r.part else b.part }
       t.weir cls unit = { x.1.put b1 with
         last := if x.2.2 then r.ctx else x.1.last
         busy := max (s.weir cls unit).busy (s.weirNow cls unit * cap) + 1024 * r.units
         got := r.ctx :: x.1.got }) ∧
      t.ctxs = c.ctxs ∧ t.t = s.t ∧ t.others = s.others ∧ t.mem = s.mem ∧
      (cls = 0 → t.grants = s.grants ++ [r.part] ∧ t.agenda = [.focus r.part, .turn .matrix] ++ s.agenda ∧ t.transfers = s.transfers) ∧
      (1 ≤ cls → cls ≤ 6 → t.transfers = s.transfers.eraseIdx r.place ∧ t.grants = s.grants ∧ t.agenda = s.agenda) ∧
      (cls = 7 → ∀ q, s.intake[r.place]? = some q → t.intake = s.intake.eraseIdx r.place ∧ t.mason = s.mason ++ [q.2])) ∧
    (canBegin s cls unit → x.2.1 = none → exec (.weirClk cls unit waiting) s0 = .next s) ∧
    (¬ canBegin s cls unit → exec (.weirClk cls unit waiting) s0 = .next s ∧
      s.weirClk cls unit = if s.weirClks cls unit 1 = 0 then s
        else ((ownWaiting s cls unit).filter fun c => !(grantedNow s cls unit).contains c).foldl (fun u c => u.count c (0x180 + 4 * cls + 2) 1) s) ∧
    (∃ b, exec (.bankGrant core bank bw) s0 = .next { s0 with banks := alSet s0.banks (core * 32 + bank) b } ∧
      (let old := (alGet s0.banks (core * 32 + bank)).getD Bank.reset
       (bw = [] → b.granted = none ∧ b.fetchLast = false ∧ b.lastPart = old.lastPart) ∧
       (bw ≠ [] → (∀ q ∈ bw, q.2.2 < 2 ^ 32) → bw.length < 2 ^ 32 → ∃ i q, b.granted = some i ∧ bw[i]? = some q ∧ b.fetchLast = (q.1 == 6) ∧
         b.lastPart = (if q.1 < 6 then q.1 else old.lastPart) ∧
         ((∃ r ∈ bw, fetchWrite r) → old.fetchLast = false → oldestOf fetchWrite bw q) ∧
         ((¬ ∃ r ∈ bw, fetchWrite r) ∨ old.fetchLast = true →
           ((∃ r ∈ bw, aged r) → oldestOf aged bw q) ∧
           ((¬ ∃ r ∈ bw, aged r) →
             ((∃ r ∈ bw, ofVector r) → ofVector q ∧ ∀ r ∈ bw, ofVector r → after old.lastPart q.1 6 ≤ after old.lastPart r.1 6) ∧
             ((¬ ∃ r ∈ bw, ofVector r) → oldestOf (fun _ => True) bw q))))))

/-- R338, R339: a droop, a junction limit and the power cap cut a die's clock by 1/16 of nominal, down to 8/16; after 1,024 clk it recovers
by 1/16, up to nominal; a die at its overtemperature limit, each of the package's nine, resets the module. The model's own readings: each
cut is 1/16 (log entry 77, DESIGN CHOICE). -/
def Obligations.ClocksFollowDroopHeatAndPower : Prop :=
  ∀ (die : Nat) (d : Die) (s : State), die < 4 → vget s.dies die d = d →
    let set := fun (x : Die) => { s with dies := vset s.dies die x }
    let cut : Die := { d with clock := max 8 (d.clock - 1), since := 0 }
    exec (.droopResponse die) s = .next (set cut) ∧
    (d.clock < 16 → 1024 ≤ d.since → exec (.clockRecovery die) s = .next (set { d with clock := d.clock + 1, since := 0 })) ∧
    (16 ≤ d.clock ∨ d.since < 1024 → exec (.clockRecovery die) s = .next s) ∧
    (s.boot.rootImg.isSome = true → exec (.junctionLimit die) s = .next (set cut)) ∧
    (s.boot.step = 6 → ∃ t, exec .powerCap s = .next t ∧ t = { s with dies := t.dies } ∧
      ∀ k, k < 4 → ∀ z, let y := vget s.dies k z; vget t.dies k z = { y with clock := max 8 (y.clock - 1), since := 0 }) ∧
    (∀ k < 9, ∃ t, exec (.overtemperature k) s = .next t ∧ exec .coldReset s = .next t ∧ t.boot.step = 2 ∧ t.ctxs = [] ∧ t.mem = [])

/-- R78, R330 to R332, R334, R337: a cold reset keeps nothing and a watchdog reset keeps the journal and the cores; images are taken in
their order, each verified, a failure starting the sequence over with the ports down; after the boot manifest the ports are up. After a watchdog
reset a change that was PREPARED is rolled back and one that was COMMITTED is rolled forward, and the cores that it held are released. Only root
firmware loads keys and dumps sets; an SPDM answer carries the measurements. The model's own readings: what a watchdog reset leaves (log
entry 69, DEDUCED); the digest of an image not yet verified and the byte form of the layout (log entry 121, DESIGN CHOICE); a cold reset keeps the object numbers (log entry 6, DESIGN CHOICE); signatures and hashes are free functions (log entry
11, DESIGN CHOICE). -/
def Obligations.BootVerifiesItsImages : Prop :=
  ∀ (img : List Byte) (who slice : BitVec 2) (slot : BitVec 13) (key : BitVec 512) (set : BitVec 16) (s : State),
    (∃ t, exec .coldReset s = .next t ∧ t.mem = [] ∧ t.t = State.reset.t ∧ t.others = [] ∧ t.ctxs = [] ∧ t.boot.step = 2 ∧ t.boot.portsUp = false ∧
      t.boot.journal = .none ∧ t.boot.rootImg = none ∧ t.boot.keyDerived = true ∧ t.nextObj = s.nextObj) ∧
    (∃ t, exec .watchdogReset s = .next t ∧ t = { s with boot := t.boot } ∧ t.boot.step = 2 ∧ t.boot.journal = s.boot.journal ∧
      t.boot.layout = s.boot.layout ∧ t.boot.shadow = s.boot.shadow ∧ t.boot.watchdog = true ∧ t.boot.rootImg = none ∧
      (∀ k ∈ s.boot.held, k ∈ t.boot.held) ∧ ∀ l, s.boot.shadow = some l → ∀ k ∈ affected s.boot.layout l, k ∈ t.boot.held) ∧
    (imageOk img = true ↔ 114 ≤ img.length ∧
      Config.signatureOk (Config.shake256 (img.take (img.length - 114))) (img.drop (img.length - 114)) = true) ∧
    (s.boot.step = 2 → imageOk img = true →
      exec (.rootFirmwareImage img) s = .next { s with boot := { s.boot with rootImg := some (Config.shake256 img), step := 3 } }) ∧
    (s.boot.step = 2 → imageOk img = false → exec (.rootFirmwareImage img) s = .next s.failBoot) ∧
    (s.boot.step = 3 → s.boot.masonImg = none → s.boot.stash = none → imageOk img = true →
      exec (.masonImage img) s = .next { s with boot := { s.boot with masonImg := some (Config.shake256 img) } }) ∧
    (s.boot.step = 3 → s.boot.masonImg = none → imageOk img = false → exec (.masonImage img) s = .next s.failBoot) ∧
    (s.boot.step = 3 → s.boot.masonImg = none → manifestOk img = true →
      exec (.bootManifest img) s = .next { s with boot := { s.boot with stash := some img } }) ∧
    (s.boot.step = 3 → manifestOk img = false → exec (.bootManifest img) s = .next s.failBoot) ∧
    (s.boot.step = 3 → s.boot.masonImg.isSome = true → s.boot.watchdog = false → manifestOk img = true →
      (manifestLayout img).sound (imgNat img 16 4) = true → s.admitsLayout (manifestLayout img) = true →
      ∃ t, exec (.bootManifest img) s = .next t ∧ t.boot.step = 6 ∧ t.boot.portsUp = true ∧ t.boot.layout = manifestLayout img ∧ t.boot.held = [] ∧
        t.boot.mver = BitVec.ofNat 32 (imgNat img 8 4) ∧ t.boot.ep = BitVec.ofNat 12 (imgNat img 12 2)) ∧
    (s.boot.step = 3 → s.boot.masonImg.isSome = true → s.boot.watchdog = true → manifestOk img = true →
      let back : State := { s with boot := { s.boot with journal := .none, shadow := none, held := [] } }
      (s.boot.laid = true → s.boot.journal ≠ .committed → s.boot.layout.sound (imgNat img 16 4) = true → back.admitsLayout s.boot.layout = true →
        ∃ t, exec (.bootManifest img) s = .next t ∧ t.boot.step = 6 ∧ t.boot.portsUp = true ∧ t.boot.layout = s.boot.layout ∧ t.ctxs = s.ctxs ∧
          t.boot.journal = .none ∧ t.boot.shadow = none ∧ t.boot.held = [] ∧ t.t = s.t ∧ t.others = s.others) ∧
      (∀ l, s.boot.journal = .committed → s.boot.shadow = some l → l.sound (imgNat img 16 4) = true → s.resolveJournal.admitsLayout l = true →
        ∃ t, exec (.bootManifest img) s = .next t ∧ t.boot.step = 6 ∧ t.boot.portsUp = true ∧ t.boot.layout = l ∧
          t.boot.journal = .none ∧ t.boot.shadow = none ∧ t.boot.held = [] ∧
          (s.boot.layout = l → t.ctxs = s.ctxs ∧ t.t = s.t ∧ t.others = s.others))) ∧
    (s.failBoot.boot.step = 2 ∧ s.failBoot.boot.portsUp = false ∧ ∀ k, k < 48 → k ∈ s.failBoot.boot.held) ∧
    (∀ d, s.boot.rootImg = some d → ∃ m, exec (.spdmRequest img) s = .next { s with pcie := s.pcie ++ [Config.spdmAnswer Config.deviceKey m img] } ∧
      m = [d, s.boot.masonImg.getD 0, s.boot.manifest.getD 0, s.boot.mver.setWidth 512,
        Config.shake256 (s.boot.layout.spn ++ s.boot.layout.roots.flatMap fun r => leBytes 256 r.toNat)]) ∧
    (who = 0 → s.boot.rootImg.isSome = true →
      (∃ t, exec (.keySlotLoad who slot key) s = .next t ∧ t = { s with mem := t.mem, keys := alSet s.keys slot.toNat key } ∧
        (∀ old, alGet s.keys slot.toNat = none ∨ (alGet s.keys slot.toNat = some old ∧ old = key) → t.mem = s.mem) ∧
        (∀ a, (∀ p ∈ s.slotPages slot, a / 65536 ≠ p.2.toNat) → t.mem.get a = s.mem.get a) ∧
        (∀ old p, alGet s.keys slot.toNat = some old → old ≠ key → s.slotPages slot = [p] → ∀ b < 4096,
          bitsOfBytes 128 (t.mem.read (p.2.toNat * 65536 + 16 * b) 16) =
            Config.rekey old key (tweakOf p.1 b) (bitsOfBytes 128 (s.mem.read (p.2.toNat * 65536 + 16 * b) 16)))) ∧
      ∃ bs, exec (.l2SetDump who slice set) s = .next { s with pcie := s.pcie ++ [bs] } ∧ bs.length = 912) ∧
    (who ≠ 0 → exec (.keySlotLoad who slot key) s = .next s ∧ exec (.l2SetDump who slice set) s = .next s) ∧
    (∀ (i : Instr) (r : List Act), (i = .masonImage img ∨ i = .bootManifest img ∨ i = .spdmRequest img ∨ i = .keySlotLoad who slot key ∨
      i = .l2SetDump who slice set) → who ≠ 0 → s.agenda = .asks who i :: r → step s = .next { s with agenda := r })

/-- R305, R328, R330, R335 to R337: root firmware alone changes the layout. A change is prepared once its cores run no task, committed, and
then finished, the cores held in between; a change that is not sound is refused. A migration asks the tasks of the subtree to leave, and
once the subtree is stopped takes it away with its contexts, handles, groups, triggers, tasks, slots and tiles; a subtree that another
package has sent comes in with its contexts, tasks, triggers and events once its numbers are FREE here and no change is under way, a trigger whose
version has been reached firing at once. The model's own readings: details of a layout change
(log entry 70, DESIGN CHOICE); and of a migration (log entry 71, DESIGN CHOICE). -/
def Obligations.LayoutsChangeAndSubtreesMigrate : Prop :=
  ∀ (spn : List Byte) (roots : List (BitVec 2048)) (c : Nat) (ep : BitVec 12) (s : State),
    let l : Layout := { spn := spn, roots := roots }
    let asks := s.boot.rootImg.isSome = true ∧ s.boot.step = 6
    (¬ asks → exec (.layoutChange spn roots) s = .next s ∧ exec .layoutCommit s = .next s) ∧
    (∀ (who : BitVec 2) (r : List Act) (i : Instr), i = .layoutChange spn roots ∨ i = .layoutCommit → s.agenda = .asks who i :: r →
      step s = if who = 0 then exec i { s with agenda := r } else .next { s with agenda := r }) ∧
    (asks → s.boot.shadow = none → (l.sound s.boot.intake = false ∨ s.admitsLayout l = false) →
      exec (.layoutChange spn roots) s = .next s) ∧
    (asks → s.boot.shadow = none → l.sound s.boot.intake = true → s.admitsLayout l = true →
      (s.coresBusy (affected s.boot.layout l) = false →
        ∃ t, exec (.layoutChange spn roots) s = .next t ∧ t.boot.shadow = some l ∧ t.boot.journal = .prepared ∧
          t.boot.held = affected s.boot.layout l ∧ t.boot.layout = s.boot.layout ∧ t.ctxs = s.ctxs ∧ t.mem = s.mem) ∧
      (s.coresBusy (affected s.boot.layout l) = true →
        ∃ t, exec (.layoutChange spn roots) s = .next t ∧ t.boot = { s.boot with shadow := some l, journal := .none } ∧
          ∀ u ∈ t.tasks, u.st = .running → u.coreNo ∈ affected s.boot.layout l → u.x.system = true)) ∧
    (∀ k, s.boot.shadow = some l → s.boot.journal = .none → k ∈ affected s.boot.layout l → s.coreHeld k = true) ∧
    (asks → s.boot.shadow = some l → s.boot.journal = .none → s.coresBusy (affected s.boot.layout l) = false →
      exec .layoutCommit s = .next { s with boot := { s.boot with held := affected s.boot.layout l, journal := .prepared } }) ∧
    (asks → s.boot.shadow = some l → s.boot.journal = .prepared → ∃ t, exec .layoutCommit s = .next t ∧
      t.boot.journal = .committed ∧ t.boot.layout = l ∧
      ((∀ j < 48, s.boot.layout.root j ≠ none → l.root j ≠ none) → ∀ j < 48, s.boot.layout.root j = l.root j → t.ctx (j + 1) = s.ctx (j + 1))) ∧
    (s.boot.shadow ≠ none → exec (.migration c s.boot.ep) s = .next s) ∧
    (asks → s.boot.shadow = some l → s.boot.journal = .committed →
      exec .layoutCommit s = .next { s with boot := { s.boot with journal := .finished, shadow := none, held := [] } }) ∧
    (s.subtree c ≠ [] → ep ≠ s.boot.ep → ep ∈ s.boot.members →
      (s.subtreeRuns c = true → exec (.migration c ep) s =
        .next (s.askLeave (fun t => (s.subtree c).contains t.ctx && !t.x.system) fun x => { x with system := true })) ∧
      (s.subtreeRuns c = false → s.treeAsks (s.subtree c) = true → exec (.migration c ep) s = .next s) ∧
      (s.subtreeRuns c = false → s.ctxIs c .stopped = true → (∀ t ∈ s.tasks, t.ctx ∈ s.subtree c → t.saving = false) →
        s.treeAsks (s.subtree c) = false →
        let mine := fun (n : Nat) => (s.subtree c).contains n
        ∃ t m, exec (.migration c ep) s = .next t ∧ (∀ x ∈ t.ctxs, x.1 ∉ s.subtree c) ∧ (∀ x ∈ t.wins, x.ctx ∉ s.subtree c) ∧
          (∀ x ∈ t.handles, x.1 / 2 ^ 24 ∉ s.subtree c) ∧ (∀ u ∈ t.tasks, u.ctx ∉ s.subtree c) ∧ t.mem = s.mem ∧ t.moved = s.moved ++ [m] ∧
          m.ep = ep ∧ m.ctxs = s.ctxs.filter (fun x => mine x.1) ∧ m.handles = s.handles.filter (fun h => mine (h.1 / 2 ^ 24)) ∧
          m.groups = s.groups.filter (fun g => mine (g.1 / 2 ^ 32)) ∧ m.trigs = s.trigs.filter (fun t => mine t.ctx) ∧
          m.tasks = s.tasks.filter (fun t => mine t.ctx) ∧ m.tiles = s.tiles.filter (fun p => mine p.2.ctx) ∧
          m.slots = s.slots.filter (fun p => m.tasks.any fun t => p.2.ownedBy t) ∧ m.events = s.events.filter (fun e => mine e.ctx) ∧
          (∀ h ∈ m.handles, h.2.st ≠ .free → alGet m.objs h.2.oid.toNat = alGet s.objs h.2.oid.toNat))) ∧
    ((∀ m ∈ s.inbound, s.takes m = false) → exec (.migration c s.boot.ep) s = .next s) ∧
    (∀ m t, s.inbound.find? (fun m => (m.ctxs.any fun x => x.1 == c) && s.takes m) = some m → s.landTree m = some t →
      exec (.migration c s.boot.ep) s = .next t ∧ (∀ x ∈ m.ctxs, (t.ctx x.1).isSome = true) ∧
        ∃ w, t = State.settle (State.fireTriggers w) ∧ w.inbound = s.inbound.erase m ∧ w.mem = s.mem ∧
        (∀ g ∈ m.trigs, ∃ h ∈ w.trigs, h = { g with num := h.num }) ∧ (∀ p ∈ m.objs, (alGet w.objs p.1).isSome = true) ∧
        (∀ v ∈ m.events, ∃ x ∈ w.events, x.ctx = v.ctx ∧ x.ev.extractLsb' 0 64 = v.ev.extractLsb' 0 64 ∧
          x.ev.extractLsb' 128 384 = v.ev.extractLsb' 128 384 ∧
          ((∀ u ∈ m.tasks, u.id ≠ v.ev.extractLsb' 64 64) → x = v) ∧
          ∀ u ∈ m.tasks, u.id = v.ev.extractLsb' 64 64 → ∃ z ∈ w.others, z.ctx = u.ctx ∧ z.c.pc = u.c.pc) ∧
        ∀ u ∈ m.tasks, ∃ v ∈ w.others, v.ctx = u.ctx ∧ v.c.pc = u.c.pc ∧ v.win = u.win)


/-- R15 to R18, R23 and the encoding tables: words that the spec's listings write out decode to the instructions that they stand for. -/
def Obligations.TheSpecsOwnWordsDecode : Prop :=
  decode 0x84060000 = .ok (.li true 6 0) ∧
  decode 0x03063100 = .ok (.addi false 6 6 0x100) ∧
  decode 0x60000001 = .ok (.pfx 1) ∧
  decode 0x85212200 = .ok (.cmpi true 1 4 2 0) ∧
  decode 0x86A04005 = .ok (.loop true 0 1 5) ∧
  decode 0x08410000 = .ok (.mbrd false 1 0) ∧
  decode 0x8915150A = .ok (.xld true 21 2 20 true false 2) ∧
  decode 0x54072A83 = .ok (.hqry false 7 5 10 3) ∧
  decode 0xD1043001 = .error .reservedField ∧
  decode 0xD1203001 = .ok (.bwait true 6 1) ∧
  decode 0xD5432141 = .ok (.notify true 3 4 5 1) ∧
  decode 0xD6630881 = .ok (.ctxrunResume true 3 1 2) ∧
  decode 0x90030890 = .ok (.vadd true 3 1 2 2 0) ∧
  decode 0x9A349818 = .ok (.vcvts true 20 19 0 3 0) ∧
  decode 0xA0232808 = .ok (.vst true 3 5 8) ∧
  decode 0x3020408D = .ok (.mmat false 0 16 17 5) ∧
  decode 0xB0E40003 = .ok (.mwait true 2 3) ∧
  decode 0xC0844100 = .ok (.fill true 17 0 1) ∧
  decode 0xC1E0E981 = .ok (.fdone true 29 6 true) ∧
  decode 0x70000000 = .error .engineUndefined

/-- R15 to R20: the decoder and the encoder agree. The word of a well-formed instruction decodes to it, with every operand at every value, and
a word that decodes is the word of what it decodes to, which is well formed: no bit of a word is dropped. -/
def Obligations.DecodingAndEncodingAgree : Prop :=
  (∀ (i : Instr) (w : IWord), i.wf = true → encode i = some w → decode w = .ok i) ∧
  (∀ (w : IWord) (i : Instr), decode w = .ok i → encode i = some w ∧ i.wf = true)

namespace Sys2Proof.Claims

/-- The window of a task and the tiles that it keeps stand in canonical form. -/
def keptWell (t : Task) : Prop := t.win.wf = true ∧ ∀ q ∈ t.spillTiles, q.2.data.wf = true

/-- So do those of a subtree that another package has sent. -/
def sentWell (m : Moved) : Prop :=
  (∀ t ∈ m.tasks, keptWell t) ∧ (∀ p ∈ m.slots, p.2.data.wf = true) ∧ ∀ p ∈ m.tiles, p.2.data.wf = true

/-- Every memory of the machine stands in canonical form: the frames of this package and what other packages hold for it, the window of every
task, every slot and tile, and those of the subtrees on their way here. -/
def canonical (s : State) : Prop :=
  s.mem.wf = true ∧ s.remote.wf = true ∧ keptWell s.t ∧ (∀ u ∈ s.others, keptWell u) ∧ (∀ p ∈ s.slots, p.2.data.wf = true) ∧
    (∀ p ∈ s.tiles, p.2.data.wf = true) ∧ (∀ m ∈ s.inbound, sentWell m) ∧ ∀ m, Act.arrive m ∈ s.agenda → sentWell m

end Sys2Proof.Claims

/-- Every step keeps the canonical form of every memory, of frames, windows, slots and tiles: addresses strictly rising, no zero byte listed, so
that equal memories are equal data. That an unlisted byte reads as zero is the model's choice (log entry 3). -/
def Obligations.EveryStepKeepsMemoryCanonical : Prop :=
  ∀ s t : State, canonical s → step s = .next t → canonical t

/-- R137, R331, R337: what reset leaves. No task, no context, no object, no handle; memory is empty and canonical, and the first byte of every
place reads zero (log entry 3: the model's choice); every slot is FREE, the L2 empty, every die at nominal clock, the journal clear, the
ports down; `c0` reads 1, `s0` reads 0, `m0` all ones. Time starts at 0 (log entry 2: the model's choice). -/
def Obligations.ResetLeavesThePackageBare : Prop :=
  let s := State.reset
  canonical s ∧ s.t.st = .none ∧ s.others = [] ∧ s.ctxs = [] ∧ s.objs = [] ∧ s.handles = [] ∧ (∀ a, s.mem.get a = 0) ∧
  (∀ k n, (s.slot k n).st = .free) ∧ (∀ k w, ((s.l2set k).tag w).free = true) ∧ (∀ d z, d < 4 → (vget s.dies d z).clock = 16) ∧
  s.boot.journal = .none ∧ s.boot.portsUp = false ∧ s.ticks = 0 ∧ s.clk = 0 ∧
  (s.rc (0 : BitVec 3)).val = true ∧ (s.rs (0 : BitVec 5)).val = 0 ∧ (s.mread (0 : BitVec 3)).bits = BitVec.allOnes 256

/-- R6, R26, R27, R74, R105, R165, R202, R328, R329, R331: a step runs the instruction that stands at its unit. With an empty agenda, a running
task whose group has a word at its program counter that decodes to i steps by exec of i at the control engine's turn; the turn of a queue
engine runs the word at the head of its queue and gives the turn back; an event of the agenda runs by itself, but not an engine's on a
quiesced core nor Mason's before boot has released him; the passing of time, a change of focus, what ails a place, an uncorrectable error,
the arrival of a subtree and the stop or run of a root do what they say, and as time passes writes in the background go on (log entry 100, DEDUCED). A quiesced core runs no word. The order of the moves is the
model's (log entry 1). -/
def Obligations.AStepRunsTheDecodedWord : Prop :=
  ∀ (i : Instr) (w : IWord) (e : QEntry) (r : List Act) (s : State),
    let s1 : State := { s with agenda := r }
    (s.agenda = [] → s.t.st = .running → s.t.c.phase = .running → s.t.c.wait = none → s.boot.held.contains s.core = false →
      s.t.c.words[(s.t.c.pc - s.t.c.grp).toNat]? = some w → decode w = .ok i → step s = exec i { s with turn := .control }) ∧
    (s.agenda = .turn .control :: r → s.boot.held.contains s.core = false → s.t.c.phase = .running →
      s.t.c.words[(s.t.c.pc - s.t.c.grp).toNat]? = some w → decode w = .ok i → step s = exec i { s with agenda := r, turn := .control }) ∧
    (∀ u t, u ≠ .control → s.agenda = .turn u :: r → s.boot.held.contains s.core = false →
      (u = .vector → s.t.v.q.head? = some e) → (u = .matrix → s.t.mq.head? = some e) → (u = .fetch → s.t.f.q.head? = some e) →
      exec e.w { s with agenda := r, turn := u } = .next t → step s = .next { t with turn := .control }) ∧
    (∀ u, s.agenda = .turn u :: r → s.boot.held.contains s.core = true → step s = .next s1) ∧
    (s.agenda = .ev i :: r → encode i = none → (engineEvent i = true → s.boot.held.contains s.core = false) →
      (masonEvent i = true → s.boot.step = 6) → step s = exec i s1) ∧
    (s.agenda = .ev i :: r → (engineEvent i = true ∧ s.boot.held.contains s.core = true) ∨ (masonEvent i = true ∧ s.boot.step ≠ 6) →
      step s = .next s1) ∧
    (∀ n, s.agenda = .pass n :: r →
      step s = .next (State.storesGo (State.passing s1 n)) ∧
      (s1.duties = [] → s1.busyWeirs = [] → 0 < n → s1.stride n = n → step s = .next (State.storesGo (State.quietPass (s1.countPlace n) n))) ∧
      (s1.duties = [] → s1.busyWeirs ≠ [] → n = 1 → step s = .next (State.storesGo (State.oneClk (s1.countPlace 1))))) ∧
    ((∀ u ∈ s.tasks, u.st = .running → u.c.stores = []) → s.storesGo = s) ∧
    (∀ p ps o s2 e, s.t.c.stores = p :: ps → s.obj p.oid = some o →
      s.writeRuns { h := p.h, oid := p.oid, e := HEntry.free, o := o } p.runs p.bytes = (s2, e) →
      (e = none → State.runStores 1 s = { s2 with t := { s2.t with c := { s2.t.c with stores := ps } } }) ∧
      (∀ k z, e = some k → s.unanswered (.asked p.since) k.1 = some z → State.runStores 1 s = s)) ∧
    (∀ n, let t := State.pass s n
      t.clk = s.clk + n ∧ t.ticks = s.ticks + BitVec.ofNat 64 (5 * (s.clk + n) / 9 - 5 * s.clk / 9) ∧ t.mem = s.mem ∧
      ∀ d < 4, ∀ z, (vget t.dies d z).count = (vget s.dies d z).count + ((vget s.dies d z).phase + n * (vget s.dies d z).clock) / 16) ∧
    (∀ p, s.agenda = .focus p :: r → step s = .next (State.focus s1 p)) ∧
    (∀ x on, s.agenda = .ail x on :: r → ∃ t, step s = .next (State.storesGo t) ∧ t = { s1 with trouble := t.trouble } ∧ (x ∈ t.trouble ↔ on = true)) ∧
    (∀ l2 tier, s.agenda = .upset l2 tier :: r → ∃ t, step s = .next t ∧ (∀ a ∈ tier, a / 64 * 64 ∈ t.bad) ∧ t.l2 = s.l2 ∧ t.mem = s.mem) ∧
    (∀ sl rows, s.agenda = .upsetCore sl rows :: r → ∃ t, step s = .next t ∧ t = { s1 with slots := t.slots, tiles := t.tiles } ∧
      (∀ k x, alGet s.slots k = some x → alGet t.slots k = some (if k ∈ sl ∧ x.st ≠ .free then { x with bad := true } else x)) ∧
      (∀ k x, alGet s.tiles k = some x → ∃ b, alGet t.tiles k = some { x with bad := b } ∧ ∀ n, n ∈ b ↔ n ∈ x.bad ∨ (n < 128 ∧ (k, n) ∈ rows))) ∧
    (∀ who, s.agenda = .asks who i :: r → rootAct i = true → who ≠ 0 → step s = .next s1) ∧
    (∀ m, s.agenda = .arrive m :: r → step s = .next { s1 with inbound := s.inbound ++ [m] }) ∧
    (∀ c, s.agenda = .root c false :: r → s.boot.step = 6 → s.ctx (s.parent c) = none → s.ctxIs c .deleting = false →
      (∀ l, s.boot.shadow = some l → l.root (c - 1) = s.boot.layout.root (c - 1)) →
      step s = .next (State.stopTasks (s1.modCtx c fun x => { x with st := .stopped }) c)) ∧
    (∀ c, s.agenda = .root c true :: r → s.boot.step = 6 → s.ctx (s.parent c) = none → s.ctxIs c .deleting = false →
      (∀ l, s.boot.shadow = some l → l.root (c - 1) = s.boot.layout.root (c - 1)) →
      step s = .next (State.settle (s1.modCtx c fun x => { x with st := .running }))) ∧
    (∀ nbits v, v < 2 ^ 32 → decode (BitVec.ofNat 32 v) = .ok i → (s.boot.held.contains 0 = false) →
      step (s.withFetchWord nbits v) = exec i (s.withFetchWord nbits v))
end

