-- ==== Sys2Proof/Laws/Mem.lean ====
section
/-!
SUPPORT. Laws of memories and keyed lists: what a read gives after a write, and that a write keeps the canonical form.
-/

namespace Sys2Proof.Machine

@[simp] theorem Mem.get_nil (a : Nat) : Mem.get [] a = 0 := rfl

theorem Mem.get_cons (k : Nat) (b : Byte) (m : Mem) (a : Nat) : Mem.get ((k, b) :: m) a = if k = a then b else Mem.get m a := rfl

/-- A key that no cell has reads zero. -/
theorem Mem.get_absent {m : Mem} {a : Nat} (h : ∀ c ∈ m, c.1 ≠ a) : m.get a = 0 := by
  induction m with
  | nil => rfl
  | cons c m ih =>
    rw [show Mem.get (c :: m) a = if c.1 = a then c.2 else Mem.get m a from rfl, if_neg (h c (by simp))]
    exact ih fun x hx => h x (by simp [hx])

/-- A read of two lists in a row. -/
theorem Mem.get_append (m n : Mem) (a : Nat) :
    Mem.get (m ++ n) a = if (m.any fun c => c.1 == a) = true then m.get a else n.get a := by
  induction m with
  | nil => simp
  | cons c m ih =>
    rw [List.cons_append, show Mem.get (c :: (m ++ n)) a = if c.1 = a then c.2 else Mem.get (m ++ n) a from rfl,
      show Mem.get (c :: m) a = if c.1 = a then c.2 else Mem.get m a from rfl, ih]
    by_cases h : c.1 = a <;> simp [h]

/-- A read through a filter that keeps the address. -/
theorem Mem.get_filter (m : Mem) (p : Nat → Bool) (a : Nat) (h : p a = true) : Mem.get (m.filter fun c => p c.1) a = m.get a := by
  induction m with
  | nil => rfl
  | cons c m ih =>
    rw [show Mem.get (c :: m) a = if c.1 = a then c.2 else Mem.get m a from rfl, List.filter_cons]
    by_cases hc : p c.1 = true
    · rw [if_pos hc, show Mem.get (c :: m.filter fun c => p c.1) a = if c.1 = a then c.2 else Mem.get (m.filter fun c => p c.1) a from rfl, ih]
    · rw [if_neg hc, ih, if_neg (by rintro rfl; exact hc h)]

/-- Cells lie within the span of their bytes. -/
theorem Mem.cells_span {a : Nat} {bs : List Byte} {c : Host.Cell} (h : c ∈ Mem.cells a bs) : a ≤ c.1 ∧ c.1 < a + bs.length := by
  induction bs generalizing a with
  | nil => cases h
  | cons b bs ih =>
    simp only [Mem.cells] at h
    split at h
    · have := ih h; simp only [List.length_cons]; omega
    · rcases List.mem_cons.mp h with rfl | h
      · simp only [List.length_cons]; omega
      · have := ih h; simp only [List.length_cons]; omega

/-- A byte of the cells. -/
theorem Mem.get_cells (a : Nat) (bs : List Byte) (i : Nat) (h : i < bs.length) : Mem.get (Mem.cells a bs) (a + i) = bs[i] := by
  induction bs generalizing a i with
  | nil => simp at h
  | cons b bs ih =>
    have key : ∀ j, j + 1 < (b :: bs).length → Mem.get (Mem.cells (a + 1) bs) (a + (j + 1)) = (b :: bs)[j + 1]! := by
      intro j hj
      have hj' : j < bs.length := by simpa using hj
      have := ih (a + 1) j hj'
      rw [show a + (j + 1) = a + 1 + j by omega, this]
      simp [hj']
    simp only [Mem.cells]
    cases i with
    | zero =>
      split
      · next hb =>
        rw [Nat.add_zero, Mem.get_absent]
        · simp [hb]
        · intro c hc; have := Mem.cells_span hc; omega
      · simp [Mem.get_cons]
    | succ j =>
      have hj := key j h
      split
      · rw [hj]; simp at h; simp [h]
      · rw [Mem.get_cons, if_neg (by omega), hj]; simp at h; simp [h]

/-- A byte written reads back. -/
theorem Mem.get_write_in (m : Mem) (a : Nat) (bs : List Byte) (i : Nat) (h : i < bs.length) : (m.write a bs).get (a + i) = bs[i] := by
  unfold Mem.write
  rw [Mem.get_append, Mem.get_append]
  have h1 : ((m.filter fun c => c.1 < a).any fun c => c.1 == a + i) = false := by
    rw [List.any_eq_false]; intro c hc; have := (List.mem_filter.mp hc).2; simp at this; simp; omega
  by_cases hz : ((Mem.cells a bs).any fun c => c.1 == a + i) = true
  · rw [if_pos (by simp [List.any_append, hz]), if_neg (by simp [h1]), Mem.get_cells a bs i h]
  · rw [if_neg (by simp only [List.any_append, h1, Bool.false_or]; exact hz)]
    rw [Mem.get_absent]
    · rw [← Mem.get_cells a bs i h, Mem.get_absent]
      intro c hc he
      exact hz (List.any_eq_true.mpr ⟨c, hc, by simp [he]⟩)
    · intro c hc; have := (List.mem_filter.mp hc).2; simp at this; omega

/-- A byte outside a write is as before. -/
theorem Mem.get_write_out (m : Mem) (a : Nat) (bs : List Byte) (x : Nat) (h : x < a ∨ a + bs.length ≤ x) : (m.write a bs).get x = m.get x := by
  unfold Mem.write
  rw [Mem.get_append, Mem.get_append]
  have hc : ((Mem.cells a bs).any fun c => c.1 == x) = false := by
    rw [List.any_eq_false]; intro c hc; have := Mem.cells_span hc; simp; omega
  have lo := Mem.get_filter m (fun k => k < a) x
  have hi := Mem.get_filter m (fun k => a + bs.length ≤ k) x
  rcases h with h | h
  · have hl := lo (by simpa using h)
    by_cases hf : ((m.filter fun c => c.1 < a).any fun c => c.1 == x) = true
    · rw [if_pos (by simp [List.any_append, hf]), if_pos hf]; exact hl
    · rw [if_neg (by simp only [List.any_append, hc, Bool.or_false]; exact hf), Mem.get_absent, ← hl, Mem.get_absent]
      · intro c hm he; exact hf (List.any_eq_true.mpr ⟨c, hm, by simp [he]⟩)
      · intro c hm; have := (List.mem_filter.mp hm).2; simp at this; omega
  · have hf : ((m.filter fun c => c.1 < a).any fun c => c.1 == x) = false := by
      rw [List.any_eq_false]; intro c hm; have := (List.mem_filter.mp hm).2; simp at this; simp; omega
    rw [if_neg (by simp [List.any_append, hf, hc])]
    exact hi (by simpa using h)

@[simp] theorem Mem.read_length (m : Mem) (a n : Nat) : (m.read a n).length = n := by simp [Mem.read]

/-- What was written reads back whole. -/
theorem Mem.read_write (m : Mem) (a : Nat) (bs : List Byte) : (m.write a bs).read a bs.length = bs := by
  apply List.ext_getElem (by simp)
  intro i h1 h2
  simp only [Mem.read, List.getElem_map, List.getElem_range]
  exact Mem.get_write_in m a bs i h2

/-- A read outside a write is as before. -/
theorem Mem.read_write_out (m : Mem) (a : Nat) (bs : List Byte) (x n : Nat) (h : x + n ≤ a ∨ a + bs.length ≤ x) :
    (m.write a bs).read x n = m.read x n := by
  apply List.ext_getElem (by simp)
  intro i h1 _
  simp only [Mem.read_length] at h1
  simp only [Mem.read, List.getElem_map, List.getElem_range]
  exact Mem.get_write_out m a bs _ (by omega)

/-- The canonical form, as a proposition. -/
theorem Mem.wf_iff (m : Mem) : m.wf = true ↔ m.Pairwise (fun x y => x.1 < y.1) ∧ ∀ c ∈ m, c.2 ≠ 0 := by
  simp [Mem.wf]

/-- Cells are in canonical form. -/
theorem Mem.wf_cells (a : Nat) (bs : List Byte) : (Mem.cells a bs).wf = true := by
  rw [Mem.wf_iff]
  induction bs generalizing a with
  | nil => simp [Mem.cells]
  | cons b bs ih =>
    simp only [Mem.cells]
    split
    · exact ih (a + 1)
    · next hb =>
      refine ⟨List.pairwise_cons.mpr ⟨fun c hc => ?_, (ih (a + 1)).1⟩, ?_⟩
      · have := Mem.cells_span hc; simp only; omega
      · intro c hc
        rcases List.mem_cons.mp hc with rfl | hc
        · exact hb
        · exact (ih (a + 1)).2 c hc

/-- A filter keeps the canonical form. -/
theorem Mem.wf_filter {m : Mem} (p : Host.Cell → Bool) (h : m.wf = true) : Mem.wf (m.filter p) = true := by
  rw [Mem.wf_iff] at h ⊢
  exact ⟨h.1.filter p, fun c hc => h.2 c (List.mem_of_mem_filter hc)⟩

/-- A write keeps the canonical form. -/
theorem Mem.wf_write {m : Mem} (a : Nat) (bs : List Byte) (h : m.wf = true) : (m.write a bs).wf = true := by
  have h1 := (Mem.wf_iff _).mp (Mem.wf_filter (fun c => decide (c.1 < a)) h)
  have h2 := (Mem.wf_iff _).mp (Mem.wf_cells a bs)
  have h3 := (Mem.wf_iff _).mp (Mem.wf_filter (fun c => decide (a + bs.length ≤ c.1)) h)
  rw [Mem.wf_iff]
  unfold Mem.write
  refine ⟨List.pairwise_append.mpr ⟨List.pairwise_append.mpr ⟨h1.1, h2.1, ?_⟩, h3.1, ?_⟩, ?_⟩
  · intro x hx y hy
    have := (List.mem_filter.mp hx).2
    have := Mem.cells_span hy
    simp at *; omega
  · intro x hx y hy
    have hy' := (List.mem_filter.mp hy).2
    rcases List.mem_append.mp hx with hx | hx
    · have := (List.mem_filter.mp hx).2; simp at *; omega
    · have := Mem.cells_span hx; simp at *; omega
  · intro c hc
    rcases List.mem_append.mp hc with hc | hc
    · rcases List.mem_append.mp hc with hc | hc
      · exact h1.2 c hc
      · exact h2.2 c hc
    · exact h3.2 c hc

@[simp] theorem leBytes_length (n x : Nat) : (leBytes n x).length = n := by
  induction n generalizing x with
  | zero => rfl
  | succ n ih => simp [leBytes, ih]

/-- A number's bytes form the number, modulo their span (R4). -/
theorem leNat_leBytes (n x : Nat) : leNat (leBytes n x) = x % 256 ^ n := by
  induction n generalizing x with
  | zero => simp [leBytes, leNat, Nat.mod_one]
  | succ n ih =>
    simp only [leBytes, leNat, ih, BitVec.toNat_ofNat]
    rw [show 256 ^ (n + 1) = 256 * 256 ^ n by rw [Nat.pow_succ, Nat.mul_comm], Nat.mod_mul]

@[simp] theorem alGet_alSet_same {α : Type} (l : List (Nat × α)) (k : Nat) (x : α) : alGet (alSet l k x) k = some x := by
  induction l with
  | nil => simp [alSet, alGet]
  | cons p l ih =>
    obtain ⟨i, y⟩ := p
    simp only [alSet]
    split
    · simp [alGet]
    · split
      · simp [alGet]
      · next h => simp only [alGet, if_neg h]; exact ih

theorem alGet_alSet_other {α : Type} (l : List (Nat × α)) (k j : Nat) (x : α) (h : j ≠ k) : alGet (alSet l k x) j = alGet l j := by
  induction l with
  | nil => simp [alSet, alGet, Ne.symm h]
  | cons p l ih =>
    obtain ⟨i, y⟩ := p
    simp only [alSet]
    split
    · simp [alGet, Ne.symm h]
    · split
      · next he => subst he; simp [alGet, Ne.symm h]
      · simp only [alGet, ih]

@[simp] theorem vget_vset_same {α : Type} {n : Nat} (v : Vector α n) (i : Nat) (x d : α) (h : i < n) : vget (vset v i x) i d = x := by
  simp [vget, vset, h]

theorem vget_vset_other {α : Type} {n : Nat} (v : Vector α n) (i j : Nat) (x d : α) (h : j ≠ i) : vget (vset v i x) j d = vget v j d := by
  simp [vget, vset, Ne.symm h]

end Sys2Proof.Machine
end

