-- ==== Sys2Proof/Laws/State.lean ====
section
/-!
SUPPORT. One lemma per field per update of the state, so that no proof unfolds a record update: a change of the task under execution
leaves every other field, and each named update is a change of that task.
-/

namespace Sys2Proof.Machine

@[simp] theorem State.modT_t (s : State) (g : Task → Task) : (s.modT g).t = g s.t := rfl
@[simp] theorem State.modT_others (s : State) (g : Task → Task) : (s.modT g).others = s.others := rfl
@[simp] theorem State.modT_turn (s : State) (g : Task → Task) : (s.modT g).turn = s.turn := rfl
@[simp] theorem State.modT_agenda (s : State) (g : Task → Task) : (s.modT g).agenda = s.agenda := rfl
@[simp] theorem State.modT_clk (s : State) (g : Task → Task) : (s.modT g).clk = s.clk := rfl
@[simp] theorem State.modT_ticks (s : State) (g : Task → Task) : (s.modT g).ticks = s.ticks := rfl
@[simp] theorem State.modT_fresh (s : State) (g : Task → Task) : (s.modT g).fresh = s.fresh := rfl
@[simp] theorem State.modT_slots (s : State) (g : Task → Task) : (s.modT g).slots = s.slots := rfl
@[simp] theorem State.modT_tiles (s : State) (g : Task → Task) : (s.modT g).tiles = s.tiles := rfl
@[simp] theorem State.modT_l1 (s : State) (g : Task → Task) : (s.modT g).l1 = s.l1 := rfl
@[simp] theorem State.modT_grants (s : State) (g : Task → Task) : (s.modT g).grants = s.grants := rfl
@[simp] theorem State.modT_banks (s : State) (g : Task → Task) : (s.modT g).banks = s.banks := rfl
@[simp] theorem State.modT_incs (s : State) (g : Task → Task) : (s.modT g).incs = s.incs := rfl
@[simp] theorem State.modT_dies (s : State) (g : Task → Task) : (s.modT g).dies = s.dies := rfl
@[simp] theorem State.modT_mem (s : State) (g : Task → Task) : (s.modT g).mem = s.mem := rfl
@[simp] theorem State.modT_remote (s : State) (g : Task → Task) : (s.modT g).remote = s.remote := rfl
@[simp] theorem State.modT_remoteBad (s : State) (g : Task → Task) : (s.modT g).remoteBad = s.remoteBad := rfl
@[simp] theorem State.modT_replBad (s : State) (g : Task → Task) : (s.modT g).replBad = s.replBad := rfl
@[simp] theorem State.modT_l2 (s : State) (g : Task → Task) : (s.modT g).l2 = s.l2 := rfl
@[simp] theorem State.modT_l2bad (s : State) (g : Task → Task) : (s.modT g).l2bad = s.l2bad := rfl
@[simp] theorem State.modT_bad (s : State) (g : Task → Task) : (s.modT g).bad = s.bad := rfl
@[simp] theorem State.modT_trouble (s : State) (g : Task → Task) : (s.modT g).trouble = s.trouble := rfl
@[simp] theorem State.modT_objs (s : State) (g : Task → Task) : (s.modT g).objs = s.objs := rfl
@[simp] theorem State.modT_pages (s : State) (g : Task → Task) : (s.modT g).pages = s.pages := rfl
@[simp] theorem State.modT_handles (s : State) (g : Task → Task) : (s.modT g).handles = s.handles := rfl
@[simp] theorem State.modT_nextObj (s : State) (g : Task → Task) : (s.modT g).nextObj = s.nextObj := rfl
@[simp] theorem State.modT_pools (s : State) (g : Task → Task) : (s.modT g).pools = s.pools := rfl
@[simp] theorem State.modT_trigs (s : State) (g : Task → Task) : (s.modT g).trigs = s.trigs := rfl
@[simp] theorem State.modT_fired (s : State) (g : Task → Task) : (s.modT g).fired = s.fired := rfl
@[simp] theorem State.modT_wins (s : State) (g : Task → Task) : (s.modT g).wins = s.wins := rfl
@[simp] theorem State.modT_moves (s : State) (g : Task → Task) : (s.modT g).moves = s.moves := rfl
@[simp] theorem State.modT_keys (s : State) (g : Task → Task) : (s.modT g).keys = s.keys := rfl
@[simp] theorem State.modT_ctxs (s : State) (g : Task → Task) : (s.modT g).ctxs = s.ctxs := rfl
@[simp] theorem State.modT_groups (s : State) (g : Task → Task) : (s.modT g).groups = s.groups := rfl
@[simp] theorem State.modT_weirs (s : State) (g : Task → Task) : (s.modT g).weirs = s.weirs := rfl
@[simp] theorem State.modT_transfers (s : State) (g : Task → Task) : (s.modT g).transfers = s.transfers := rfl
@[simp] theorem State.modT_intake (s : State) (g : Task → Task) : (s.modT g).intake = s.intake := rfl
@[simp] theorem State.modT_mason (s : State) (g : Task → Task) : (s.modT g).mason = s.mason := rfl
@[simp] theorem State.modT_reports (s : State) (g : Task → Task) : (s.modT g).reports = s.reports := rfl
@[simp] theorem State.modT_replies (s : State) (g : Task → Task) : (s.modT g).replies = s.replies := rfl
@[simp] theorem State.modT_events (s : State) (g : Task → Task) : (s.modT g).events = s.events := rfl
@[simp] theorem State.modT_hosts (s : State) (g : Task → Task) : (s.modT g).hosts = s.hosts := rfl
@[simp] theorem State.modT_answers (s : State) (g : Task → Task) : (s.modT g).answers = s.answers := rfl
@[simp] theorem State.modT_hostData (s : State) (g : Task → Task) : (s.modT g).hostData = s.hostData := rfl
@[simp] theorem State.modT_walks (s : State) (g : Task → Task) : (s.modT g).walks = s.walks := rfl
@[simp] theorem State.modT_xcache (s : State) (g : Task → Task) : (s.modT g).xcache = s.xcache := rfl
@[simp] theorem State.modT_boot (s : State) (g : Task → Task) : (s.modT g).boot = s.boot := rfl
@[simp] theorem State.modT_pcie (s : State) (g : Task → Task) : (s.modT g).pcie = s.pcie := rfl
@[simp] theorem State.modT_moved (s : State) (g : Task → Task) : (s.modT g).moved = s.moved := rfl
@[simp] theorem State.modT_inbound (s : State) (g : Task → Task) : (s.modT g).inbound = s.inbound := rfl
@[simp] theorem State.modT_placeWait (s : State) (g : Task → Task) : (s.modT g).placeWait = s.placeWait := rfl

@[simp] theorem State.modC_t (s : State) (g : Ctl → Ctl) : (s.modC g).t = { s.t with c := g s.t.c } := rfl
@[simp] theorem State.modC_others (s : State) (g : Ctl → Ctl) : (s.modC g).others = s.others := rfl
@[simp] theorem State.modC_turn (s : State) (g : Ctl → Ctl) : (s.modC g).turn = s.turn := rfl
@[simp] theorem State.modC_agenda (s : State) (g : Ctl → Ctl) : (s.modC g).agenda = s.agenda := rfl
@[simp] theorem State.modC_clk (s : State) (g : Ctl → Ctl) : (s.modC g).clk = s.clk := rfl
@[simp] theorem State.modC_ticks (s : State) (g : Ctl → Ctl) : (s.modC g).ticks = s.ticks := rfl
@[simp] theorem State.modC_fresh (s : State) (g : Ctl → Ctl) : (s.modC g).fresh = s.fresh := rfl
@[simp] theorem State.modC_slots (s : State) (g : Ctl → Ctl) : (s.modC g).slots = s.slots := rfl
@[simp] theorem State.modC_tiles (s : State) (g : Ctl → Ctl) : (s.modC g).tiles = s.tiles := rfl
@[simp] theorem State.modC_l1 (s : State) (g : Ctl → Ctl) : (s.modC g).l1 = s.l1 := rfl
@[simp] theorem State.modC_grants (s : State) (g : Ctl → Ctl) : (s.modC g).grants = s.grants := rfl
@[simp] theorem State.modC_banks (s : State) (g : Ctl → Ctl) : (s.modC g).banks = s.banks := rfl
@[simp] theorem State.modC_incs (s : State) (g : Ctl → Ctl) : (s.modC g).incs = s.incs := rfl
@[simp] theorem State.modC_dies (s : State) (g : Ctl → Ctl) : (s.modC g).dies = s.dies := rfl
@[simp] theorem State.modC_mem (s : State) (g : Ctl → Ctl) : (s.modC g).mem = s.mem := rfl
@[simp] theorem State.modC_remote (s : State) (g : Ctl → Ctl) : (s.modC g).remote = s.remote := rfl
@[simp] theorem State.modC_remoteBad (s : State) (g : Ctl → Ctl) : (s.modC g).remoteBad = s.remoteBad := rfl
@[simp] theorem State.modC_replBad (s : State) (g : Ctl → Ctl) : (s.modC g).replBad = s.replBad := rfl
@[simp] theorem State.modC_l2 (s : State) (g : Ctl → Ctl) : (s.modC g).l2 = s.l2 := rfl
@[simp] theorem State.modC_l2bad (s : State) (g : Ctl → Ctl) : (s.modC g).l2bad = s.l2bad := rfl
@[simp] theorem State.modC_bad (s : State) (g : Ctl → Ctl) : (s.modC g).bad = s.bad := rfl
@[simp] theorem State.modC_trouble (s : State) (g : Ctl → Ctl) : (s.modC g).trouble = s.trouble := rfl
@[simp] theorem State.modC_objs (s : State) (g : Ctl → Ctl) : (s.modC g).objs = s.objs := rfl
@[simp] theorem State.modC_pages (s : State) (g : Ctl → Ctl) : (s.modC g).pages = s.pages := rfl
@[simp] theorem State.modC_handles (s : State) (g : Ctl → Ctl) : (s.modC g).handles = s.handles := rfl
@[simp] theorem State.modC_nextObj (s : State) (g : Ctl → Ctl) : (s.modC g).nextObj = s.nextObj := rfl
@[simp] theorem State.modC_pools (s : State) (g : Ctl → Ctl) : (s.modC g).pools = s.pools := rfl
@[simp] theorem State.modC_trigs (s : State) (g : Ctl → Ctl) : (s.modC g).trigs = s.trigs := rfl
@[simp] theorem State.modC_fired (s : State) (g : Ctl → Ctl) : (s.modC g).fired = s.fired := rfl
@[simp] theorem State.modC_wins (s : State) (g : Ctl → Ctl) : (s.modC g).wins = s.wins := rfl
@[simp] theorem State.modC_moves (s : State) (g : Ctl → Ctl) : (s.modC g).moves = s.moves := rfl
@[simp] theorem State.modC_keys (s : State) (g : Ctl → Ctl) : (s.modC g).keys = s.keys := rfl
@[simp] theorem State.modC_ctxs (s : State) (g : Ctl → Ctl) : (s.modC g).ctxs = s.ctxs := rfl
@[simp] theorem State.modC_groups (s : State) (g : Ctl → Ctl) : (s.modC g).groups = s.groups := rfl
@[simp] theorem State.modC_weirs (s : State) (g : Ctl → Ctl) : (s.modC g).weirs = s.weirs := rfl
@[simp] theorem State.modC_transfers (s : State) (g : Ctl → Ctl) : (s.modC g).transfers = s.transfers := rfl
@[simp] theorem State.modC_intake (s : State) (g : Ctl → Ctl) : (s.modC g).intake = s.intake := rfl
@[simp] theorem State.modC_mason (s : State) (g : Ctl → Ctl) : (s.modC g).mason = s.mason := rfl
@[simp] theorem State.modC_reports (s : State) (g : Ctl → Ctl) : (s.modC g).reports = s.reports := rfl
@[simp] theorem State.modC_replies (s : State) (g : Ctl → Ctl) : (s.modC g).replies = s.replies := rfl
@[simp] theorem State.modC_events (s : State) (g : Ctl → Ctl) : (s.modC g).events = s.events := rfl
@[simp] theorem State.modC_hosts (s : State) (g : Ctl → Ctl) : (s.modC g).hosts = s.hosts := rfl
@[simp] theorem State.modC_answers (s : State) (g : Ctl → Ctl) : (s.modC g).answers = s.answers := rfl
@[simp] theorem State.modC_hostData (s : State) (g : Ctl → Ctl) : (s.modC g).hostData = s.hostData := rfl
@[simp] theorem State.modC_walks (s : State) (g : Ctl → Ctl) : (s.modC g).walks = s.walks := rfl
@[simp] theorem State.modC_xcache (s : State) (g : Ctl → Ctl) : (s.modC g).xcache = s.xcache := rfl
@[simp] theorem State.modC_boot (s : State) (g : Ctl → Ctl) : (s.modC g).boot = s.boot := rfl
@[simp] theorem State.modC_pcie (s : State) (g : Ctl → Ctl) : (s.modC g).pcie = s.pcie := rfl
@[simp] theorem State.modC_moved (s : State) (g : Ctl → Ctl) : (s.modC g).moved = s.moved := rfl
@[simp] theorem State.modC_inbound (s : State) (g : Ctl → Ctl) : (s.modC g).inbound = s.inbound := rfl
@[simp] theorem State.modC_placeWait (s : State) (g : Ctl → Ctl) : (s.modC g).placeWait = s.placeWait := rfl

@[simp] theorem State.modX_t (s : State) (g : Trp → Trp) : (s.modX g).t = { s.t with x := g s.t.x } := rfl
@[simp] theorem State.modX_others (s : State) (g : Trp → Trp) : (s.modX g).others = s.others := rfl
@[simp] theorem State.modX_turn (s : State) (g : Trp → Trp) : (s.modX g).turn = s.turn := rfl
@[simp] theorem State.modX_agenda (s : State) (g : Trp → Trp) : (s.modX g).agenda = s.agenda := rfl
@[simp] theorem State.modX_clk (s : State) (g : Trp → Trp) : (s.modX g).clk = s.clk := rfl
@[simp] theorem State.modX_ticks (s : State) (g : Trp → Trp) : (s.modX g).ticks = s.ticks := rfl
@[simp] theorem State.modX_fresh (s : State) (g : Trp → Trp) : (s.modX g).fresh = s.fresh := rfl
@[simp] theorem State.modX_slots (s : State) (g : Trp → Trp) : (s.modX g).slots = s.slots := rfl
@[simp] theorem State.modX_tiles (s : State) (g : Trp → Trp) : (s.modX g).tiles = s.tiles := rfl
@[simp] theorem State.modX_l1 (s : State) (g : Trp → Trp) : (s.modX g).l1 = s.l1 := rfl
@[simp] theorem State.modX_grants (s : State) (g : Trp → Trp) : (s.modX g).grants = s.grants := rfl
@[simp] theorem State.modX_banks (s : State) (g : Trp → Trp) : (s.modX g).banks = s.banks := rfl
@[simp] theorem State.modX_incs (s : State) (g : Trp → Trp) : (s.modX g).incs = s.incs := rfl
@[simp] theorem State.modX_dies (s : State) (g : Trp → Trp) : (s.modX g).dies = s.dies := rfl
@[simp] theorem State.modX_mem (s : State) (g : Trp → Trp) : (s.modX g).mem = s.mem := rfl
@[simp] theorem State.modX_remote (s : State) (g : Trp → Trp) : (s.modX g).remote = s.remote := rfl
@[simp] theorem State.modX_remoteBad (s : State) (g : Trp → Trp) : (s.modX g).remoteBad = s.remoteBad := rfl
@[simp] theorem State.modX_replBad (s : State) (g : Trp → Trp) : (s.modX g).replBad = s.replBad := rfl
@[simp] theorem State.modX_l2 (s : State) (g : Trp → Trp) : (s.modX g).l2 = s.l2 := rfl
@[simp] theorem State.modX_l2bad (s : State) (g : Trp → Trp) : (s.modX g).l2bad = s.l2bad := rfl
@[simp] theorem State.modX_bad (s : State) (g : Trp → Trp) : (s.modX g).bad = s.bad := rfl
@[simp] theorem State.modX_trouble (s : State) (g : Trp → Trp) : (s.modX g).trouble = s.trouble := rfl
@[simp] theorem State.modX_objs (s : State) (g : Trp → Trp) : (s.modX g).objs = s.objs := rfl
@[simp] theorem State.modX_pages (s : State) (g : Trp → Trp) : (s.modX g).pages = s.pages := rfl
@[simp] theorem State.modX_handles (s : State) (g : Trp → Trp) : (s.modX g).handles = s.handles := rfl
@[simp] theorem State.modX_nextObj (s : State) (g : Trp → Trp) : (s.modX g).nextObj = s.nextObj := rfl
@[simp] theorem State.modX_pools (s : State) (g : Trp → Trp) : (s.modX g).pools = s.pools := rfl
@[simp] theorem State.modX_trigs (s : State) (g : Trp → Trp) : (s.modX g).trigs = s.trigs := rfl
@[simp] theorem State.modX_fired (s : State) (g : Trp → Trp) : (s.modX g).fired = s.fired := rfl
@[simp] theorem State.modX_wins (s : State) (g : Trp → Trp) : (s.modX g).wins = s.wins := rfl
@[simp] theorem State.modX_moves (s : State) (g : Trp → Trp) : (s.modX g).moves = s.moves := rfl
@[simp] theorem State.modX_keys (s : State) (g : Trp → Trp) : (s.modX g).keys = s.keys := rfl
@[simp] theorem State.modX_ctxs (s : State) (g : Trp → Trp) : (s.modX g).ctxs = s.ctxs := rfl
@[simp] theorem State.modX_groups (s : State) (g : Trp → Trp) : (s.modX g).groups = s.groups := rfl
@[simp] theorem State.modX_weirs (s : State) (g : Trp → Trp) : (s.modX g).weirs = s.weirs := rfl
@[simp] theorem State.modX_transfers (s : State) (g : Trp → Trp) : (s.modX g).transfers = s.transfers := rfl
@[simp] theorem State.modX_intake (s : State) (g : Trp → Trp) : (s.modX g).intake = s.intake := rfl
@[simp] theorem State.modX_mason (s : State) (g : Trp → Trp) : (s.modX g).mason = s.mason := rfl
@[simp] theorem State.modX_reports (s : State) (g : Trp → Trp) : (s.modX g).reports = s.reports := rfl
@[simp] theorem State.modX_replies (s : State) (g : Trp → Trp) : (s.modX g).replies = s.replies := rfl
@[simp] theorem State.modX_events (s : State) (g : Trp → Trp) : (s.modX g).events = s.events := rfl
@[simp] theorem State.modX_hosts (s : State) (g : Trp → Trp) : (s.modX g).hosts = s.hosts := rfl
@[simp] theorem State.modX_answers (s : State) (g : Trp → Trp) : (s.modX g).answers = s.answers := rfl
@[simp] theorem State.modX_hostData (s : State) (g : Trp → Trp) : (s.modX g).hostData = s.hostData := rfl
@[simp] theorem State.modX_walks (s : State) (g : Trp → Trp) : (s.modX g).walks = s.walks := rfl
@[simp] theorem State.modX_xcache (s : State) (g : Trp → Trp) : (s.modX g).xcache = s.xcache := rfl
@[simp] theorem State.modX_boot (s : State) (g : Trp → Trp) : (s.modX g).boot = s.boot := rfl
@[simp] theorem State.modX_pcie (s : State) (g : Trp → Trp) : (s.modX g).pcie = s.pcie := rfl
@[simp] theorem State.modX_moved (s : State) (g : Trp → Trp) : (s.modX g).moved = s.moved := rfl
@[simp] theorem State.modX_inbound (s : State) (g : Trp → Trp) : (s.modX g).inbound = s.inbound := rfl
@[simp] theorem State.modX_placeWait (s : State) (g : Trp → Trp) : (s.modX g).placeWait = s.placeWait := rfl

@[simp] theorem State.modV_t (s : State) (g : Vec → Vec) : (s.modV g).t = { s.t with v := g s.t.v } := rfl
@[simp] theorem State.modV_others (s : State) (g : Vec → Vec) : (s.modV g).others = s.others := rfl
@[simp] theorem State.modV_turn (s : State) (g : Vec → Vec) : (s.modV g).turn = s.turn := rfl
@[simp] theorem State.modV_agenda (s : State) (g : Vec → Vec) : (s.modV g).agenda = s.agenda := rfl
@[simp] theorem State.modV_clk (s : State) (g : Vec → Vec) : (s.modV g).clk = s.clk := rfl
@[simp] theorem State.modV_ticks (s : State) (g : Vec → Vec) : (s.modV g).ticks = s.ticks := rfl
@[simp] theorem State.modV_fresh (s : State) (g : Vec → Vec) : (s.modV g).fresh = s.fresh := rfl
@[simp] theorem State.modV_slots (s : State) (g : Vec → Vec) : (s.modV g).slots = s.slots := rfl
@[simp] theorem State.modV_tiles (s : State) (g : Vec → Vec) : (s.modV g).tiles = s.tiles := rfl
@[simp] theorem State.modV_l1 (s : State) (g : Vec → Vec) : (s.modV g).l1 = s.l1 := rfl
@[simp] theorem State.modV_grants (s : State) (g : Vec → Vec) : (s.modV g).grants = s.grants := rfl
@[simp] theorem State.modV_banks (s : State) (g : Vec → Vec) : (s.modV g).banks = s.banks := rfl
@[simp] theorem State.modV_incs (s : State) (g : Vec → Vec) : (s.modV g).incs = s.incs := rfl
@[simp] theorem State.modV_dies (s : State) (g : Vec → Vec) : (s.modV g).dies = s.dies := rfl
@[simp] theorem State.modV_mem (s : State) (g : Vec → Vec) : (s.modV g).mem = s.mem := rfl
@[simp] theorem State.modV_remote (s : State) (g : Vec → Vec) : (s.modV g).remote = s.remote := rfl
@[simp] theorem State.modV_remoteBad (s : State) (g : Vec → Vec) : (s.modV g).remoteBad = s.remoteBad := rfl
@[simp] theorem State.modV_replBad (s : State) (g : Vec → Vec) : (s.modV g).replBad = s.replBad := rfl
@[simp] theorem State.modV_l2 (s : State) (g : Vec → Vec) : (s.modV g).l2 = s.l2 := rfl
@[simp] theorem State.modV_l2bad (s : State) (g : Vec → Vec) : (s.modV g).l2bad = s.l2bad := rfl
@[simp] theorem State.modV_bad (s : State) (g : Vec → Vec) : (s.modV g).bad = s.bad := rfl
@[simp] theorem State.modV_trouble (s : State) (g : Vec → Vec) : (s.modV g).trouble = s.trouble := rfl
@[simp] theorem State.modV_objs (s : State) (g : Vec → Vec) : (s.modV g).objs = s.objs := rfl
@[simp] theorem State.modV_pages (s : State) (g : Vec → Vec) : (s.modV g).pages = s.pages := rfl
@[simp] theorem State.modV_handles (s : State) (g : Vec → Vec) : (s.modV g).handles = s.handles := rfl
@[simp] theorem State.modV_nextObj (s : State) (g : Vec → Vec) : (s.modV g).nextObj = s.nextObj := rfl
@[simp] theorem State.modV_pools (s : State) (g : Vec → Vec) : (s.modV g).pools = s.pools := rfl
@[simp] theorem State.modV_trigs (s : State) (g : Vec → Vec) : (s.modV g).trigs = s.trigs := rfl
@[simp] theorem State.modV_fired (s : State) (g : Vec → Vec) : (s.modV g).fired = s.fired := rfl
@[simp] theorem State.modV_wins (s : State) (g : Vec → Vec) : (s.modV g).wins = s.wins := rfl
@[simp] theorem State.modV_moves (s : State) (g : Vec → Vec) : (s.modV g).moves = s.moves := rfl
@[simp] theorem State.modV_keys (s : State) (g : Vec → Vec) : (s.modV g).keys = s.keys := rfl
@[simp] theorem State.modV_ctxs (s : State) (g : Vec → Vec) : (s.modV g).ctxs = s.ctxs := rfl
@[simp] theorem State.modV_groups (s : State) (g : Vec → Vec) : (s.modV g).groups = s.groups := rfl
@[simp] theorem State.modV_weirs (s : State) (g : Vec → Vec) : (s.modV g).weirs = s.weirs := rfl
@[simp] theorem State.modV_transfers (s : State) (g : Vec → Vec) : (s.modV g).transfers = s.transfers := rfl
@[simp] theorem State.modV_intake (s : State) (g : Vec → Vec) : (s.modV g).intake = s.intake := rfl
@[simp] theorem State.modV_mason (s : State) (g : Vec → Vec) : (s.modV g).mason = s.mason := rfl
@[simp] theorem State.modV_reports (s : State) (g : Vec → Vec) : (s.modV g).reports = s.reports := rfl
@[simp] theorem State.modV_replies (s : State) (g : Vec → Vec) : (s.modV g).replies = s.replies := rfl
@[simp] theorem State.modV_events (s : State) (g : Vec → Vec) : (s.modV g).events = s.events := rfl
@[simp] theorem State.modV_hosts (s : State) (g : Vec → Vec) : (s.modV g).hosts = s.hosts := rfl
@[simp] theorem State.modV_answers (s : State) (g : Vec → Vec) : (s.modV g).answers = s.answers := rfl
@[simp] theorem State.modV_hostData (s : State) (g : Vec → Vec) : (s.modV g).hostData = s.hostData := rfl
@[simp] theorem State.modV_walks (s : State) (g : Vec → Vec) : (s.modV g).walks = s.walks := rfl
@[simp] theorem State.modV_xcache (s : State) (g : Vec → Vec) : (s.modV g).xcache = s.xcache := rfl
@[simp] theorem State.modV_boot (s : State) (g : Vec → Vec) : (s.modV g).boot = s.boot := rfl
@[simp] theorem State.modV_pcie (s : State) (g : Vec → Vec) : (s.modV g).pcie = s.pcie := rfl
@[simp] theorem State.modV_moved (s : State) (g : Vec → Vec) : (s.modV g).moved = s.moved := rfl
@[simp] theorem State.modV_inbound (s : State) (g : Vec → Vec) : (s.modV g).inbound = s.inbound := rfl
@[simp] theorem State.modV_placeWait (s : State) (g : Vec → Vec) : (s.modV g).placeWait = s.placeWait := rfl

@[simp] theorem State.modF_t (s : State) (g : Fet → Fet) : (s.modF g).t = { s.t with f := g s.t.f } := rfl
@[simp] theorem State.modF_others (s : State) (g : Fet → Fet) : (s.modF g).others = s.others := rfl
@[simp] theorem State.modF_turn (s : State) (g : Fet → Fet) : (s.modF g).turn = s.turn := rfl
@[simp] theorem State.modF_agenda (s : State) (g : Fet → Fet) : (s.modF g).agenda = s.agenda := rfl
@[simp] theorem State.modF_clk (s : State) (g : Fet → Fet) : (s.modF g).clk = s.clk := rfl
@[simp] theorem State.modF_ticks (s : State) (g : Fet → Fet) : (s.modF g).ticks = s.ticks := rfl
@[simp] theorem State.modF_fresh (s : State) (g : Fet → Fet) : (s.modF g).fresh = s.fresh := rfl
@[simp] theorem State.modF_slots (s : State) (g : Fet → Fet) : (s.modF g).slots = s.slots := rfl
@[simp] theorem State.modF_tiles (s : State) (g : Fet → Fet) : (s.modF g).tiles = s.tiles := rfl
@[simp] theorem State.modF_l1 (s : State) (g : Fet → Fet) : (s.modF g).l1 = s.l1 := rfl
@[simp] theorem State.modF_grants (s : State) (g : Fet → Fet) : (s.modF g).grants = s.grants := rfl
@[simp] theorem State.modF_banks (s : State) (g : Fet → Fet) : (s.modF g).banks = s.banks := rfl
@[simp] theorem State.modF_incs (s : State) (g : Fet → Fet) : (s.modF g).incs = s.incs := rfl
@[simp] theorem State.modF_dies (s : State) (g : Fet → Fet) : (s.modF g).dies = s.dies := rfl
@[simp] theorem State.modF_mem (s : State) (g : Fet → Fet) : (s.modF g).mem = s.mem := rfl
@[simp] theorem State.modF_remote (s : State) (g : Fet → Fet) : (s.modF g).remote = s.remote := rfl
@[simp] theorem State.modF_remoteBad (s : State) (g : Fet → Fet) : (s.modF g).remoteBad = s.remoteBad := rfl
@[simp] theorem State.modF_replBad (s : State) (g : Fet → Fet) : (s.modF g).replBad = s.replBad := rfl
@[simp] theorem State.modF_l2 (s : State) (g : Fet → Fet) : (s.modF g).l2 = s.l2 := rfl
@[simp] theorem State.modF_l2bad (s : State) (g : Fet → Fet) : (s.modF g).l2bad = s.l2bad := rfl
@[simp] theorem State.modF_bad (s : State) (g : Fet → Fet) : (s.modF g).bad = s.bad := rfl
@[simp] theorem State.modF_trouble (s : State) (g : Fet → Fet) : (s.modF g).trouble = s.trouble := rfl
@[simp] theorem State.modF_objs (s : State) (g : Fet → Fet) : (s.modF g).objs = s.objs := rfl
@[simp] theorem State.modF_pages (s : State) (g : Fet → Fet) : (s.modF g).pages = s.pages := rfl
@[simp] theorem State.modF_handles (s : State) (g : Fet → Fet) : (s.modF g).handles = s.handles := rfl
@[simp] theorem State.modF_nextObj (s : State) (g : Fet → Fet) : (s.modF g).nextObj = s.nextObj := rfl
@[simp] theorem State.modF_pools (s : State) (g : Fet → Fet) : (s.modF g).pools = s.pools := rfl
@[simp] theorem State.modF_trigs (s : State) (g : Fet → Fet) : (s.modF g).trigs = s.trigs := rfl
@[simp] theorem State.modF_fired (s : State) (g : Fet → Fet) : (s.modF g).fired = s.fired := rfl
@[simp] theorem State.modF_wins (s : State) (g : Fet → Fet) : (s.modF g).wins = s.wins := rfl
@[simp] theorem State.modF_moves (s : State) (g : Fet → Fet) : (s.modF g).moves = s.moves := rfl
@[simp] theorem State.modF_keys (s : State) (g : Fet → Fet) : (s.modF g).keys = s.keys := rfl
@[simp] theorem State.modF_ctxs (s : State) (g : Fet → Fet) : (s.modF g).ctxs = s.ctxs := rfl
@[simp] theorem State.modF_groups (s : State) (g : Fet → Fet) : (s.modF g).groups = s.groups := rfl
@[simp] theorem State.modF_weirs (s : State) (g : Fet → Fet) : (s.modF g).weirs = s.weirs := rfl
@[simp] theorem State.modF_transfers (s : State) (g : Fet → Fet) : (s.modF g).transfers = s.transfers := rfl
@[simp] theorem State.modF_intake (s : State) (g : Fet → Fet) : (s.modF g).intake = s.intake := rfl
@[simp] theorem State.modF_mason (s : State) (g : Fet → Fet) : (s.modF g).mason = s.mason := rfl
@[simp] theorem State.modF_reports (s : State) (g : Fet → Fet) : (s.modF g).reports = s.reports := rfl
@[simp] theorem State.modF_replies (s : State) (g : Fet → Fet) : (s.modF g).replies = s.replies := rfl
@[simp] theorem State.modF_events (s : State) (g : Fet → Fet) : (s.modF g).events = s.events := rfl
@[simp] theorem State.modF_hosts (s : State) (g : Fet → Fet) : (s.modF g).hosts = s.hosts := rfl
@[simp] theorem State.modF_answers (s : State) (g : Fet → Fet) : (s.modF g).answers = s.answers := rfl
@[simp] theorem State.modF_hostData (s : State) (g : Fet → Fet) : (s.modF g).hostData = s.hostData := rfl
@[simp] theorem State.modF_walks (s : State) (g : Fet → Fet) : (s.modF g).walks = s.walks := rfl
@[simp] theorem State.modF_xcache (s : State) (g : Fet → Fet) : (s.modF g).xcache = s.xcache := rfl
@[simp] theorem State.modF_boot (s : State) (g : Fet → Fet) : (s.modF g).boot = s.boot := rfl
@[simp] theorem State.modF_pcie (s : State) (g : Fet → Fet) : (s.modF g).pcie = s.pcie := rfl
@[simp] theorem State.modF_moved (s : State) (g : Fet → Fet) : (s.modF g).moved = s.moved := rfl
@[simp] theorem State.modF_inbound (s : State) (g : Fet → Fet) : (s.modF g).inbound = s.inbound := rfl
@[simp] theorem State.modF_placeWait (s : State) (g : Fet → Fet) : (s.modF g).placeWait = s.placeWait := rfl

/-- A change of one engine is a change of the task. -/
theorem State.modC_eq (s : State) (g : Ctl → Ctl) : s.modC g = s.modT fun t => { t with c := g t.c } := rfl
/-- A change of one engine is a change of the task. -/
theorem State.modX_eq (s : State) (g : Trp → Trp) : s.modX g = s.modT fun t => { t with x := g t.x } := rfl
/-- A change of one engine is a change of the task. -/
theorem State.modV_eq (s : State) (g : Vec → Vec) : s.modV g = s.modT fun t => { t with v := g t.v } := rfl
/-- A change of one engine is a change of the task. -/
theorem State.modF_eq (s : State) (g : Fet → Fet) : s.modF g = s.modT fun t => { t with f := g t.f } := rfl

/-- Two changes of the task in a row. -/
@[simp] theorem State.modT_modT (s : State) (g h : Task → Task) : (s.modT g).modT h = s.modT (fun t => h (g t)) := rfl

theorem State.wrS_eq (s : State) (n : BitVec 5) (v : Word) :
    s.wrS n v = s.modT fun t => { t with c := t.c.setS n { val := v, poison := none } } := rfl
theorem State.wrSP_eq (s : State) (n : BitVec 5) (v : Word) (p : Option Deferral) :
    s.wrSP n v p = s.modT fun t => { t with c := t.c.setS n { val := v, poison := p } } := rfl
theorem State.wrC_eq (s : State) (n : BitVec 3) (v : Bool) (p : Option Deferral) :
    s.wrC n v p = s.modT fun t => { t with c := t.c.setCr n { val := v, poison := p } } := rfl
theorem State.setSpad_eq (s : State) (a : Nat) (bs : List Byte) :
    s.setSpad a bs = s.modT fun t =>
      { t with win := t.win.write a bs, v := { t.v with stores := t.v.stores.map (VStore.forget a bs.length) } } := rfl

/-- A scalar register after a write of one: `s0` keeps reading zero (R19). -/
theorem Ctl.sreg_setS (c : Ctl) (d r : BitVec 5) (x : SReg) :
    (c.setS d x).sreg r = if d ≠ 0 ∧ r = d then x else c.sreg r := by
  unfold Ctl.setS
  by_cases hd : d = 0
  · rw [if_pos hd, if_neg (show ¬(d ≠ 0 ∧ r = d) from fun h => h.1 hd)]
  · rw [if_neg hd]
    by_cases hr : r = d
    · subst hr
      rw [if_pos (show r ≠ 0 ∧ r = r from ⟨hd, rfl⟩)]; unfold Ctl.sreg; rw [if_neg hd]
      exact vget_vset_same _ _ _ _ r.isLt
    · rw [if_neg (show ¬(d ≠ 0 ∧ r = d) from fun h => hr h.2)]; unfold Ctl.sreg
      rw [vget_vset_other _ _ _ _ _ (fun h => hr (BitVec.eq_of_toNat_eq h))]

/-- A condition register after a write of one: `c0` keeps reading 1 (R19). -/
theorem Ctl.creg_setCr (c : Ctl) (d r : BitVec 3) (x : CReg) :
    (c.setCr d x).creg r = if d ≠ 0 ∧ r = d then x else c.creg r := by
  unfold Ctl.setCr
  by_cases hd : d = 0
  · rw [if_pos hd, if_neg (show ¬(d ≠ 0 ∧ r = d) from fun h => h.1 hd)]
  · rw [if_neg hd]
    by_cases hr : r = d
    · subst hr
      rw [if_pos (show r ≠ 0 ∧ r = r from ⟨hd, rfl⟩)]; unfold Ctl.creg; rw [if_neg hd]
      exact vget_vset_same _ _ _ _ r.isLt
    · rw [if_neg (show ¬(d ≠ 0 ∧ r = d) from fun h => hr h.2)]; unfold Ctl.creg
      rw [vget_vset_other _ _ _ _ _ (fun h => hr (BitVec.eq_of_toNat_eq h))]

/-- Within a group control goes on to the next word (R26). -/
theorem State.advance_false (s : State) :
    s.advance false = s.modT fun t => { t with c := { t.c with pfx := none, wait := none, pc := t.c.pc + 1 } } := rfl

/-- A word that does not wait reads the registers themselves (R31). -/
theorem Ctl.read_of_none (c : Ctl) (n : BitVec 5) (h : c.wait = none) : c.read n = c.sreg n := by unfold Ctl.read; rw [h]

/-- A word that waits without a capture, as one of the control engine does, reads the registers themselves (R31). -/
theorem Ctl.read_of_nil (c : Ctl) (n : BitVec 5) (w : Wait) (h : c.wait = some w) (hc : w.caps = []) : c.read n = c.sreg n := by
  unfold Ctl.read
  rw [h]
  dsimp only
  rw [hc]
  by_cases hn : n = 0
  · subst hn; rfl
  · rw [if_neg hn]; rfl

/-- A word that blocks changes nothing but its wait, which keeps what it captured (R31, R278). -/
theorem State.block_eq (s : State) (w : Wake) (p : Progress) :
    s.block w p = s.modT fun t => { t with c := { t.c with
      wait := some { progress := p, wake := w, caps := t.c.captured, clk := match t.c.wait with | some x => x.clk | none => 0 } } } := rfl

end Sys2Proof.Machine
end

