-- ==== Sys2Proof/Laws/Keeps.lean ====
section
/-!
SUPPORT. What the shared operations below the words do to memory: each keeps the canonical form of the frames and of what other packages hold,
said once per operation.
-/

namespace Sys2Proof.Machine

/-- Memory stands in canonical form: the frames of this package and what other packages hold. -/
abbrev State.memOk (s : State) : Prop := s.mem.wf = true ∧ s.remote.wf = true

/-- A state with the memory of another is canonical with it. -/
theorem State.memOk_of_eq {s t : State} (h : s.memOk) (h1 : t.mem = s.mem) (h2 : t.remote = s.remote) : t.memOk := by
  unfold State.memOk; rw [h1, h2]; exact h

/-- What every step of a fold keeps, the fold keeps. -/
theorem memOk_foldl {α : Type} {f : State → α → State} (hf : ∀ (s : State) (x : α), s.memOk → (f s x).memOk) (l : List α) (s : State)
    (h : s.memOk) : (l.foldl f s).memOk := by
  induction l generalizing s with
  | nil => exact h
  | cons x l ih => exact ih _ (hf s x h)

/-- Single bytes written one after another keep the canonical form. -/
theorem Mem.wf_foldl_write {α : Type} (l : List α) (k : α → Nat) (b : α → List Byte) (m : Mem) (h : m.wf = true) :
    Mem.wf (l.foldl (fun (m : Mem) x => m.write (k x) (b x)) m) = true := by
  induction l generalizing m with
  | nil => exact h
  | cons x l ih => exact ih _ (Mem.wf_write _ _ h)

@[simp] theorem State.modCtx_mem (s : State) (c : Nat) (f : Ctx → Ctx) : (s.modCtx c f).mem = s.mem := by unfold State.modCtx; split <;> rfl
@[simp] theorem State.modCtx_remote (s : State) (c : Nat) (f : Ctx → Ctx) : (s.modCtx c f).remote = s.remote := by unfold State.modCtx; split <;> rfl
@[simp] theorem State.count_mem (s : State) (c k n : Nat) : (s.count c k n).mem = s.mem := by simp [State.count]
@[simp] theorem State.count_remote (s : State) (c k n : Nat) : (s.count c k n).remote = s.remote := by simp [State.count]
@[simp] theorem State.settle_mem (s : State) : s.settle.mem = s.mem := rfl
@[simp] theorem State.settle_remote (s : State) : s.settle.remote = s.remote := rfl

@[simp] theorem State.ask_mem (s : State) (a b c n : Nat) : (s.ask a b c n).mem = s.mem := by unfold State.ask; split <;> rfl
@[simp] theorem State.ask_remote (s : State) (a b c n : Nat) : (s.ask a b c n).remote = s.remote := by unfold State.ask; split <;> rfl

variable {s : State}

theorem State.ask_memOk (h : s.memOk) (a b c n : Nat) : (s.ask a b c n).memOk := State.memOk_of_eq h (by simp) (by simp)

theorem State.askTier_memOk (h : s.memOk) (c a : Nat) : (s.askTier c a).memOk := State.ask_memOk h _ _ _ _

theorem State.askEp_memOk (h : s.memOk) (c : Nat) (ep : BitVec 12) : (s.askEp c ep).memOk := by
  unfold State.askEp; split
  · exact h
  · exact State.ask_memOk h _ _ _ _

theorem State.askPeer_memOk (h : s.memOk) (c : Nat) (o : Obj) (sh : Nat) : (s.askPeer c o sh).memOk := State.askEp_memOk h _ _

theorem State.count_memOk (h : s.memOk) (c k n : Nat) : (s.count c k n).memOk := State.memOk_of_eq h (by simp) (by simp)

theorem State.poison_memOk (h : s.memOk) (as : List Nat) : (s.poison as).memOk := ⟨h.1, h.2⟩

theorem State.poisonRemote_memOk (h : s.memOk) (k : Nat) : (s.poisonRemote k).memOk := ⟨h.1, h.2⟩

theorem State.putTier_memOk (h : s.memOk) (a : Nat) (d : BitVec 512) : (s.putTier a d).memOk := ⟨Mem.wf_write _ _ h.1, h.2⟩

theorem State.writeBack_memOk (h : s.memOk) (a : Nat) (l : L2Line) (d : BitVec 512) : (s.writeBack a l d).memOk := by
  unfold State.writeBack
  split
  · exact h
  · split
    · dsimp only; split
      · exact State.putTier_memOk h _ _
      · exact ⟨Mem.wf_write _ _ h.1, h.2⟩
    · exact State.putTier_memOk h _ _

theorem State.evictLine_memOk (h : s.memOk) (k w i : Nat) : (s.evictLine k w i).memOk := by
  unfold State.evictLine; extract_lets st l a s1
  have h1 : s1.memOk := by
    show State.memOk (ite _ _ _)
    split
    · exact h
    · split
      · exact State.poison_memOk h _
      · exact State.askTier_memOk (State.writeBack_memOk h _ _ _) _ _
  clear_value s1
  split
  · exact ⟨h1.1, h1.2⟩
  · exact h

theorem State.victim_memOk (h : s.memOk) (ctx k w i : Nat) : (s.victim ctx k w i).memOk := by
  unfold State.victim; dsimp only; split
  · exact State.memOk_of_eq (State.evictLine_memOk h k w i) (State.count_mem ..) (State.count_remote ..)
  · exact State.evictLine_memOk h k w i

theorem State.evictTag_memOk (h : s.memOk) (ctx k w : Nat) : (s.evictTag ctx k w).memOk :=
  memOk_foldl (fun _ _ h => State.victim_memOk h _ _ _ _) _ _ h

theorem State.makeRoom_memOk (ctx k w i n own fuel : Nat) : ∀ (s : State) (ev : Nat), s.memOk →
    ∀ r, State.makeRoom ctx k w i n own fuel s ev = some r → r.1.memOk := by
  induction fuel with
  | zero => intro s ev _ r hr; cases hr
  | succ m ih =>
    intro s ev h r hr
    simp only [State.makeRoom] at hr
    split at hr
    · cases hr; exact h
    · split at hr
      · exact ih _ _ (State.victim_memOk h _ _ _ _) r hr
      · cases hr

theorem State.ensureTag_memOk (h : s.memOk) (ctx : Nat) (pa : BitVec 48) : ∀ r, s.ensureTag ctx pa = some r → r.1.memOk := by
  intro r hr
  simp only [State.ensureTag] at hr
  split at hr
  · cases hr; exact h
  · split at hr
    · cases hr
    · cases hr; exact State.memOk_of_eq (State.evictTag_memOk h _ _ _) rfl rfl

theorem State.place_memOk (h : s.memOk) (ctx : Nat) (pa : BitVec 48) (d : BitVec 512) (dirty : L2Line → BitVec 4) :
    ∀ r, s.place ctx pa d dirty = some r → r.1.memOk := by
  intro r hr
  simp only [State.place] at hr
  split at hr
  · cases hr
  · rename_i s1 w h1
    split at hr
    · cases hr
    · rename_i s2 ev h2
      cases hr
      exact State.memOk_of_eq (State.makeRoom_memOk _ _ _ _ _ _ _ _ _ (State.ensureTag_memOk h _ _ _ h1) _ h2) rfl rfl

theorem State.dropLine_memOk (h : s.memOk) (pa : BitVec 48) : (s.dropLine pa).memOk := by
  unfold State.dropLine; split
  · exact State.memOk_of_eq h rfl rfl
  · exact h

theorem State.dropBad_memOk (h : s.memOk) (pa : BitVec 48) : (s.dropBad pa).memOk := by
  unfold State.dropBad; split
  · split
    · exact State.dropLine_memOk h _
    · exact State.poison_memOk (State.dropLine_memOk h _) _
  · exact h

theorem State.l2lose_memOk (h : s.memOk) (pa : BitVec 48) : (s.l2lose pa).memOk :=
  memOk_foldl (fun _ _ h => State.dropBad_memOk h _) _ _ h

theorem State.unpend_memOk (h : s.memOk) (pa : BitVec 48) : (s.unpend pa).memOk := by
  unfold State.unpend; split <;> exact h

theorem State.l2reserve_memOk (h : s.memOk) (ctx : Nat) (pa : BitVec 48) : ∀ t, s.l2reserve ctx pa = some t → t.memOk := by
  intro t ht
  unfold State.l2reserve at ht
  cases h1 : s.ensureTag ctx pa with
  | none => rw [h1] at ht; cases ht
  | some r =>
    rw [h1] at ht; cases ht
    have h2 := State.ensureTag_memOk h _ _ _ h1
    refine State.askTier_memOk ?_ _ _
    exact ⟨h2.1, h2.2⟩

theorem State.l2install_memOk (h : s.memOk) (pa : BitVec 48) : (s.l2install pa).memOk := by
  unfold State.l2install
  split
  · exact h
  · dsimp only; split
    · exact State.unpend_memOk h _
    · split
      · rename_i hp; exact State.place_memOk h _ _ _ _ _ hp
      · exact State.unpend_memOk h _

theorem State.l2touch_memOk (h : s.memOk) (pa : BitVec 48) : (s.l2touch pa).memOk := by
  unfold State.l2touch; dsimp only; split
  · exact ⟨h.1, h.2⟩
  · exact h

theorem State.l2fill_memOk (h : s.memOk) (ctx : Nat) (pa : BitVec 48) (noalloc counted : Bool) :
    (s.l2fill ctx pa noalloc counted).1.memOk := by
  unfold State.l2fill
  extract_lets s0 d k cnt s1
  have h0 : s0.memOk := State.l2install_memOk h _
  have hc : ∀ (t : State) (n : Nat), t.memOk → (cnt t n).memOk := by
    intro t n ht
    refine State.ask_memOk ?_ _ _ _ _
    split
    · exact State.count_memOk (State.count_memOk ht _ _ _) _ _ _
    · exact ht
  have h1 : s1.memOk := State.askTier_memOk h0 _ _
  clear_value cnt s0 s1
  split
  · exact State.l2lose_memOk h0 _
  · split
    · exact hc _ _ ⟨h0.1, h0.2⟩
    · split
      · exact hc _ _ (State.l2touch_memOk h1 _)
      · split
        · rename_i hp; exact hc _ _ (State.place_memOk h1 _ _ _ _ _ hp)
        · exact State.count_memOk (hc _ _ h1) _ _ _

theorem State.reply_memOk (h : s.memOk) (n : Nat) (v : Word) : (s.reply n v).memOk := by
  unfold State.reply; split <;> exact h

theorem State.l2write_memOk (h : s.memOk) (ctx : Nat) (pa : BitVec 48) (data mask : BitVec 512) (noalloc : Bool) :
    (s.l2write ctx pa data mask noalloc).memOk := by
  unfold State.l2write
  extract_lets t k a old d n n0 t0 t1 hit t2 toTier t3 st
  have ht : ∀ u : State, u.memOk → (toTier u).memOk := by
    intro u hu
    refine State.askTier_memOk ?_ _ _
    split
    · exact State.putTier_memOk hu _ _
    · exact ⟨Mem.wf_write _ _ hu.1, hu.2⟩
  have h0 : t.memOk := State.l2install_memOk h _
  have h1 : t0.memOk := State.count_memOk (State.count_memOk h0 _ _ _) _ _ _
  have h2 : t1.memOk := State.ask_memOk (State.count_memOk h1 _ _ _) _ _ _ _
  have h3 : t2.memOk := by
    show State.memOk (ite _ _ _)
    split
    · exact State.askTier_memOk h2 _ _
    · exact h2
  have h4 : t3.memOk := State.count_memOk h3 _ _ _
  clear_value toTier t0 t1 t2 t3 hit st
  split
  · exact ht _ (State.l2touch_memOk h3 _)
  · split
    · next s' ev hp =>
      have h5 := State.place_memOk h3 _ _ _ _ _ hp
      refine State.count_memOk ?_ _ _ _
      split
      · exact ⟨h5.1, h5.2⟩
      · exact h5
    · split
      · exact ht _ h4
      · split
        · exact ⟨h4.1, h4.2⟩
        · exact ⟨(ht _ h4).1, (ht _ h4).2⟩

theorem State.l2pin_memOk (h : s.memOk) (ctx : Nat) (pa : BitVec 48) : (s.l2pin ctx pa).memOk := by
  unfold State.l2pin
  extract_lets base s1 k st
  have h1 : s1.memOk := memOk_foldl (fun _ _ h => State.l2fill_memOk h _ _ _ _) _ _ h
  clear_value s1
  split
  · exact ⟨h1.1, h1.2⟩
  · exact h1

theorem State.flushLine_memOk (h : s.memOk) (pa : BitVec 48) : (s.flushLine pa).memOk := by
  unfold State.flushLine; split
  · exact State.evictLine_memOk h _ _ _
  · exact h

theorem State.l2invalidate_memOk (h : s.memOk) (f : Nat) (wb : Bool) : (s.l2invalidate f wb).memOk := by
  unfold State.l2invalidate
  extract_lets held
  have : State.memOk (held.foldl (fun s pa => if wb then (s.l2install pa).flushLine pa else (s.l2install pa).dropLine pa) s) := by
    refine memOk_foldl (fun s pa h => ?_) held s h
    split
    · exact State.flushLine_memOk (State.l2install_memOk h _) pa
    · exact State.dropLine_memOk (State.l2install_memOk h _) pa
  exact ⟨this.1, this.2⟩

theorem State.zeroFrame_memOk (h : s.memOk) (f : BitVec 32) : (s.zeroFrame f).memOk :=
  have h1 := State.l2invalidate_memOk h f.toNat false
  ⟨Mem.wf_filter _ h1.1, h1.2⟩

theorem State.freeFrame_memOk (h : s.memOk) (f : BitVec 32) : (s.freeFrame f).memOk :=
  State.memOk_of_eq (State.zeroFrame_memOk h f) rfl rfl

theorem State.freePage_memOk (h : s.memOk) (key : Nat) : (s.freePage key).memOk := by
  unfold State.freePage; split
  · exact h
  · exact State.freeFrame_memOk (s := { s with pages := alDel s.pages key, xcache := s.xcache.filter fun p => p.1 != key }) ⟨h.1, h.2⟩ _

theorem State.ensureFrame_memOk (h : s.memOk) (die : Nat) (oid : BitVec 48) (o : Obj) (sh page : Nat) :
    ∀ t, s.ensureFrame die oid o sh page = .ok t → t.memOk := by
  intro t ht
  simp only [State.ensureFrame] at ht
  split at ht
  · cases ht; exact h
  · split at ht
    · cases ht; exact h
    · split at ht
      · cases ht
      · split at ht
        · cases ht
        · cases ht; exact State.memOk_of_eq (State.zeroFrame_memOk h _) rfl rfl

theorem State.tickFresh_memOk (h : s.memOk) : s.tickFresh.memOk := h

theorem State.peerWeirs_memOk (h : s.memOk) (ctx n : Nat) : (s.peerWeirs ctx n).memOk :=
  memOk_foldl (fun _ _ h => State.count_memOk (State.count_memOk h _ _ _) _ _ _) _ _ h

theorem State.peerFill_memOk (h : s.memOk) (ctx : Nat) (d : BitVec 512) (noalloc : Bool) : (s.peerFill ctx d noalloc).memOk := by
  unfold State.peerFill
  extract_lets s1
  have h1 : s1.memOk := State.tickFresh_memOk (State.peerWeirs_memOk (State.count_memOk h _ _ _) _ _)
  clear_value s1
  split
  · split
    · exact h1
    · exact State.count_memOk h1 _ _ _
  · exact State.count_memOk h1 _ _ _

theorem State.peerWrite_memOk (h : s.memOk) (ctx : Nat) (old d mask : BitVec 512) : (s.peerWrite ctx old d mask).memOk :=
  State.count_memOk (State.count_memOk (State.count_memOk (State.tickFresh_memOk (State.peerWeirs_memOk
    (State.count_memOk (State.count_memOk h _ _ _) _ _ _) _ _)) _ _ _) _ _ _) _ _ _

theorem State.readPeer_memOk (h : s.memOk) (ctx : Nat) (oid : BitVec 48) (o : Obj) (sh a : Nat) (noalloc : Bool) :
    (s.readPeer ctx oid o sh a noalloc).1.memOk := State.peerFill_memOk (State.askEp_memOk h _ _) _ _ _

theorem State.mapLose_memOk (h : s.memOk) (o : Obj) (sh : Nat) : (s.mapLose o sh).memOk := by
  unfold State.mapLose; split
  · exact State.l2lose_memOk h _
  · exact h

theorem State.poisonFar_memOk (h : s.memOk) (oid : BitVec 48) (o : Obj) (sh a : Nat) : (s.poisonFar oid o sh a).memOk := by
  unfold State.poisonFar; split
  · exact ⟨h.1, h.2⟩
  · exact State.poisonRemote_memOk h _

theorem State.failLine_memOk (h : s.memOk) (ctx : Nat) (oid : BitVec 48) (o : Obj) (sh a e : Nat) :
    (s.failLine ctx oid o sh a e).memOk := by
  have h1 := State.askEp_memOk h ctx (s.nearest o sh)
  unfold State.failLine; dsimp only
  split
  · exact State.mapLose_memOk h _ _
  · split
    · split
      · exact State.poisonFar_memOk h1 _ _ _ _
      · exact h1
    · split
      · split
        · exact State.l2lose_memOk h _
        · exact h
      · exact h

theorem State.readLine_memOk (h : s.memOk) (ctx : Nat) (oid : BitVec 48) (o : Obj) (sh off : Nat) (noalloc : Bool) :
    (s.readLine ctx oid o sh off noalloc).1.memOk := by
  unfold State.readLine; dsimp only
  split
  · exact State.failLine_memOk h ..
  · split
    · exact State.readPeer_memOk h ..
    · split
      · exact State.count_memOk h ..
      · exact State.l2fill_memOk h _ _ _ _

theorem State.l1put_memOk (h : s.memOk) (core : Nat) (oid : BitVec 48) (line : Nat) (d : BitVec 512) : (s.l1put core oid line d).memOk := by
  simp only [State.l1put]; split <;> exact h

theorem State.hitL1_memOk (h : s.memOk) (ctx : Nat) (d : BitVec 512) : (s.hitL1 ctx d).memOk :=
  State.count_memOk (State.count_memOk h ..) ..

theorem State.readLineL1_memOk (h : s.memOk) (core ctx : Nat) (oid : BitVec 48) (o : Obj) (sh off : Nat) (noalloc : Bool) :
    (s.readLineL1 core ctx oid o sh off noalloc).1.memOk := by
  have h1 := State.readLine_memOk h ctx oid o sh off noalloc
  simp only [State.readLineL1]
  split
  · exact h1
  · split
    · exact State.hitL1_memOk h ..
    · split
      · rename_i e; rw [e] at h1; exact State.l1put_memOk h1 _ _ _ _
      · exact h1

theorem State.readBytes_memOk (core ctx : Nat) (oid : BitVec 48) (o : Obj) (sh : Nat) (noalloc l1 : Bool) (fuel : Nat) :
    ∀ (s : State) (off n : Nat), s.memOk → (State.readBytes core ctx oid o sh noalloc l1 fuel s off n).1.memOk := by
  induction fuel with
  | zero => intro s off n h; exact h
  | succ m ih =>
    intro s off n h
    have h1 : (if l1 then s.readLineL1 core ctx oid o sh off noalloc else s.readLine ctx oid o sh off noalloc).1.memOk := by
      split
      · exact State.readLineL1_memOk h ..
      · exact State.readLine_memOk h ..
    simp only [State.readBytes]
    split
    · exact h
    · split
      · rename_i e; rw [e] at h1; exact h1
      · rename_i s' d e; rw [e] at h1
        have h2 := ih s' (off + min n (64 - off % 64)) (n - min n (64 - off % 64)) h1
        split
        · rename_i e2; rw [e2] at h2; exact h2
        · exact h2

theorem State.readObj_memOk (h : s.memOk) (core ctx : Nat) (oid : BitVec 48) (o : Obj) (sh off n : Nat) (noalloc l1 : Bool) :
    (s.readObj core ctx oid o sh off n noalloc l1).1.memOk := State.readBytes_memOk _ _ _ _ _ _ _ _ _ _ _ h

theorem tearMem_wf (m : Mem) (a fresh : Nat) (data mask : BitVec 512) (h : m.wf = true) : Mem.wf (tearMem m a fresh data mask) = true := by
  unfold tearMem
  generalize List.range 64 = l
  induction l generalizing m with
  | nil => exact h
  | cons k l ih =>
    refine ih _ ?_
    dsimp only
    split
    · exact Mem.wf_write _ _ h
    · exact h

theorem State.tearLine_memOk (h : s.memOk) (a : Nat) (data mask : BitVec 512) : (s.tearLine a data mask).memOk :=
  ⟨tearMem_wf _ _ _ _ _ h.1, h.2⟩

theorem State.tearRemote_memOk (h : s.memOk) (a : Nat) (data mask : BitVec 512) : (s.tearRemote a data mask).memOk :=
  ⟨h.1, tearMem_wf _ _ _ _ _ h.2⟩

theorem State.l1merge_memOk (h : s.memOk) (core : Nat) (oid : BitVec 48) (line : Nat) (d m : BitVec 512) :
    (s.l1merge core oid line d m).memOk := ⟨h.1, h.2⟩

theorem State.putPeer_memOk (h : s.memOk) (ctx key : Nat) (data mask : BitVec 512) : (s.putPeer ctx key data mask).memOk := by
  unfold State.putPeer; dsimp only
  refine State.peerWrite_memOk ?_ _ _ _ _
  exact ⟨h.1, Mem.wf_write _ _ h.2⟩

theorem State.writePeer_memOk (h : s.memOk) (ctx : Nat) (oid : BitVec 48) (o : Obj) (sh a : Nat) (data mask : BitVec 512) :
    (s.writePeer ctx oid o sh a data mask).1.memOk := by
  unfold State.writePeer
  extract_lets key t whole
  have h1 : t.memOk := State.askPeer_memOk h ctx o sh
  clear_value t
  split
  · split
    · exact State.putPeer_memOk h1 _ _ _ _
    · exact State.poisonRemote_memOk (State.tearRemote_memOk h1 _ _ _) _
  · exact State.tearRemote_memOk h1 _ _ _
  · split
    · exact State.tearRemote_memOk h1 _ _ _
    · exact State.putPeer_memOk h1 _ _ _ _

theorem State.tearHeld_memOk (h : s.memOk) (pa : BitVec 48) (data mask : BitVec 512) : (s.tearHeld pa data mask).memOk :=
  State.tearLine_memOk (State.flushLine_memOk h _) _ _ _

theorem State.putLine_memOk (h : s.memOk) (core ctx : Nat) (oid : BitVec 48) (o : Obj) (sh off : Nat) (data mask : BitVec 512)
    (noalloc : Bool) : (s.putLine core ctx oid o sh off data mask noalloc).1.memOk := by
  unfold State.putLine
  extract_lets a s1
  have h1 : s1.memOk := State.l1merge_memOk h _ _ _ _ _
  have h2 := State.writePeer_memOk h1 ctx oid o sh a data mask
  clear_value s1
  split
  · exact State.mapLose_memOk h _ _
  · split
    · cases hw : s1.writePeer ctx oid o sh a data mask with
      | mk s2 e =>
        rw [hw] at h2
        cases e
        · exact h2
        · exact ⟨h2.1, h2.2⟩
    · split
      · exact h
      · extract_lets pa part
        split
        · exact State.tearHeld_memOk h _ _ _
        · split
          · exact State.tearHeld_memOk h _ _ _
          · split
            · exact State.tearLine_memOk (State.l2lose_memOk h _) _ _ _
            · exact State.l2write_memOk h1 ctx pa data mask noalloc

theorem State.noteRoom_memOk (h : s.memOk) (oid : BitVec 48) : (s.noteRoom oid).memOk := ⟨h.1, h.2⟩

theorem State.writeLine_memOk (h : s.memOk) (core ctx : Nat) (oid : BitVec 48) (o : Obj) (sh off : Nat) (data mask : BitVec 512)
    (noalloc : Bool) : (s.writeLine core ctx oid o sh off data mask noalloc).1.memOk := by
  have h1 := State.putLine_memOk h core ctx oid o sh off data mask noalloc
  unfold State.writeLine; dsimp only; split
  · exact State.noteRoom_memOk h1 _
  · exact h1

theorem State.writeBytes_memOk (core ctx : Nat) (oid : BitVec 48) (o : Obj) (sh : Nat) (noalloc : Bool) (fuel : Nat) :
    ∀ (s : State) (off : Nat) (bs : List Byte), s.memOk → (State.writeBytes core ctx oid o sh noalloc fuel s off bs).1.memOk := by
  induction fuel with
  | zero => intro s off bs h; exact h
  | succ m ih =>
    intro s off bs h
    simp only [State.writeBytes]
    split
    · exact h
    · exact ih _ _ _ (State.writeLine_memOk h ..)

theorem State.writeObj_memOk (h : s.memOk) (core ctx : Nat) (oid : BitVec 48) (o : Obj) (sh off : Nat) (bs : List Byte) (noalloc : Bool) :
    (s.writeObj core ctx oid o sh off bs noalloc).1.memOk := State.writeBytes_memOk _ _ _ _ _ _ _ _ _ _ h

theorem State.poke_memOk (h : s.memOk) (oid : BitVec 48) (o : Obj) (off : Nat) (bs : List Byte) : (s.poke oid o off bs).memOk :=
  State.writeObj_memOk h ..

theorem State.ringAppend_memOk (h : s.memOk) (oid : BitVec 48) (o : Obj) (n words entry : Nat) : (s.ringAppend oid o n words entry).memOk :=
  State.poke_memOk (State.poke_memOk h ..) ..

/-- What a device notes at a ring that is not usable keeps the memories' form (R49, R97). -/
theorem State.noteRing_memOk (h : s.memOk) (c r unit least : Nat) : (s.noteRing c r unit least).memOk := by
  unfold State.noteRing
  split
  · unfold State.reportTrap; dsimp only; split <;> exact h
  · exact h
  · split
    · split
      · split
        · exact State.l2lose_memOk h _
        · exact h
      · exact h
    · exact h

theorem State.logPage_memOk (h : s.memOk) (c wctx : Nat) (oid : BitVec 48) (page key : Nat) :
    ∀ t, s.logPage c wctx oid page key = .ok t → t.memOk := by
  intro t ht
  have hm : ∀ (s : State) (f : Ctx → Ctx), s.memOk → (s.modCtx c f).memOk := fun s f h => State.memOk_of_eq h (by simp) (by simp)
  unfold State.logPage at ht
  split at ht
  · cases ht; exact h
  · split at ht
    · cases ht; exact h
    · dsimp only at ht
      split at ht
      · cases ht; exact hm _ _ (State.noteRing_memOk h _ _ _ _)
      · split at ht
        · cases ht
        · split at ht
          · cases ht; exact State.count_memOk (State.ringAppend_memOk (hm _ _ h) _ _ _ _ _) _ _ _
          · cases ht

theorem State.logWrite_memOk (wctx : Nat) (oid : BitVec 48) (page key : Nat) (cs : List Nat) :
    ∀ s : State, s.memOk → ∀ t, s.logWrite wctx oid page key cs = .ok t → t.memOk := by
  induction cs with
  | nil => intro s h t ht; cases ht; exact h
  | cons c cs ih =>
    intro s h t ht
    simp only [State.logWrite] at ht
    split at ht
    · rename_i e; exact ih _ (State.logPage_memOk h _ _ _ _ _ _ e) t ht
    · rename_i e; exact absurd ht (e t)

theorem State.prepPages_memOk (die ctx : Nat) (oid : BitVec 48) (o : Obj) (sh : Nat) (ps : List Nat) :
    ∀ s : State, s.memOk → ∀ t, State.prepPages die ctx oid o sh ps s = .ready t → t.memOk := by
  induction ps with
  | nil => intro s h t ht; cases ht; exact h
  | cons p ps ih =>
    intro s h t ht
    simp only [State.prepPages] at ht
    split at ht
    · cases ht
    · rename_i e1
      split at ht
      · cases ht
      · cases ht
      · rename_i e2
        exact ih _ (State.logWrite_memOk _ _ _ _ _ _ (State.ensureFrame_memOk h _ _ _ _ _ _ e1) _ e2) t ht

theorem State.dropL1_memOk (h : s.memOk) (oid : BitVec 48) : (s.dropL1 oid).memOk := h

theorem State.removeObj_memOk (h : s.memOk) (oid : BitVec 48) : (s.removeObj oid).memOk := by
  have one : ∀ (s : State) (oid : BitVec 48), s.memOk →
      State.memOk (let s := ((s.pagesHeld oid).foldl State.freePage s).dropL1 oid
        { s with objs := alDel s.objs oid.toNat, remote := s.remote.filter fun c => c.1 / 2 ^ 52 != oid.toNat,
                 wins := s.wins.filter fun w => w.oid != oid }) := by
    intro s oid h
    have h1 := State.dropL1_memOk (memOk_foldl (f := State.freePage) (fun _ _ h => State.freePage_memOk h _) (s.pagesHeld oid) s h) oid
    exact ⟨h1.1, Mem.wf_filter _ h1.2⟩
  unfold State.removeObj
  dsimp only
  split
  · exact h
  · refine State.memOk_of_eq (one _ oid ?_) rfl rfl
    split
    · exact h
    · exact one _ _ h

theorem State.prefetchLine_memOk (h : s.memOk) (ctx : Nat) (oid : BitVec 48) (o : Obj) (pin : Bool) (sh off : Nat) :
    (s.prefetchLine ctx oid o pin sh off).memOk := by
  unfold State.prefetchLine
  split
  · exact State.askEp_memOk h _ _
  · split
    · exact h
    · split
      · exact State.l2pin_memOk h _ _
      · exact State.l2fill_memOk h _ _ _ _

theorem State.prefetch_memOk (h : s.memOk) (ctx : Nat) (oid : BitVec 48) (o : Obj) (ls : List (Nat × Nat)) :
    (s.prefetch ctx oid o ls).memOk := by
  refine memOk_foldl (fun s l h => ?_) _ _ h
  split
  · exact State.failLine_memOk h ..
  · exact State.prefetchLine_memOk h ..

theorem State.setObj_memOk (h : s.memOk) (oid : BitVec 48) (o : Obj) : (s.setObj oid o).memOk := ⟨h.1, h.2⟩

theorem State.settle_memOk (h : s.memOk) : s.settle.memOk := ⟨h.1, h.2⟩

theorem State.freeFrames_memOk (h : s.memOk) (l : List (Nat × BitVec 32)) : (l.foldl (fun (s : State) p => s.freeFrame p.2) s).memOk :=
  memOk_foldl (fun _ _ h => State.freeFrame_memOk h _) l s h

theorem State.abandonMove_memOk (h : s.memOk) (m : Move) : (s.abandonMove m).memOk := by
  unfold State.abandonMove
  split
  · exact h
  · extract_lets s1 s2
    have h1 : s1.memOk := State.freeFrames_memOk h m.frames
    clear_value s1
    have h2 : s2.memOk := by
      show State.memOk (ite _ _ _)
      split
      · exact ⟨h1.1, Mem.wf_filter _ h1.2⟩
      · exact h1
    clear_value s2
    refine State.settle_memOk (State.reply_memOk (State.setObj_memOk ?_ _ _) _ _)
    exact ⟨h2.1, h2.2⟩

theorem State.copyPages_memOk (h : s.memOk) (m : Move) : (s.copyPages m).memOk := by
  unfold State.copyPages
  extract_lets frames s1
  have h1 : s1.memOk := State.dropL1_memOk (memOk_foldl (f := fun (s : State) (f : BitVec 32) => s.l2invalidate f.toNat true)
    (fun _ _ h => State.l2invalidate_memOk h _ _) frames s h) m.oid
  clear_value s1
  rename State => s2
  have h2 : s2.memOk := by
    show State.memOk (ite _ _ _)
    split
    · refine memOk_foldl (fun s k h => ?_) _ _ h1
      exact ⟨h.1, Mem.wf_foldl_write (s.pageBytes k) (fun c => remOfPage k + c.1) (fun c => [c.2]) _ h.2⟩
    · refine memOk_foldl (fun s p h => ?_) _ _ h1
      have h2 := State.zeroFrame_memOk h p.2
      exact ⟨Mem.wf_foldl_write _ _ _ _ h2.1, h2.2⟩
  clear_value s2
  exact ⟨h2.1, h2.2⟩

/-- Frames taken for a move change the pools alone (R65). -/
theorem State.takeFrames_memOk (h : s.memOk) (die tier n : Nat) : ∀ r, s.takeFrames die tier n = some r → r.2.memOk := by
  intro r hr
  have key : ∀ (l : List Nat) (acc : List (BitVec 32) × State), acc.2.memOk →
      State.memOk (l.foldl (fun (acc : List (BitVec 32) × State) k =>
        let d := (die + k) % 4
        let p := acc.2.pool d tier
        let m := n - acc.1.length
        (acc.1 ++ p.take m, { acc.2 with pools := alSet acc.2.pools (d * 2 + tier) (p.drop m) })) acc).2 := by
    intro l
    induction l with
    | nil => intro acc ha; exact ha
    | cons k l ih => intro acc ha; exact ih _ ha
  have h1 := key (List.range 4) ([], s) h
  unfold State.takeFrames at hr
  dsimp only at hr
  split at hr
  · cases hr; exact h1
  · cases hr

theorem State.moveFrames_memOk (h : s.memOk) (die : Nat) (o : Obj) (res : BitVec 2) (fresh n : Nat) :
    ∀ r, s.moveFrames die o res fresh n = some r → r.2.memOk := by
  intro r hr
  unfold State.moveFrames at hr
  split at hr
  · cases hr
  · exact State.takeFrames_memOk h _ _ _ _ hr

theorem State.copyMove_memOk (h : s.memOk) (m : Move) : (s.copyMove m).memOk := by
  unfold State.copyMove
  split
  · exact h
  · dsimp only
    split
    · exact State.abandonMove_memOk h _
    · rename_i r hr
      exact State.copyPages_memOk (State.moveFrames_memOk h _ _ _ _ _ _ hr) _

theorem State.commitMove_memOk (h : s.memOk) (m : Move) : (s.commitMove m).memOk := by
  unfold State.commitMove
  split
  · exact h
  · extract_lets old kept gone s1 s2 o'
    have h1 : s1.memOk := ⟨h.1, Mem.wf_filter _ h.2⟩
    clear_value s1
    have h2 : s2.memOk := State.freeFrames_memOk h1 old
    clear_value s2
    exact State.settle_memOk (State.reply_memOk (s := s2.tickFresh.setObj m.oid o') ⟨h2.1, h2.2⟩ _ _)

theorem State.unpendLine_memOk (h : s.memOk) (oid : BitVec 48) (sh off : Nat) : (s.unpendLine oid sh off).memOk := by
  unfold State.unpendLine; split
  · exact State.unpend_memOk h _
  · exact h

theorem State.unpendRuns_memOk (h : s.memOk) (oid : BitVec 48) (rs : List (Nat × Nat × Nat)) : (s.unpendRuns oid rs).memOk :=
  memOk_foldl (fun _ _ h => State.unpendLine_memOk h _ _ _) _ _ h

theorem State.reserveLine_memOk (h : s.memOk) (core ctx : Nat) (l1 : Bool) (oid : BitVec 48) (o : Obj) (sh off : Nat) :
    (s.reserveLine core ctx l1 oid o sh off).memOk := by
  unfold State.reserveLine
  split
  · exact h
  · rename_i pa _
    split
    · exact h
    · cases hr : s.l2reserve ctx pa with
      | none => exact h
      | some t => exact State.l2reserve_memOk h ctx pa t hr

/-- A replica that is made here keeps the memories' form (R58). -/
theorem State.copyHere_memOk (h : s.memOk) (die : Nat) (oid : BitVec 48) (o : Obj) : ∀ t, s.copyHere die oid o = some t → t.memOk := by
  intro t ht
  unfold State.copyHere at ht
  dsimp only at ht
  cases hr : s.moveFrames die o 1 (s.replicaPages oid o).length (s.replicaPages oid o).length with
  | none => rw [hr] at ht; cases ht
  | some r =>
    rw [hr] at ht; cases ht
    refine memOk_foldl (fun u p hu => ?_) _ _ (State.moveFrames_memOk h _ _ _ _ _ _ hr)
    have h1 := State.zeroFrame_memOk hu p.2
    exact ⟨Mem.wf_foldl_write _ _ _ _ h1.1, h1.2⟩

theorem State.recount_memOk (h : s.memOk) (c k n : Nat) : (s.recount c k n).memOk := by
  unfold State.recount; split
  · exact h
  · exact State.memOk_of_eq h (by simp) (by simp)

/-- A line write that is sent keeps the memories' form (R99). -/
theorem State.sendLine_memOk (h : s.memOk) (oid : BitVec 48) (o : Obj) (noalloc : Bool) (b : LBuf) : (s.sendLine oid o noalloc b).1.memOk := by
  have h1 := State.writeLine_memOk h s.core s.t.ctx oid o (keyShard b.key) (keyOff b.key) (s.lineData oid o b) b.mask noalloc
  simp only [State.sendLine]
  split
  · exact h1
  · exact State.recount_memOk h1 _ _ _

/-- Bits of a line write that are put into their line keep it (R99). -/
theorem State.landLine_memOk (h : s.memOk) (oid : BitVec 48) (o : Obj) (noalloc : Bool) (b : LBuf) : (s.landLine oid o noalloc b).1.memOk := by
  have h1 := State.writeLine_memOk h s.core s.t.ctx oid o (keyShard b.key) (keyOff b.key) b.data b.due noalloc
  simp only [State.landLine]
  split
  · exact h
  · split
    · rename_i e; rw [e] at h1; exact h1
    · rename_i e; rw [e] at h1
      exact memOk_foldl (fun _ _ h => State.recount_memOk h _ _ _) _ _ h1

/-- Line writes landed in turn keep it. -/
theorem State.landLines_memOk (oid : BitVec 48) (o : Obj) (noalloc : Bool) (bs : List LBuf) :
    ∀ s : State, s.memOk → (State.landLines oid o noalloc bs s).1.memOk := by
  induction bs with
  | nil => intro s h; exact h
  | cons b bs ih => intro s h; exact ih _ (State.landLine_memOk h oid o noalloc b)

/-- Line writes sent in turn keep it. -/
theorem State.sendLines_memOk (oid : BitVec 48) (o : Obj) (noalloc : Bool) (bs : List LBuf) :
    ∀ s : State, s.memOk → (State.sendLines oid o noalloc bs s).1.memOk := by
  induction bs with
  | nil => intro s h; exact h
  | cons b bs ih => intro s h; exact ih _ (State.sendLine_memOk h oid o noalloc b)

end Sys2Proof.Machine
end

