-- ==== Sys2Proof/Laws/Words.lean ====
section
/-!
SUPPORT. What the shared operations behind the words do, said once: the first poisoned source, a write of one register,
starting a loop, the frame that a word of the vector, matrix or fetch engine runs in, and the end of a task.
A proof about a word cites these and unfolds no shared operation.
-/

namespace Sys2Proof.Laws

open Sys2Proof Sys2Proof.Machine Sys2Proof.Claims

/-- The first poisoned source is the first deferral in the list (R246). -/
theorem firstPoison_eq_findSome (l : List (Option Deferral)) : firstPoison l = l.findSome? id := by
  induction l with
  | nil => rfl
  | cons x l ih => cases x <;> simp [firstPoison, ih]

/-- A write of one scalar register writes that register and nothing else (R244). -/
theorem setS_scalarSet (s : State) (d : BitVec 5) (x : SReg) : scalarSet s (s.modC fun c => c.setS d x) d x := by
  constructor
  · simp only [onlyScalars, State.modC, Ctl.setS]; split <;> rfl
  · intro r; exact Ctl.sreg_setS _ _ _ _

/-- A write of one condition register writes that register and nothing else (R244). -/
theorem setCr_conditionSet (s : State) (d : BitVec 3) (x : CReg) : conditionSet s (s.modC fun c => c.setCr d x) d x := by
  constructor
  · simp only [State.modC, Ctl.setCr]; split <;> rfl
  · intro r; exact Ctl.creg_setCr _ _ _ _

/-- An unpoisoned source raises no POISON trap (R247). -/
theorem poisoned_one {s : State} {a : BitVec 5} {w : Who} (h : okS s a) : s.poisoned w [s.pS a] = none := by
  simp only [State.poisoned, State.pS, List.find?, okS] at *; rw [h]; rfl

/-- Two unpoisoned sources raise no POISON trap (R247). -/
theorem poisoned_two {s : State} {a b : BitVec 5} {w : Who} (h : okS s a) (h' : okS s b) :
    s.poisoned w [s.pS a, s.pS b] = none := by
  simp only [State.poisoned, State.pS, List.find?, okS] at *; rw [h, h']; rfl

/-- A word run for the first time was woken by nothing. -/
theorem wakeOf_firstTime {s : State} (h : firstTime s) : s.wakeOf = .other := by
  simp only [firstTime] at h; simp [State.wakeOf, h]

/-- A word run for the first time has no progress of an earlier run. -/
theorem progress_firstTime {s : State} (h : firstTime s) : s.progress = .plain := by
  simp only [firstTime] at h; simp [State.progress, h]

/-- A word that waits for no service of Mason goes on at once. -/
theorem afterMason_plain (s : State) (h : s.progress = .plain) (k : Res) : s.afterMason k = k := by
  simp [State.afterMason, h]

/-- One loop's registers after a write of one loop's registers (R255). -/
theorem vget_vset_loop (v : Vector Loop 4) (l m : BitVec 2) (x d : Loop) :
    vget (vset v l.toNat x) m.toNat d = if m = l then x else vget v m.toNat d := by
  by_cases h : m = l
  · subst h; rw [if_pos rfl]; exact vget_vset_same _ _ _ _ m.isLt
  · rw [if_neg h]; exact vget_vset_other _ _ _ _ _ (fun e => h (BitVec.eq_of_toNat_eq e))

/-- A loop that is not active, and whose body ends no later than the innermost loop's, starts, or is left out where its
count is 0 (R255, R259). -/
theorem startLoop_next (s : State) (S : Bool) (w : Who) (l : BitVec 2) (count : Word) (n : Nat)
    (hc : (s.t.c.loop l).count = 0)
    (hn : ∀ m, s.t.c.stack.head? = some m → s.afterGroup S + BitVec.ofNat 64 n - 1 ≤ (s.t.c.loop m).last) :
    s.startLoop S w l count n = .next ((if count = 0 then
        s.transfer (.goto (s.afterGroup S + BitVec.ofNat 64 n - 1 + 1))
      else s.modC fun c => { c with
        loops := vset c.loops l.toNat { start := s.afterGroup S, last := s.afterGroup S + BitVec.ofNat 64 n - 1,
                                        count := count },
        stack := l :: c.stack }).advance S) := by
  unfold State.startLoop
  simp only [hc]
  rw [if_neg (show ¬ ((0 : Word) ≠ 0) from fun q => q rfl)]
  refine (if_neg ?_).trans ?_
  · cases hs : s.t.c.stack with
    | nil => exact Bool.false_ne_true
    | cons m _ => simpa using BitVec.not_lt.mp (BitVec.not_lt.mpr (hn m (by rw [hs]; rfl)))
  · by_cases h : count = 0
    · rw [if_pos h, if_pos h]
    · rw [if_neg h, if_neg h]

/-- The word at the head of the vector queue has its effect and leaves the queue (R26, R32). -/
theorem vword_atHead {e : QEntry} {s : State} (h : atHead e s) (S : Bool) (i : Instr) (hi : e.w = i)
    (eff : QEntry → State → State) : s.vword S i eff = .next ((eff e s).vecDone e) := by
  obtain ⟨h1, h2, h3⟩ := h
  simp [State.vword, h1, h2, h3, hi]

/-- A matrix word that the engine serves leaves the queue and spends the core's grant (R202). -/
theorem mword_served {e : QEntry} {s : State} (h : atMatrix e s) (S : Bool) (i : Instr) (hi : e.w = i)
    (eff : QEntry → Served1) (s1 : State) (he : eff e = .done s1) :
    s.mword S i eff =
      .next { s1 with grants := s1.grants.erase s1.t.part, t := { s1.t with mq := s1.t.mq.drop 1, eligAt := none } } := by
  obtain ⟨h1, h2, h3, h4⟩ := h
  simp [State.mword, h1, h2, h3, hi, h4, he, State.spendGrant, State.modT]

/-- A matrix word that waits leaves the machine as it was. -/
theorem mword_waits {e : QEntry} {s : State} (h : atMatrix e s) (S : Bool) (i : Instr) (hi : e.w = i)
    (eff : QEntry → Served1) (he : eff e = .waits) : s.mword S i eff = .next s := by
  obtain ⟨h1, h2, h3, h4⟩ := h
  simp [State.mword, h1, h2, h3, hi, h4, he]

/-- A trap that becomes pending joins those that pend (R296). -/
theorem addTrap_perm (x : Trp) (p : PTrap) : (x.addTrap p).pending.Perm (x.pending ++ [p]) := by
  simp only [Trp.addTrap, List.append_assoc]
  refine (List.perm_append_comm.append_left _).trans ?_
  rw [← List.append_assoc]
  exact (List.filter_append_perm _ x.pending).append_right [p]

/-- A matrix word that traps hands its trap to the control engine (R202, R296). -/
theorem mword_traps {e : QEntry} {s : State} (h : atMatrix e s) (S : Bool) (i : Instr) (hi : e.w = i)
    (eff : QEntry → Served1) (x : TrapInfo) (hx : exec i s = s.mword S i eff) (he : eff e = .trap s x) :
    matrixTraps i e s x := by
  obtain ⟨h1, h2, h3, h4⟩ := h
  refine ⟨_, addTrap_perm _ _, ?_⟩
  rw [hx]
  simp [State.mword, h1, h2, h3, hi, h4, he, State.spendGrant, State.matHalt, State.pendTrap, State.modX, State.modT, State.die, State.core]
  rfl

/-- A word of a fetch queue that no release can hold back has its effect (R105, R120). -/
theorem fword_view {e : QEntry} {s : State} (h : atFetch e s) (S : Bool) (i : Instr) (hi : e.w = i)
    (hr : releasable i = false) (eff : QEntry → State) : s.fword S i eff = .next (eff e) := by
  obtain ⟨h1, h2⟩ := h
  simp only [State.fword, h1, h2, hi, ne_eq, not_true, if_false, hr]
  cases s.t.f.frel <;> rfl

/-- With no FREL before it, a word of a fetch queue has its effect (R105, R120). -/
theorem fword_command {e : QEntry} {s : State} (h : atFetch e s) (S : Bool) (i : Instr) (hi : e.w = i)
    (hr : s.t.f.frel = none) (eff : QEntry → State) : s.fword S i eff = .next (eff e) := by
  obtain ⟨h1, h2⟩ := h
  simp only [State.fword, h1, h2, hi, ne_eq, not_true, if_false, hr]

/-- The four bytes at place k of a list of four-byte values laid end to end. -/
theorem cells_flatMap_get (f : Nat → Nat) (n k : Nat) (hk : k < n) (j : Nat) (hj : j < 4) :
    (Mem.cells 0 ((List.range n).flatMap fun i => leBytes 4 (f i))).get (4 * k + j) = (leBytes 4 (f k)).getD j 0 := by
  have hl : ∀ x, (leBytes 4 x).length = 4 := fun x => rfl
  have key : ∀ n, ((List.range n).flatMap fun i => leBytes 4 (f i)).length = 4 * n := by
    intro n; induction n with
    | zero => rfl
    | succ n ih => rw [List.range_succ, List.flatMap_append, List.length_append, ih]; simp [hl]; omega
  have hd : ∀ n, k < n →
      ((List.range n).flatMap fun i => leBytes 4 (f i)).getD (4 * k + j) 0 = (leBytes 4 (f k)).getD j 0 := by
    intro n hn
    induction n with
    | zero => omega
    | succ n ih =>
      rw [List.range_succ, List.flatMap_append]
      by_cases h : k < n
      · rw [List.getD_append _ _ _ _ (by rw [key]; omega), ih h]
      · have : k = n := by omega
        subst this
        rw [List.getD_append_right _ _ _ _ (by rw [key]; omega), key]
        simp
  have hlt : 4 * k + j < ((List.range n).flatMap fun i => leBytes 4 (f i)).length := by rw [key]; omega
  have := Mem.get_cells 0 ((List.range n).flatMap fun i => leBytes 4 (f i)) (4 * k + j) hlt
  rw [Nat.zero_add] at this
  rw [this, ← hd n hk, List.getD_eq_getElem _ _ hlt]

/-- Settling a task changes no task's ID. -/
theorem settleTask_id (s : State) (t : Task) : (s.settleTask t).id = t.id := by
  simp only [State.settleTask]; split <;> (try split) <;> (try split) <;> rfl

/-- The same tasks are there, under the same IDs, and the task under execution is in the same state. -/
def sameTasks (s s' : State) : Prop :=
  (s'.t.id = s.t.id ∧ s'.t.st = s.t.st) ∧ s'.others.map (·.id) = s.others.map (·.id)

theorem sameTasks_trans {a b c : State} (h : sameTasks a b) (h' : sameTasks b c) : sameTasks a c :=
  ⟨⟨h'.1.1.trans h.1.1, h'.1.2.trans h.1.2⟩, h'.2.trans h.2⟩

/-- A change of one task that keeps its ID and its state keeps the tasks. -/
theorem modTask_sameTasks (s : State) (i : BitVec 64) (f : Task → Task) (hf : ∀ t, (f t).id = t.id ∧ (f t).st = t.st) :
    sameTasks s (s.modTask i f) := by
  constructor
  · simp only [State.modTask, State.mapTasks]; split <;> simp [hf]
  · simp only [State.modTask, State.mapTasks, List.map_map]; congr 1; funext t; simp only [Function.comp]; split <;> simp [hf]

/-- Leaving a group keeps the tasks. -/
theorem leaveGroup_sameTasks (s : State) (t : Task) (g : Nat) : sameTasks s (s.leaveGroup t g) := by
  simp only [State.leaveGroup]
  split
  · exact ⟨⟨rfl, rfl⟩, rfl⟩
  · have := modTask_sameTasks s t.id (fun t => { t with grp := vset t.grp g none }) (fun t => ⟨rfl, rfl⟩)
    split
    · exact this
    · split <;> exact this

/-- An action of the fetch engine that must have room for its traps does nothing or goes through (R124). -/
theorem unlessFull_or (s t : State) : s.unlessFull t = s ∨ s.unlessFull t = t := by
  unfold State.unlessFull; split <;> simp

/-- It leaves no more than eight traps behind the first that it did not find. -/
theorem unlessFull_fetTraps (s t : State) : (s.unlessFull t).fetTraps ≤ max 9 s.fetTraps := by
  unfold State.unlessFull; split <;> omega

theorem unlessFull_roomFor (s t : State) : s.unlessFull t = roomFor s t := rfl

/-- A release with an access of the task still open waits; any other atomic goes on (R238). -/
theorem afterRelease_waits {s : State} (h : s.coherentOpen = true) (k : Res) : s.afterRelease true k = .next (s.block .other .plain) := by
  simp [State.afterRelease, h]

theorem afterRelease_goes {s : State} {r : Bool} (h : r = true → s.coherentOpen = false) (k : Res) : s.afterRelease r k = k := by
  cases r
  · simp [State.afterRelease]
  · simp [State.afterRelease, h rfl]

/-- A word whose request is answered or needs no reply has its effect (R73). -/
theorem orNoReply_answered {s : State} {e : Nat × Nat} (h : s.unanswered s.progress e.1 = none) (w : Wake) (k : Res) :
    s.orNoReply w e k = k := by
  simp [State.orNoReply, h]

/-- Until then the word waits with its access resolved (R55, R73). -/
theorem orNoReply_waits {s : State} {e : Nat × Nat} {x : Word} (h : s.unanswered s.progress e.1 = some x) (w : Wake) (k : Res) :
    s.orNoReply w e k = .next (s.block w (.asked x)) := by
  simp [State.orNoReply, h]

/-- An access whose lines need no tier, or whose request has gone out, reads at once (R88). -/
theorem onceRead_goes {s : State} {i : Instr} {a : Acc} {l1 : Bool} {rs : List (Nat × Nat × Nat)} {v v2 : Word}
    (h : s.runsMiss a l1 rs = false ∨ ∃ x, s.progress = .asked x) (k : Res) : s.onceRead i a l1 rs v v2 k = k := by
  unfold State.onceRead
  rcases h with h | ⟨x, h⟩
  · split <;> simp [h]
  · simp [h]

/-- With no write going on in the background anywhere, none goes on (R240). -/
theorem storesGo_none {s : State} (h : ∀ u ∈ s.tasks, u.st = .running → u.c.stores = []) : s.storesGo = s := by
  have : (s.tasks.filter fun t => t.st == .running && !t.c.stores.isEmpty) = [] := by
    rw [List.filter_eq_nil_iff]
    intro u hu
    by_cases hr : u.st = .running
    · simp [h u hu hr]
    · simp [hr]
  simp [State.storesGo, this]

end Sys2Proof.Laws
end

