-- ==== Sys2Proof/Tests/Slice0.lean ====
section
/-!
SUPPORT. Our own tests: ill-formed terms that the checks refuse, words written out from the spec's encodings, a few single steps, and for
every statement with hypotheses a witness that meets them.
-/

namespace Sys2Proof.Tests

set_option Elab.async false

open Sys2Proof.Machine Sys2Proof.Claims

/-! ### Well-formedness: one ill-formed term for each check. -/

/-- The reserved values of the entries (R18, R28). -/
theorem test_wf_reserved :
    ([.cmp true 0 0 0 6, .cmpi true 0 0 7 0, .loop true 0 0 0, .loopi true 0 5 0, .csrr true 0 0x011, .csrw true 0 0x050, .pub true 0 3,
      .waitw true 0 0 0 3, .hqry true 0 0 0 9, .hqry true 0 0 4 5, .ctxset true 0 0 0 7, .ctxset true 0 0 0 0x1A, .vicmp true 0 0 0 6 3,
      .vqmx true 0 0 5 true 0 false 3, .vdqmx true 0 0 5 true 2, .fill true 0 0 3, .fpre true 0 3] : List Instr).map Instr.check
      = List.replicate 17 (some Illegal.reservedField) := by decide

/-- The types that the entries do not accept (R20, R175). -/
theorem test_wf_types :
    ([.vadd true 0 0 0 0 3, .vtbl true 0 0 0 0 5, .viadd true 0 0 0 0 2, .viabs true 0 0 0 6, .vcvt true 0 0 15 0 0, .vcvts true 0 0 0 0 5,
      .vqmx true 0 0 2 false 0 false 0, .vdqmx true 0 0 8 false 0, .vtrw true 0 0 0 12 0, .vtcr true 0 0 0 0 15, .mdrn true 0 0 3 5 false false false,
      .mdrn true 0 0 0 0 false true false, .mdrs true 0 0 0 0 false false false] : List Instr).map Instr.check
      = List.replicate 13 (some Illegal.typeRejected) := by decide

/-- A prefix stands before its words only, and an `MMA` prefix has its own checks (R23, R209). -/
theorem test_wf_prefix :
    Instr.acceptsPfx (.add true 0 0 0) = false ∧ Instr.acceptsPfx (.addi true 0 0 0) = true ∧
    Instr.pfxCheck (.mma true 0 0 0 0) 0x1 = some .reservedField ∧ Instr.pfxCheck (.mma true 0 0 0 0) 0x180 = some .typeRejected := by decide

/-! ### Decoding: words that the spec's listings and encoding tables write out. -/

/-- Scalar and flow words (R15, R245 to R258). -/
theorem test_decode_scalar :
    [0x84060000, 0x840986A0, 0x03063100, 0x80021100, 0x00871180, 0x80A81180, 0x814C4AC0, 0x85212200, 0x86A04005, 0x86E08000, 0x08041800,
     0x082A0002, 0x08410000].map decode =
    [.ok (.li true 6 0), .ok (.li true 9 0x86A0), .ok (.addi false 6 6 0x100), .ok (.add true 2 2 4), .ok (.div false 7 2 6 false),
     .ok (.rem true 8 2 6 false), .ok (.shr true 12 9 11), .ok (.cmpi true 1 4 2 0), .ok (.loop true 0 1 5), .ok (.lexit true 1),
     .ok (.lds false 4 3 0), .ok (.sts false 10 0 2), .ok (.mbrd false 1 0)] := by decide

/-- Words on objects, handles, tasks and contexts (R58 to R62, R232 to R242, R275 to R291, R315 to R326). -/
theorem test_decode_tasks :
    [0x8915150A, 0x54072A83, 0xD0030800, 0xD0200000, 0xD0400000, 0xD0C010C0, 0xD0E00001, 0xD1040004, 0xD1203001, 0xD14D4242, 0xD1600002,
     0xD1800000, 0x51AA2800, 0x51AC3801, 0xD500002A, 0xD5200000, 0xD5432141, 0xD6030800, 0xD6830800, 0xD6A30800, 0xD6C30800, 0xD6E30880,
     0xD7030880].map decode =
    [.ok (.xld true 21 2 20 true false 2), .ok (.hqry false 7 5 10 3), .ok (.spawn true 3 1 false), .ok (.taskEnd true), .ok (.yield true),
     .ok (.gjoin true 0 2 3), .ok (.gleave true 1), .ok (.barr true 4 true 0), .ok (.bwait true 6 1), .ok (.waitw true 13 8 9 2),
     .ok (.tks true 2), .ok (.tkw true 0), .ok (.mclaim false 10 5 false), .ok (.mclaim false 12 7 true), .ok (.trap true 42), .ok (.eret true),
     .ok (.notify true 3 4 5 1), .ok (.ctxnew true 3 1), .ok (.ctxstop true 3 1), .ok (.ctxrevoke true 3 1 false), .ok (.ctxdel true 3 1),
     .ok (.logarm true 3 1 2), .ok (.perfr true 3 1 2 false)] := by decide

/-- Vector words (R160 to R200). -/
theorem test_decode_vector :
    [0x10030880, 0x90440880, 0x91413800, 0x91680208, 0x11C83800, 0x923DE001, 0x98052000, 0x9A349818, 0x1C811003, 0x9CC62803, 0x9CE00003,
     0x20023000, 0xA0230000, 0xA1800200].map decode =
    [.ok (.vadd false 3 1 2 0 0), .ok (.vmul true 4 1 2 0 0), .ok (.vcmp true 1 7 0 0 0), .ok (.vsel true 8 0 8 1 0), .ok (.vrsq false 8 7 0 0),
     .ok (.vtbl true 29 28 0 0 1), .ok (.vrsum true 5 4 0 0), .ok (.vcvts true 20 19 0 3 0), .ok (.vbcst false 1 2 0 3), .ok (.vperm true 6 5 0 0 3),
     .ok (.vnop true 3), .ok (.vld false 2 6 0), .ok (.vst true 3 0 0), .ok (.vtld true 0 0 8)] := by decide

/-- Matrix and fetch words (R101 to R122, R205 to R226), and a word of an engine that does not exist (R17). -/
theorem test_decode_queues :
    [0xB004102A, 0x3020408D, 0xB0440000, 0xB0846100, 0x30C04200, 0xB0E40003, 0xB1200000, 0x40000800, 0xC0011000, 0x40202141, 0xC0212141,
     0xC0844100, 0xC1210801, 0xC1610000, 0x41A30002, 0x41C00000, 0xC1E03940, 0x60000001].map decode =
    [.ok (.mma true 2 4 5 2), .ok (.mmat false 0 16 17 5), .ok (.mzero true 2), .ok (.mdrn true 2 6 1 0 false false false),
     .ok (.mrel false 16 true), .ok (.mwait true 2 3), .ok (.mtks true 0), .ok (.fview false 0 1 0), .ok (.fview true 1 2 0),
     .ok (.fdim false 0 4 5 1), .ok (.fdim true 1 4 5 1), .ok (.fill true 17 0 1), .ok (.fbind true 1 1 false true), .ok (.fcopy true 1 0),
     .ok (.fpre false 3 2), .ok (.frel false 0), .ok (.fdone true 7 5 false), .ok (.pfx 1)] ∧
    decode 0x70000000 = .error .engineUndefined := by decide

/-! ### A small machine for the witnesses: a root context 1 with one child, a running task, a few objects with their handles. -/

/-- A context record with the fields that the witnesses need (R312), scaled by the size of its handle table. -/
def recordOf (size : Nat) (handler : Nat) : BitVec 2048 :=
  BitVec.ofNat 2048 (2 ^ 464 * 0xFFFFFFFFF007 + 2 ^ 512 + 2 ^ 551 * size + 2 ^ 564 * size + 2 ^ 581 * 100 + 2 ^ 608 * (size / 10) + 2 ^ 616 * size
    + 2 ^ 640 * (10 * size) + 2 ^ 672 * 0xFF + 2 ^ 736 * 1000 + ((List.range 7).map fun n => 2 ^ (1280 + 64 * n) * handler).sum
    + if size = 100 then 2 ^ 1728 * (2 ^ 12 - 1) else 0)

/-- A context record of 10 handles with ways of its own. -/
def lean : BitVec 2048 := BitVec.ofNat 2048 (2 ^ 616 * 10 + 2 ^ 640 * 100 + 2 ^ 672 * 0xFF00)

/-- A code handler in handle 3 at offset 8 (R296). -/
def handler : Nat := 2 ^ 63 + 3 * 2 ^ 32 + 8

/-- A context with a parent and a state. -/
def ctxOf (parent : Nat) (st : CtxSt) (cr : BitVec 2048) : Ctx :=
  { cr := cr, parent := parent, depth := if parent = 0xFFF then 0 else 1, st := st, ring := 0, log := none, counters := [] }

/-- A linear unsharded object of 64 elements, at home here and held in tier res. -/
def objOf (fmt : BitVec 4) (coherent : Bool) (res : BitVec 2) : Obj :=
  { rank := 1, coherent := coherent, sealed := false, hostsh := true, fmt := fmt, mxk := 0, layout := 0, ext := #v[64, 1, 1, 1], shsize := 64,
    shcnt := 0, split := 0, home := 5, res := res, moving := false, version := 0, keyslot := 0, hmap := 0, ownerEp := 5, ownerCtx := 1, repl := [],
    xmap := 0, rsv := 0, pubs := [] }

/-- A task of context 1 on partition 0 in its running phase, with a window of 64 KiB, slot quota 16 and tiles 0 and 1. -/
def taskOf (rs : List (Nat × Word)) (w : IWord) : Task :=
  { Task.idle with
    st := .running, id := 0x10000, tr := BitVec.ofNat 1024 (2 ^ 224 * 65536 + 2 ^ 200 * 16 + 2 ^ 208 * 3), ctx := 1, part := 0, core := some 0,
    c := { Ctl.reset with
      s := rs.foldl (fun v r => vset v r.1 { val := r.2, poison := none }) Ctl.reset.s
      codeH := 3, codeO := 12, phase := .running, words := [w] } }

/-- The machine: objects 10 (versioned), 11 (coherent), 12 (code), 13 (a ring) and 14 (versioned, in the fast tier), under handles 1 to 5. -/
def demo (rs : List (Nat × Word)) : State :=
  { State.reset with
    t := taskOf rs 0x84060005
    objs := [(10, objOf 0 false 2), (11, objOf 8 true 2), (12, objOf 14 false 2), (13, objOf 14 true 2), (14, objOf 0 false 0)]
    handles := (List.range 5).map fun n => (2 ^ 24 + n + 1, HEntry.full (BitVec.ofNat 48 (n + 10)))
    ctxs := [(1, ctxOf 0xFFF .running (recordOf 100 handler)), (2, ctxOf 1 .stopped (recordOf 10 0)),
             (3, ctxOf 1 .deleting 0)]
    pools := [(0, [9, 10, 11])]
    keys := [(0, 5)]
    boot := { Boot.reset with step := 6, ep := 5, members := [5, 6, 7], portsUp := true, masonImg := some 1, rootImg := some 1,
                              layout := { spn := List.replicate 48 8, roots := [] } } }

/-- A register with a deferral record. -/
def poisonedReg : SReg :=
  { val := 0, poison := some { info := { cause := .bounds, x0 := 0, x1 := 0, x2 := 0, x3 := 0 }, org := 4 } }

/-- The small machine with register 1 poisoned. -/
def badReg : State :=
  let s := demo []
  { s with t := { s.t with c := { s.t.c with s := vset s.t.c.s 1 poisonedReg, c := vset s.t.c.c 1 { val := true, poison := poisonedReg.poison } } } }

/-- The small machine in a handler, which serves trap cause 5 of word 7 in its own code. -/
def inHandler : State :=
  let s := demo [(1, 8)]
  { s with t := { s.t with x := { s.t.x with hmode := true, xcode := 3, xpc := 7 } } }

/-- A machine with a loop under way: loop 1 from word 2 to word 5, count n. -/
def looping (n pc : Word) : State :=
  let s := demo [(1, 3)]
  { s with t := { s.t with c := { s.t.c with
    pc := pc, loops := vset s.t.c.loops 1 { start := 2, last := 5, count := n }, stack := [1] } } }

/-- A check that passes with what p holds of. -/
def passes {α : Type} (c : Chk α) (p : α → Bool) : Bool := match c with | .ok a => p a | _ => false

theorem exists_of_passes {α : Type} {c : Chk α} {p : α → Bool} (h : passes c p = true) : ∃ a, c = .ok a ∧ p a = true := by
  cases c with
  | ok a => exact ⟨a, rfl, h⟩
  | stall => cases h
  | trap i => cases h

/-- A check that fails with a trap of which p holds. -/
def trapsWith {α : Type} (c : Chk α) (p : TrapInfo → Bool) : Bool := match c with | .trap i => p i | _ => false

theorem exists_of_trapsWith {α : Type} {c : Chk α} {p : TrapInfo → Bool} (h : trapsWith c p = true) : ∃ i, c = .trap i ∧ p i = true := by
  cases c with
  | ok a => cases h
  | stall => cases h
  | trap i => exact ⟨i, rfl, h⟩

theorem exists_of_isSome {α : Type} {c : Option α} (h : c.isSome = true) : ∃ a, c = some a := Option.isSome_iff_exists.mp h

/-- A task record: code in handle 3 at word 8, a window of 64 KiB (R267). -/
def taskRecord : Nat := 2 ^ 136 * 3 + 2 ^ 160 * 8 + 2 ^ 224 * 65536

/-- The small machine with bytes at the start of its window. -/
def withWindow (s : State) (n v : Nat) : State := { s with t := { s.t with win := Mem.write [] 0 (leBytes n v) } }

/-- The pool of die 0 with n entries filled. -/
def poolOf (n : Nat) : State :=
  let s := withWindow (demo [(1, 0)]) 128 taskRecord
  { s with others := (List.range n).map fun k => { Task.idle with st := .parked, id := BitVec.ofNat 64 k } }

theorem mem_poolOf {n e : Nat} (h : e < n) (hn : n ≤ 4096) : e ∈ (poolOf n).filled 0 := by
  have ho : (poolOf n).others = (List.range n).map fun k => { Task.idle with st := .parked, id := BitVec.ofNat 64 k } := rfl
  have ht : (poolOf n).tasks = (poolOf n).t :: (poolOf n).others := by
    unfold State.tasks; exact if_neg (show TaskSt.running ≠ .none by decide)
  unfold State.filled
  rw [ht, ho]
  refine List.mem_map.mpr ⟨_, List.mem_filter.mpr ⟨List.mem_cons_of_mem _ (List.mem_map.mpr ⟨e, List.mem_range.mpr h, rfl⟩), ?_⟩, ?_⟩
  · simp only [dieOfId, beq_iff_eq, BitVec.extractLsb'_toNat, BitVec.toNat_ofNat, Nat.shiftRight_eq_div_pow]; omega
  · simp only [BitVec.extractLsb'_toNat, BitVec.toNat_ofNat, Nat.shiftRight_eq_div_pow]; omega

theorem poolOf_full {n : Nat} (hn : n = Config.poolSize) : (poolOf n).freeEntry 0 = none := by
  unfold State.freeEntry
  dsimp only
  rw [List.find?_eq_none]
  intro e he
  have h : e < n := by rw [hn]; exact List.mem_range.mp he
  simpa using mem_poolOf h (by rw [hn]; exact Nat.le_refl _)

/-- The small machine past a group whose `END` waits to take effect. -/
def ending (q : List QEntry) : State :=
  let s := demo []
  { s with t := { s.t with c := { s.t.c with phase := .ending }, v := { s.t.v with q := q } } }

/-- A queue entry of a word with captured scalars. -/
def entryOf (i : Instr) (caps : List Word) : QEntry :=
  { w := i, pfx := none, caps := caps, pc := 0, gseq := 0, sr := { seed := 0, stream := 0, count := 0 }, ports := Vector.replicate 4 0, was := none }

/-- The small machine with a fetch write to handle 1 that has not completed. -/
def writing : State :=
  let s := demo [(1, 1)]
  let v := { View.zero with handle := 1 }
  let a : FCmd := { seq := 0, e := entryOf (.fst true 0 1 2) [0, 0], v := v, v2 := View.zero, oid := 10, oid2 := 0, rel := none, beg := 0, begun := true, ok := true,
                    pos := 0, outst := [], ended := false, halted := false, mason := none, fail := none, err := false, esub := 0, list := [], badRows := [],
                    buf := [], chunk := none, quit := none }
  { s with t := { s.t with f := { s.t.f with act := some a } } }

/-- The small machine with group 5 of its context: its limit, its members, the task in slot 0 or not. -/
def grouped (limit members : Nat) (inside : Bool) : State :=
  let s := demo [(1, 5), (2, 2)]
  { s with groups := [(gkey 1 5, { limit := limit, members := members, arrived := 0, gen := 0 })]
           t := { s.t with grp := if inside then vset s.t.grp 0 (some { gid := 5, arrived := none }) else s.t.grp } }

/-- The small machine with slot 4 in a state, owned by the task or by another. -/
def slotted (st : SlotSt) (owner : BitVec 64) (quota : Nat) : State :=
  let s := demo [(1, 4)]
  { s with slots := [(4, { Slot.reset with st := st, owner := owner })],
           t := { s.t with tr := BitVec.ofNat 1024 (2 ^ 224 * 65536 + 2 ^ 200 * quota) } }

/-- The small machine with its word waiting for the answer to request 3. -/
def sent (mason : List Req) (replies : List (Nat × Word)) : State :=
  let s := demo [(1, 0), (2, 0)]
  { s with mason := mason, replies := replies, t := { s.t with c := { s.t.c with wait := some { progress := .sent 3, clk := 0, wake := .reply } } } }

/-- The small machine with a request for service n at the head of Mason's queue. -/
def asking (s : State) (n : BitVec 6) (a b : Word) (bs : List Byte) : State := { s with mason := [.omcall 3 1 0 n a b bs] }

/-- A creation record: rank 1, 64 elements of F32, in the bulk tier, unsharded (R62). -/
def creation : List Byte := leBytes 64 (1 + 2 ^ 13 + 2 ^ 64 * 64 + 2 ^ 96 + 2 ^ 128 + 2 ^ 160 + 2 ^ 192 * 64)

/-- The small machine with one object in place of object 10. -/
def withObj (o : Obj) : State := { demo [] with objs := [(10, o)] }

/-- The small machine with a move of object 14 under way. -/
def moving (copied : Bool) : State :=
  let s := demo []
  { s with moves := [{ oid := 14, res := 1, ep := 0, frames := [], copied := copied, no := 3 }],
           objs := [(14, { objOf 0 false 0 with moving := true })] }

/-- A trigger record: a prefetch of object 14 in handle 5 when object 10 in handle 1 reaches version 1 (R69). -/
def triggerRecord : List Byte := leBytes 32 (1 + 2 ^ 32 + 2 ^ 64 * 5)

/-- The child of the small machine's context. -/
theorem child_of_demo (rs : List (Nat × Word)) (h : ((demo rs).rs (1 : BitVec 5)).val = 2) : childOf (demo rs) ((demo rs).rs (1 : BitVec 5)).val := by
  rw [h]; exact ⟨ctxOf 1 .stopped (recordOf 10 0), List.mem_cons_of_mem _ List.mem_cons_self, rfl⟩

/-- The small machine with a task of the child parked by a reflected trap that context 1 was told of. -/
def reflectedChild : State :=
  { demo [(1, 2), (2, 5)] with others := [{ Task.idle with st := .reflected, id := 5, ctx := 2, told := 1 }] }

/-- The small machine whose `CTXSTOP` or `CTXDEL` of context 2 has begun, with a task of that context running or not. -/
def stopping (running : Bool) : State :=
  let s := demo [(1, 2)]
  { s with others := if running then [{ Task.idle with st := .running, id := 5, ctx := 2, part := 1 }] else []
           t := { s.t with c := { s.t.c with wait := some { progress := .begun 2, clk := 0, wake := .other } } } }

theorem not_deleting_2 (rs : List (Nat × Word)) (h : ((demo rs).rs (1 : BitVec 5)).val = 2) : ¬ ctxIn (demo rs) ((demo rs).rs (1 : BitVec 5)).val .deleting := by
  rw [h]
  rintro ⟨x, hx, hd⟩
  have h2 : alGet (demo []).ctxs 2 = some (ctxOf 1 .stopped (recordOf 10 0)) := by decide +kernel
  unfold State.ctx at hx
  rw [show (demo rs).ctxs = (demo []).ctxs from rfl, show (2 : Word).toNat = 2 from rfl, h2] at hx
  rw [← Option.some.inj hx] at hd
  exact nomatch hd

/-- The small machine with the word i at the head of the vector queue at its engine's turn, with slots, tokens and a tile. -/
def vecAt (i : Instr) (caps : List Word) : State :=
  let s := demo []
  { s with turn := .vector, t := { s.t with tok := Vector.replicate 8 1, v := { s.t.v with q := [entryOf i caps] } } }

/-- The small machine whose vector queue holds group 0, dispatched whole, of one word. -/
def stepping (i : Instr) (occ : Nat) (halted : Bool) : State :=
  let s := demo []
  { s with t := { s.t with c := { s.t.c with gseq := 1 }, v := { s.t.v with q := [entryOf i [0]], occ := occ, halted := halted } } }

/-- The small machine with the word i at the head of the matrix queue at its turn with the grant, and slots 4 and 5. -/
def matAt (i : Instr) (caps : List Word) (x y : Slot) : State :=
  let s := demo []
  { s with turn := .matrix, grants := [0], slots := [(4, x), (5, y)], t := { s.t with mq := [entryOf i caps] } }

/-- A slot of the task's in a state, with an arrangement and format. -/
def mySlot (st : SlotSt) (arr : Arr) (fmt : Fmt) : Slot := { Slot.reset with st := st, owner := 0x10000, arr := arr, fmt := fmt }

/-- The small machine with the word i at the head of the fetch queue at its engine's turn, with a view of a handle. -/
def fetAt (i : Instr) (caps : List Word) (v : View) : State :=
  let s := demo []
  { s with turn := .fetch, t := { s.t with f := { s.t.f with q := [entryOf i caps], w := Vector.replicate 16 v } } }

/-- A view of a handle with one row of n elements. -/
def viewOf (h : BitVec 24) (n : BitVec 16) : View :=
  { View.zero with handle := h, step := Vector.replicate 4 1, extm := vset (Vector.replicate 4 0) 0 (n - 1) }

/-- A convolution shape over 8 by 8 points of 32 channels, and an object of that shape (R112). -/
def shape8 : BitVec 512 :=
  BitVec.ofNat 512 (1 + 2 ^ 32 * 8 + 2 ^ 64 * 8 + 2 ^ 96 * 32 + 2 ^ 128 + 2 ^ 144 + 2 ^ 160 + 2 ^ 176 + 2 ^ 192 + 2 ^ 208)

/-- A fetch word at its turn over objects of 8-bit elements, with slot 4 of the task's in a state. -/
def fetSlot (i : Instr) (caps : List Word) (v : View) (st : SlotSt) : State :=
  let o := { objOf 3 false 2 with rank := 4, ext := #v[32, 8, 8, 1], shsize := 32 }
  { fetAt i caps v with slots := [(4, mySlot st .a .e4m3)], objs := [(10, objOf 3 false 2), (11, o)] }

/-- The fetch state of a machine changed. -/
def onFetch (s : State) (f : Fet → Fet) : State := { s with t := { s.t with f := f s.t.f } }

/-- A fetch command on the small machine's object 10. -/
def commandAt (i : Instr) (seq : Nat) (n : BitVec 16) : FCmd :=
  { seq := seq, e := entryOf i [0, 0], v := viewOf 1 n, v2 := View.zero, oid := 10, oid2 := 10, rel := some 0, beg := 0, begun := true, ok := true, pos := 0, outst := [],
    ended := false, halted := false, mason := none, fail := none, err := false, esub := 0, list := [], badRows := [], buf := [], chunk := none, quit := none }

/-- A machine with a command that may issue requests, and one request outstanding or none; the object lies in tier res. -/
def issuing (res : BitVec 2) (reqs : List FReq) : State :=
  let s := onFetch (demo []) fun f => { f with act := some { commandAt (.fld true 0 1 2) 0 64 with outst := reqs } }
  { s with objs := [(10, objOf 0 false res)], ticks := 1000000 }

/-- A request issued at tick 0. -/
def request : FReq := { first := 0, count := 16, oid := 10, oid2 := 10, bad := false, since := 0 }

/-- The small machine with frame 9 under page 0 of object 14. -/
def framed : State := { demo [(1, 5)] with pages := [(pageKey 14 0 0, 9)] }

/-- A machine with a binding on port 1, inbound or outbound with one element to write. -/
def bound (out : Bool) : State :=
  let s := onFetch framed fun f => { f with ports := vset f.ports 1 { Port.unbound with
    bound := true, out := out, v := viewOf 1 64, oid := 10, width := 32, total := 64, fifo := if out then [{ data := 0, poison := false }] else [] } }
  { s with objs := [(10, objOf 0 false 0)], pages := [(pageKey 10 0 0, 9)] }

/-- The small machine with a host window of endpoint 7 to object 14. -/
def windowed : State :=
  { demo [] with wins := [{ num := 0, ctx := 1, handle := 5, oid := 14, ep := 7, rights := 3 }] }

theorem fillEntry_none {s : State} {die : Nat} (h : s.freeEntry die = none) (r : BitVec 1024) (c : Nat) : s.fillEntry die r c = none := by
  simp [State.fillEntry, State.enter, h]

/-- A machine with no task running and one READY task of context 1. -/
def ready : State :=
  { demo [] with t := Task.idle, others := [{ taskOf [] 0x84060005 with st := .ready, core := none, c := Ctl.reset }] }

/-- A context whose event ring is in handle 4. -/
def ringed : Ctx := { ctxOf 0xFFF .running (recordOf 100 handler) with ring := 4 }

/-- A machine whose `WAITW` has waited the parking time. -/
def parking : State :=
  let s := demo []
  { s with t := { s.t with c := { s.t.c with words := [0xD1400000], wait := some { progress := .plain, clk := 4096, wake := .chunk 0 0 } } } }

/-- A die's clock in a state. -/
def clocked (c since : Nat) : State := { demo [] with dies := Vector.replicate 4 { clock := c, since := since, phase := 0, count := 0 } }

/-- A layout of one root that holds every partition of core 0. -/
def layout1 : Layout := { spn := List.replicate 48 8, roots := [recordOf 100 0] }

/-- The small machine with that layout in place, and its root stopped. -/
def laidOut : State :=
  { demo [] with t := Task.idle, ctxs := [(1, ctxOf 0xFFF .stopped (recordOf 100 0)), (2, ctxOf 1 .stopped (recordOf 10 0))],
                 boot := { (demo []).boot with layout := layout1 } }

/-- A boot at step n. -/
def booting (n : Nat) (mason : Option (BitVec 512)) : State := { demo [] with boot := { (demo []).boot with step := n, masonImg := mason } }

/-- The small machine whose context 1 has a dirty log in handle 4, its ring frozen by a move or not, with counts p and 0. -/
def logging (froze : Bool) (p : Nat) : State :=
  let s := demo []
  { s with ctxs := [(1, { ctxOf 0xFFF .running (recordOf 100 handler) with log := some { ring := 4, rctx := 1, pages := [], told := false } })]
           objs := [(10, objOf 0 false 2), (13, { objOf 14 true 2 with moving := froze })]
           remote := Mem.write [] (remKey 13 0 0) (leBytes 8 p) }

/-- The loop machine after a taken jump to a, which its mailbox 0 also holds. -/
def jumping (a : Word) : State :=
  let s := looping 4 5
  { s with t := { s.t with c := { s.t.c with xfer := .jump a, mb := vset s.t.c.mb 0 a } } }

/-- A record of `HDUP` with all rights and the range from lo to hi in dimension 0. -/
def ranged (oid : Nat) (lo hi : Nat) : State :=
  let s := withWindow (demo [(1, 1), (2, 0)]) 40 (63 + 2 ^ 64 * lo + 2 ^ 96 * hi)
  { s with objs := [(oid, { objOf 0 false 2 with ext := #v[65538, 1, 1, 1], shsize := 65538 })] }

/-- A trigger of context 1 on object 10 at version v: a move of object 14 in handle 5 to tier 1, its handle gone or not. -/
def planned (v : Nat) (act : Nat) (gone : Bool) : Trigger :=
  { num := 0, ctx := 1, watch := 10, tg := BitVec.ofNat 256 (1 + 2 ^ 32 * v + 2 ^ 64 * 5 + 2 ^ 96 * act), oid := 14, gone := gone }

/-- The small machine with a child below the child 2, in DELETING. -/
def nested : State := { demo [(1, 2)] with ctxs := (demo []).ctxs ++ [(4, ctxOf 2 .deleting 0)] }

/-- The small machine whose `PUB` of object 10 awaits a push to outbound port 1 under binding 1. -/
def pushing : State :=
  let s := demo []
  let f : Flight := { land := 8, dst := .port 1 1, val := 5, mask := 0xFF, poison := false, keep := false, flags := 0, also := none }
  { s with t := { s.t with
      c := { s.t.c with wait := some { progress := .plain, clk := 0, wake := .writes 10 } }
      v := { s.t.v with flights := [f] }
      f := { s.t.f with ports := vset s.t.f.ports 1 { Port.unbound with bound := true, out := true, no := 1, oid := 10, width := 32, total := 64 } } } }

/-- The small machine with the fetch word i under way on object 10, whose page has frame 9, and its one request outstanding. -/
def moved (i : Instr) : State :=
  { onFetch framed (fun f => { f with act := some { commandAt i 0 64 with outst := [request] } }) with objs := [(10, objOf 0 false 0)], pages := [(pageKey 10 0 0, 9)] }

/-- The small machine with the line at address 64 in its L2. -/
def cached : State := ((demo []).l2fill 1 64 false false).1

/-- The small machine with every tag of a set taken by another superblock, whose line 0 is pending. -/
def crowded : State :=
  { demo [] with l2 := [(setKey 64, { L2Set.reset with tags := Vector.ofFn fun i => { L2Set.reset.tag i.val with pend := 1, ptag := BitVec.ofNat 40 (i.val + 5) } })] }

/-- A transfer of context 1 and partition 0 that waits at core 0's fetch-issue weir. -/
def transfer : WReq := { cls := 1, unit := 0, ctx := 1, part := 0, since := 0 }

/-! ### Witnesses: each statement with hypotheses has states and operands that meet them, clause by clause. -/

theorem witness_ScalarWordsWriteTheirResult :
    ∀ i ∈ ([.add true 3 1 2, .sub true 3 1 2, .mul true 3 1 2, .mulh true 3 1 2 false, .div true 3 1 2 false, .div true 3 1 0 true, .rem true 3 1 0 false,
        .and true 0 1 2, .or true 3 1 2, .xor true 3 1 2, .shl true 3 1 2, .shr true 3 1 2, .sra true 3 1 2, .min true 3 1 2 true, .max true 3 1 2 false,
        .clz true 3 0, .popc true 3 1, .sel true 3 1 2 1, .madd true 3 1 2, .addi true 3 1 0x7FF, .muli true 3 1 1, .andi true 3 1 1, .ori true 3 1 1,
        .xori true 3 1 1, .shli true 3 1 63, .shri true 3 1 63, .srai true 3 1 63, .li true 31 0xFFFF] : List Instr),
      (scalarRule i (demo [(1, 0x8000000000000000), (2, -1)])).isSome = true := by decide +kernel

theorem witness_ConditionWordsWriteTheirResult :
    ∀ i ∈ ([.cmp true 1 1 2 5, .cmpi false 0 1 2 0x80, .clog true 7 0 1 3] : List Instr), (conditionRule i (demo [(1, 5)])).isSome = true := by decide +kernel

theorem witness_BranchWordsPrepareAndTransfer : okS (demo [(1, 5)]) 1 ∧ okC (demo []) 1 ∧ okC (demo []) 0 := by decide +kernel

theorem witness_LoopsStartSkipAndLeave :
    (let s := looping 4 3
     s.t.x.hmode = false ∧ okC s 1 ∧ (s.rc (1 : BitVec 3)).val = false ∧ okC s 0 ∧ (s.rc (0 : BitVec 3)).val = true ∧ s.t.c.stack = [1] ∧
       okS s 1 ∧ (s.t.c.loop 0).count = 0 ∧ (∀ m, s.t.c.stack.head? = some m → s.afterGroup true + BitVec.ofNat 64 2 - 1 ≤ (s.t.c.loop m).last) ∧
       (s.t.c.loop 1).count ≠ 0 ∧ s.t.c.stack.head? = some 1 ∧ (s.t.c.loop 1).last < s.afterGroup true + (9 : BitVec 9).setWidth 64 - 1) ∧
    (demo []).t.c.stack = [] ∧ (demo []).t.x.hmode = false ∧ okC (demo []) 0 ∧ inHandler.t.x.hmode = true := by decide +kernel

theorem witness_ControlGoesOnPastAWord :
    (∀ s ∈ [demo [], looping 4 3, looping 4 5, looping 1 5], s.t.c.xfer = .none ∧ s.t.x.hmode = false) ∧
    (∀ s ∈ [jumping 2, jumping 5], s.t.c.xfer = .jump s.t.c.mb[0] ∧
      ∀ l ∈ s.t.c.stack.head?, (s.t.c.loop l).start ≤ s.t.c.mb[0] ∧ s.t.c.mb[0] ≤ (s.t.c.loop l).last) ∧
    (∀ s ∈ [jumping 1, jumping 6], s.t.x.hmode = false ∧ s.t.c.stack = [1] ∧
      (s.t.c.mb[0] < (s.t.c.loop 1).start ∨ (s.t.c.loop 1).last < s.t.c.mb[0])) ∧ inHandler.t.x.hmode = true ∧ inHandler.t.c.xfer = .none := by decide +kernel

theorem witness_ScratchpadWordsReadWriteOrTrap :
    okS (demo [(1, 3)]) 1 ∧ ((demo [(1, 3)]).rs (1 : BitVec 5)).val.toNat % 8 ≠ 0 ∧
    (let s := demo [(1, 65536)]; okS s 1 ∧ okS s 2 ∧ ((s.rs (1 : BitVec 5)).val + s.immS (0 : BitVec 11) * 8).toNat % 8 = 0 ∧
      s.t.window < ((s.rs (1 : BitVec 5)).val + s.immS (0 : BitVec 11) * 8).toNat + 8) ∧
    (let s := demo [(1, 65528)]; ((s.rs (1 : BitVec 5)).val + s.immS (0 : BitVec 11) * 8).toNat % 8 = 0 ∧
      ((s.rs (1 : BitVec 5)).val + s.immS (0 : BitVec 11) * 8).toNat + 8 ≤ s.t.window) := by decide +kernel

theorem witness_MailboxTimeAndControlRegisters :
    okS (demo [(1, 3)]) 1 ∧ (0x101 ∈ [0x101, 0x102, 0x0C0, 0x0E0, 0x0F0] ∧ (demo []).t.x.hmode = false) ∧ inHandler.t.x.hmode = true ∧ okS inHandler 1 ∧
    (3 : Word) &&& 3 = 3 ∧ (4 : Word) &&& 3 ≠ 3 ∧ (demo []).t.ownsAcc 1 = true ∧ (demo []).t.ownsAcc 2 = false := by
  decide +kernel

theorem witness_PoisonIsRaisedWhereItMayNotPass :
    okS (demo [(1, 5)]) 1 ∧ okC (demo []) 1 ∧
    (badReg.rs (1 : BitVec 5)).poison.isSome = true ∧ (badReg.rc (1 : BitVec 3)).poison.isSome = true ∧ ((demo []).rs (1 : BitVec 5)).poison = none ∧
    mustNotPass (.sts true 1 2 0) = some [2, 1] ∧ firstBad badReg [2, 1] = some 1 ∧ ¬ okC badReg 1 ∧ ¬ okS badReg 1 ∧ badReg.t.x.hmode = false ∧
    synReads (.pub true 1 0) = some [1] ∧ badReg.t.c.wait = none ∧ firstBad badReg [1] = some 1 := by decide +kernel

theorem witness_GroupsAreCheckedAndAdmittedWhole :
    (let s := { demo [] with t := { (demo []).t with c := { (demo []).t.c with phase := .boundary } } }
     s.t.x.hmode = false ∧ s.t.st = .running ∧ s.t.c.phase = .boundary ∧ s.t.x.pending = [] ∧ s.t.starts = [] ∧ s.t.image = false) ∧
    (let s := { demo [] with t := { (demo []).t with c := { (demo []).t.c with phase := .checked } } }
     s.t.st = .running ∧ s.t.c.phase = .checked) ∧
    (demo []).t.c.stack = [] ∧ (demo []).codeLen (demo []).t.c.codeO ≤ (64 : Word).toNat := by decide +kernel

/-- A handle entry in each state and an object in each class, for the checks in order. -/
theorem witness_AccessChecksComeInOrder :
    (demo []).tableSize 1 = 100 ∧ ((demo []).hentry 1 1).st = .live ∧ ((demo []).hentry 1 99).st = .free ∧ ((demo []).obj 10).isSome = true ∧
    ((demo []).obj 99).isNone = true ∧ passes ((demo []).classChecked 1 1 rREAD { eng := 0, op := 0 } true) (fun a => a.oid == 10) = true := by decide +kernel

/-- An access whose element 63 is the object's last: in bounds; at 64 it is not. -/
theorem witness_BoundsChecksGoByDimension :
    passes ((demo []).classChecked 1 1 rREAD { eng := 0, op := 0 } true) (fun a =>
      boundsChecked a (fun j => if j = 0 then 63 else 0) (fun _ => 1) { eng := 0, op := 0 } [0, 1, 2, 3] == none &&
      a.o.extent 0 == 64 && a.o.rank.toNat == 1) = true := by decide +kernel

theorem witness_ObjectLoadsAndStores :
    (let s := demo [(1, 1), (2, 63)]
     s.progress = .plain ∧ okS s 1 ∧ okS s 2 ∧ okS s 3 ∧
     (∃ x, s.xacc (whoOf (.xld true 3 1 2 false false 2)) (s.rs (1 : BitVec 5)).val (s.rs (2 : BitVec 5)).val 4 rREAD 1 = .ok x ∧
       (match s.readRuns x.1 true x.2 with | (_, .ok _) => true | _ => false) = true) ∧
     (∃ x, s.xacc (whoOf (.xst true 3 1 2 2)) (s.rs (1 : BitVec 5)).val (s.rs (2 : BitVec 5)).val 4 rWRITE 1 = .ok x ∧
       (match s.prepRuns x.1 x.2 with | .ready s1 => (s1.writeRuns x.1 x.2 [0, 0, 0, 0]).2 == none | _ => false) = true)) := by
  and_intros <;> first | decide +kernel | exact exists_of_passes (by decide +kernel)

/-- Lines that the L1, the tier and a peer hold, and pages with and without a frame, a log that is due and room in its ring. -/
theorem witness_lines_and_pages :
    (let s := framed
     s.placeOf (objOf 0 false 0) 0 < 2 ∧ s.frameOf 14 0 (192 / 65536) = some 9 ∧ s.keyHeld (objOf 0 false 0) = true ∧ s.ailing 0 = none ∧
       s.lineBad (physAddr 9 192) = false ∧ s.l2pending (physAddr 9 192) = none ∧ s.placeOf (objOf 0 false 2) 0 = 2 ∧ s.ailing 2 = none ∧
       s.remoteBad.contains (remKey 10 0 192) = false ∧ (match State.prepRuns s { h := 5, oid := 14, e := s.hentry 1 5, o := objOf 0 false 0 } [(0, 60, 4)] with | .ready _ => true | _ => false) = true ∧
       s.pool s.die 0 = [9, 10, 11] ∧ s.freeFrames 1 ≠ 0 ∧ s.frameOf 14 0 1 = none ∧ s.logsDue 1 (pageKey 14 0 1) = [] ∧ s.pool 1 0 = []) ∧
    (let x : L1Line := { core := 0, oid := 10, line := l1Line 0 192, data := 5 }
     ({ demo [] with l1 := [x] }).l1.find? (fun x => x.core == 0 && x.oid == 10 && x.line == l1Line 0 192) = some x) ∧
    (∀ f ∈ [true, false], ∀ p ∈ [11, 12], let s := logging f p
     s.logsDue s.t.ctx (pageKey 10 0 0) = [1] ∧ (s.ringObj 1 4 4 20).map (fun x => (x.1, x.2.moving)) = some (13, f) ∧
       leNat (s.objPeek 13 0 0 8) = p ∧ leNat (s.objPeek 13 0 8 8) = 0 ∧ ((objOf 14 true 2).extent 0 / 2 - 8) / 2 = 12) := by decide +kernel

theorem witness_FailedObjectAccesses :
    (let s := demo [(1, 1), (2, 64)]
     s.progress = .plain ∧ okS s 1 ∧ okS s 2 ∧ okS s 3 ∧
     ∃ i, s.xacc (whoOf (.xld true 3 1 2 false true 2)) (s.rs (1 : BitVec 5)).val (s.rs (2 : BitVec 5)).val 4 rREAD 1 = .trap i ∧
       (i.cause != .missingObject) = true) ∧
    (let s := { demo [(1, 1), (2, 0)] with objs := [(10, objOf 0 false 3)] }
     ∃ i, s.xacc (whoOf (.xst true 3 1 2 2)) (s.rs (1 : BitVec 5)).val (s.rs (2 : BitVec 5)).val 4 rWRITE 1 = .trap i ∧
       (i.cause == .missingObject) = true) := by
  and_intros <;> first | decide +kernel | exact exists_of_trapsWith (by decide +kernel)

theorem witness_AtomicsReadModifyAndWrite :
    (let s := { demo [(1, 2), (2, 63), (4, 7)] with objs := [(11, objOf 8 true 0)] }
     s.progress = .plain ∧ okS s 1 ∧ okS s 2 ∧ okS s 4 ∧ okS s 5 ∧ s.coherentOpen = false ∧
     (∀ i ∈ ([.aadd true 4 1 2 false true false 2, .amax true 4 1 2 true false true 2, .amin true 4 1 2 false false false 2, .aand true 4 1 2 false false false 2,
         .aor true 4 1 2 false false false 2, .axchg true 4 1 2 false false false 2, .acas true 2 1 2 false false false 2, .afadd true 4 1 2 true false] : List Instr),
       (atomicRule i s).isSome = true) ∧
     ∃ x, s.xacc (whoOf (.aadd true 4 1 2 false true false 2)) (s.rs (1 : BitVec 5)).val (s.rs (2 : BitVec 5)).val 4 rATOMIC 4 = .ok x ∧
       (match s.prepRuns x.1 x.2 with
         | .ready s1 => (match s1.readRuns x.1 false x.2 with
           | (s2, .ok _) => (s2.writeRuns x.1 x.2 [0, 0, 0, 0]).2 == none
           | _ => false)
         | _ => false) = true) := by
  and_intros <;> first | decide +kernel | exact exists_of_passes (by decide +kernel)

theorem witness_SpawnFillsTheLowestFreeEntry :
    (let s := withWindow (demo [(1, 0)]) 128 taskRecord
     firstTime s ∧ okS s 1 ∧ (s.rs (1 : BitVec 5)).val.toNat % 128 = 0 ∧ (s.rs (1 : BitVec 5)).val.toNat + 128 ≤ s.t.window ∧
     (∃ c, s.recordChecked s.t.ctx s.die (bitsOfBytes 1024 (s.spad 0 128)) (whoOf (.spawn true 3 1 false)) = .ok c ∧ (c == 1) = true) ∧
     s.freeEntry s.die = some 1) ∧
    (firstTime (poolOf 4096) ∧ okS (poolOf 4096) 1 ∧
     (∃ c, (poolOf 4096).recordChecked (poolOf 4096).t.ctx (poolOf 4096).die (bitsOfBytes 1024 ((poolOf 4096).spad 0 128)) (whoOf (.spawn true 3 1 true)) = .ok c ∧ (c == 1) = true) ∧
     (poolOf 4096).freeEntry (poolOf 4096).die = none) := by
  refine ⟨?_, ?_, ?_, ?_, poolOf_full rfl⟩ <;> and_intros <;> first | decide +kernel | exact exists_of_passes (by decide +kernel)

theorem witness_EndAndYieldTakeEffectOnceDrained :
    ((demo []).t.c.phase ≠ .ending ∧ (demo []).t.x.hmode = false ∧ (demo []).t.st ≠ .none ∧ ∀ u ∈ (demo []).others, u.id ≠ (demo []).t.id) ∧
    ((ending []).t.c.phase = .ending ∧ ((ending []).vecDrained && (ending []).t.mq.isEmpty && (ending []).fetDrained) = true ∧ (ending []).vecDrained = true) ∧
    ((ending [entryOf (.vnop true 1) []]).t.c.phase = .ending ∧ (ending [entryOf (.vnop true 1) []]).vecDrained = false) := by decide +kernel

theorem witness_PublishingAndSubscribing :
    (∀ s ∈ [demo [(1, 1), (2, 0)], demo [(1, 1), (2, 1)]], firstTime s ∧ okS s 1 ∧ okS s 2) ∧
    (∃ acc, (demo [(1, 1)]).classChecked 1 1 rPUBLISH (whoOf (.pub true 1 2)) true = .ok acc ∧ (!(demo [(1, 1)]).writesOpen acc.oid) = true) ∧
    (∃ acc, writing.classChecked 1 1 rPUBLISH (whoOf (.pub true 1 2)) true = .ok acc ∧ writing.writesOpen acc.oid = true) ∧ firstTime writing ∧
    (∃ acc, (demo [(1, 1)]).classChecked 1 1 rREAD (whoOf (.subscribe true 1 2)) true = .ok acc ∧
      (decide (0 ≤ (acc.o.version - 0).toInt) && decide (¬ 0 ≤ (acc.o.version - 1).toInt)) = true) := by
  and_intros <;> first | decide +kernel | exact exists_of_passes (by decide +kernel)

theorem witness_GroupsAndBarriers :
    (∀ s ∈ [grouped 2 1 false, grouped 2 2 false, demo [(1, 5), (2, 2)], grouped 2 2 true], okS s 1 ∧ okS s 2 ∧ firstTime s ∧ s.t.st ≠ .none) ∧
    ((alGet ((grouped 2 1 false).leaveGroup (grouped 2 1 false).t 1).settle.groups (gkey 1 5)).isSome = true) ∧
    (alGet ((demo [(1, 5)]).leaveGroup (demo [(1, 5)]).t 1).settle.groups (gkey 1 5) = none) ∧
    ((demo [(1, 5)]).gslot 1 = none) ∧ ((grouped 2 2 true).gslot 0 = some { gid := 5, arrived := none }) ∧
    (alGet (grouped 2 2 true).groups (gkey 1 5) = some { limit := 2, members := 2, arrived := 0, gen := 0 }) := by decide +kernel

theorem witness_WaitsTokensAndClaims :
    (let s := demo [(1, 65528), (2, 1)]
     firstTime s ∧ okS s 1 ∧ okS s 2 ∧ (s.rs (1 : BitVec 5)).val.toNat % 8 = 0 ∧ (s.rs (1 : BitVec 5)).val.toNat + 8 ≤ s.t.window) ∧
    (∀ s ∈ [slotted .full 0x10000 1, slotted .free 0 1, slotted .full 7 1, slotted .free 0 0], firstTime s ∧ okS s 1 ∧ (s.rs (1 : BitVec 5)).val.toNat ≤ 127) ∧
    ((slotted .full 0x10000 1).slot 0 4).ownedBy (slotted .full 0x10000 1).t = true ∧
    ((slotted .free 0 1).slot 0 4).st = .free ∧ (slotted .free 0 1).heldSlots (slotted .free 0 1).t < (slotted .free 0 1).t.quota ∧
    ((slotted .full 7 1).slot 0 4).ownedBy (slotted .full 7 1).t = false ∧ ((slotted .full 7 1).slot 0 4).st ≠ .free ∧
    (slotted .free 0 0).t.quota ≤ (slotted .free 0 0).heldSlots (slotted .free 0 0).t ∧ ((slotted .free 0 0).slot 0 4).ownedBy (slotted .free 0 0).t = false ∧
    (slotted .free 0 0).t.mq = [] ∧ vget (demo []).t.tok 0 0 = 0 ∧
    (let s := { demo [] with t := { (demo []).t with tok := Vector.replicate 8 15, pops := Vector.replicate 8 1 } }
     s.t.popClk = (s.dieOf s.die).count ∧ 16 ≤ vget s.t.tok 7 0 + vget s.t.pops 7 0 ∧ 0 < vget s.t.tok 7 0) := by decide +kernel

theorem witness_HandleWords :
    (∀ s ∈ [demo [(1, 1), (2, 3)], demo [(1, 1), (2, 4)], demo [(1, 1), (2, 0)]], okS s 1 ∧ okS s 2 ∧ firstTime s) ∧
    (∃ acc, (demo [(1, 1)]).classChecked 1 1 rQUERY (whoOf (.hqry true 3 1 2 1)) false = .ok acc ∧ (acc.e.oid == acc.oid) = true) ∧
    (∃ p, (demo [(1, 1)]).entryChecked 1 1 (whoOf (.hdup true 3 1 2 true)) = .ok p ∧ (p.1 == 1) = true) ∧
    (demo [(1, 1)]).freeHandle 1 = some 6 ∧ (demo [(1, 1)]).handleOpen 1 = false ∧ writing.handleOpen 1 = true ∧
    ({ demo [] with ctxs := [(1, ctxOf 0xFFF .running (recordOf 6 handler))] } : State).freeHandle 1 = none ∧
    (∀ p ∈ [(0, 63), (0, 65538), (1, 65537)], let s := ranged 10 p.1 p.2
      ((bitsOfBytes 320 (s.spad 0 40)).extractLsb' 64 32).toNat = p.1 ∧ ((bitsOfBytes 320 (s.spad 0 40)).extractLsb' 96 32).toNat = p.2 ∧
        (bitsOfBytes 320 (s.spad 0 40)).extractLsb' 6 58 = (0 : BitVec 58)) ∧
    (∃ acc, (ranged 10 0 63).objChecked 1 (HEntry.full 10) (whoOf (.hdup true 3 1 2 false)) false = .ok acc ∧
      (acc.e.lo 0 == 0 && acc.e.hiEff acc.o 0 == 65537 && acc.e.hiEff acc.o 3 == 0) = true) ∧
    represents 0 63 6 ∧ represents 0 0 0 ∧ (∀ g < 17, ¬ represents 1 65537 g) ∧ (stopping true).progress = .begun 2 := by
  and_intros <;> first | decide +kernel | exact exists_of_passes (by decide +kernel)

theorem witness_OmcallGoesToMasonAndBack :
    (let s := demo [(1, 65472), (2, 0)]; firstTime s ∧ okS s 1 ∧ okS s 2 ∧ (s.rs (1 : BitVec 5)).val.toNat % 64 = 0 ∧
      (s.rs (1 : BitVec 5)).val.toNat + 64 ≤ s.t.window) ∧
    ({ sent [] [] with t := { (sent [] []).t with c := { (sent [] []).t.c with wait := some { progress := .answered 7, clk := 0, wake := .reply } } } }.progress
      = .answered 7) ∧
    ((sent [] [(3, 7)]).replies = [(3, 7)] ∧ (sent [] [(3, 7)]).progress = .sent 3 ∧ (sent [] [(3, 7)]).t.st = .running) ∧
    ((sent [.omcall 3 1 0 8 0 0 []] []).replies = [] ∧ (sent [.omcall 3 1 0 8 0 0 []] []).mason = [.omcall 3 1 0 8 0 0 []] ∧ 8 ≤ (8 : BitVec 6).toNat) := by
  decide +kernel

theorem witness_TrapsAreTakenAndReturnedFrom :
    (let s := demo []
     firstTime s ∧ s.t.x.hmode = false ∧ (handlerOf s 6).getLsbD 63 = true ∧ ((handlerOf s 6).extractLsb' 0 32).toNat < 64 ∧ s.t.c.xfer = .none ∧
     s.t.c.phase ≠ .ending ∧ s.handlerWaits .software = false ∧
     passes (s.codeObj s.t.ctx ((handlerOf s 6).extractLsb' 32 24) ((handlerOf s 6).extractLsb' 0 32).toNat false) (fun o => o == 12) = true) ∧
    (inHandler.t.x.hmode = true ∧ inHandler.t.c.phase ≠ .ending ∧ inHandler.t.x.taken = none ∧ inHandler.t.x.pending = [] ∧ firstTime inHandler ∧
     passes (inHandler.codeObj inHandler.t.ctx inHandler.t.x.xcode inHandler.t.x.xpc.toNat true) (fun o => o == 12) = true) ∧
    (handlerOf { demo [] with ctxs := [] } 6).getLsbD 63 = false ∧
    passes ((demo []).codeObj 1 9 0 false) (fun _ => true) = false ∧ passes ((demo []).codeObj 1 3 64 false) (fun _ => true) = false ∧
    ({ demo [] with objs := [(12, { objOf 14 false 2 with moving := true })] } : State).handlerWaits .software = true := by decide +kernel

theorem witness_NotificationsAndCounters :
    (demo []).notifyEp 1 3 = none ∧ (demo []).notifyEp 1 0 = some 7 ∧ (demo []).fstDone = true ∧ writing.fstDone = false ∧ writing.notifyEp 1 0 = some 7 ∧
    okS (demo [(1, 2)]) 1 ∧ okS (demo [(1, 2)]) 2 ∧ okS writing 1 ∧ okS writing 2 ∧ (demo []).isBelow 1 2 = true ∧ (demo []).isBelow 1 9 = false := by decide +kernel

theorem witness_ServicesCreateDeleteSealAndReplicate :
    (asks (asking (demo []) 0 0 0 creation) 0 3 1 0 0 0 creation [] ∧ bitsAt creation 224 11 = 0 ∧ bitsAt creation 237 275 = 0 ∧ bitsAt creation 29 35 = 0 ∧
      bitsAt creation 15 1 = 0 ∧ bitsAt creation 13 2 < 2 ∧ (demo []).ctxField 1 595 13 ≤ bitsAt creation 16 13 ∧ (demo []).nextObj < 2 ^ 36 ∧
      bitsAt creation 16 13 < (demo []).ctxField 1 595 13 + (demo []).ctxField 1 581 14 ∧ (recObj creation 5 1 0 0).wf = true ∧
      cdiv ((recObj creation 5 1 0 0).shardBytes 0) 65536 ≤ (demo []).freeFrames 1 ∧ (demo []).freeHandle 1 = some 6) ∧
    (asks (asking (demo []) 1 1 0 []) 1 3 1 0 1 0 [] [] ∧ ∃ acc, handleOk (demo []) 1 1 0 acc ∧
      (acc.o.ownerCtx.toNat == 1 && acc.o.ownerEp == 5 && !(demo []).objBusy acc.oid && !(demo []).codeBusy acc.oid) = true) ∧
    (∃ acc, handleOk (withObj { objOf 0 false 2 with ownerEp := 6 }) 1 1 0 acc ∧ (acc.o.ownerEp == 6) = true) ∧
    (asks (asking (demo []) 2 2 0 []) 2 3 1 0 2 0 [] [] ∧ ∃ acc, handleOk (demo []) 1 2 rGRANT acc ∧ acc.o.coherent = true) ∧
    (∃ acc, handleOk (demo []) 1 1 rGRANT acc ∧ (!acc.o.coherent) = true) ∧
    (asks (asking (demo []) 3 1 6 []) 3 3 1 0 1 6 [] [] ∧ (6 : BitVec 12) ∈ (demo []).boot.members ∧
      ∃ acc, handleOk (withObj { objOf 0 false 2 with sealed := true }) 1 1 rGRANT acc ∧ (acc.o.sealed && acc.o.repl.isEmpty) = true) ∧
    (∃ acc, handleOk (withObj { objOf 0 false 2 with sealed := true, repl := [7, 8, 9, 10, 11, 12, 13, 14] }) 1 1 rGRANT acc ∧ (acc.o.repl.length == 8) = true) := by
  and_intros <;> first | decide +kernel | exact exists_of_passes (by decide +kernel) | exact ⟨_, by decide +kernel, by decide +kernel, rfl⟩

theorem witness_MovesFreezeCopyAndThaw :
    (asks (asking (demo []) 4 5 1 []) 4 3 1 0 5 1 [] [] ∧ ∃ acc, handleOk (demo []) 1 5 rWRITE acc ∧ (acc.oid == 14 && acc.o.shcnt == 0 && acc.o.res == 0) = true) ∧
    (let s : State := { demo [] with objs := [(14, { objOf 0 false 0 with sealed := true })] }
     trapsWith (s.classChecked 1 5 rWRITE { eng := 0, op := 0 } true) (fun t => t.cause == .rights && t.x0 == 2) = true) ∧
    (({ demo [] with pools := [(1, [12])], pages := [(pageKey 14 0 0, 9)] } : State).beginMove 3 0 14 (objOf 0 false 0) 1 0).isSome = true ∧
    ({ demo [] with pages := [(pageKey 14 0 0, 9)] } : State).beginMove 3 0 14 (objOf 0 false 0) 1 0 = none ∧
    ((moving false).moves.find? (fun m => m.oid == 14 && !m.copied)).isSome = true ∧ (moving false).objBusy 14 = false ∧
    ((moving true).moves.find? (fun m => m.oid == 14 && m.copied)).isSome = true ∧ ((moving true).obj 14).isSome = true ∧
    (let fs : List (Nat × BitVec 32) := [(pageKey 14 0 0, 12)]
     (fs.map (·.1)).Nodup ∧ (fs.map (·.2)).Nodup ∧ ∀ p ∈ fs, p.1 / 2 ^ 35 = 14 ∧ ∀ q ∈ framed.pages, q.2 ≠ p.2) ∧
    framed.mem.wf = true ∧ framed.remote.wf = true ∧ (framed.pages.map (·.1)).Nodup ∧ framed.pagesHeld 14 = [pageKey 14 0 0] ∧
    (∀ c ∈ framed.remote, c.1 / 2 ^ 52 ≠ 14) := by
  and_intros <;> first
    | decide +kernel
    | exact ⟨_, by decide +kernel, by decide +kernel, rfl⟩
    | exact exists_of_passes (by decide +kernel)

theorem witness_TriggersAndHostWindows :
    (asks (asking (demo []) 5 0 0 triggerRecord) 5 3 1 0 0 0 triggerRecord [] ∧ bitsAt triggerRecord 192 64 = 0 ∧ bitsAt triggerRecord 98 30 = 0 ∧
      bitsAt triggerRecord 88 8 = 0 ∧ bitsAt triggerRecord 24 8 = 0 ∧ bitsAt triggerRecord 96 2 ≠ 3 ∧
      (∃ w, handleOk (demo []) 1 (BitVec.ofNat 64 (bitsAt triggerRecord 0 24)) rREAD w ∧ (!w.o.coherent) = true) ∧
      (∃ g, handleOk (demo []) 1 (BitVec.ofNat 64 (bitsAt triggerRecord 64 24)) rREAD g ∧ (g.e.lo 0 == 0 && g.e.hiEff g.o 0 == 63) = true) ∧
      (demo []).trigRoom 1 = true ∧ { demo [] with ctxs := [] }.trigRoom 1 = false) ∧
    (∀ t ∈ [planned 1 2 false, planned 0 2 false, planned 0 0 true], ((demo []).obj t.watch).any (fun o => decide (0 ≤ (o.version - t.tg.extractLsb' 32 32).toInt))
      = (t.tg.extractLsb' 32 32 != 1)) ∧
    (∀ x ∈ [false, true], { demo [] with mason := [.trigger (planned 0 2 x)] }.mason = [.trigger (planned 0 2 x)] ∧
      ∃ acc, handleOk (demo []) 1 5 rWRITE acc ∧ (acc.o.shcnt == 0 && acc.o.res == 0) = true) ∧
    (asks (asking (demo []) 6 5 0x3007 []) 6 3 1 0 5 0x3007 [] [] ∧ (∃ t < 4, (demo []).notifyEp 1 t = some 7) ∧
      (∃ acc, handleOk (demo []) 1 5 (rREAD ||| rWRITE) acc ∧ (acc.o.hostsh && acc.o.layout == 0 && acc.o.shcnt == 0 && decide (acc.o.bytes ≤ 2 ^ 36)) = true) ∧
      lowestFree ((demo []).wins.map (·.num)) 0 4096 = some 0) ∧
    asks (asking (demo []) 7 0 0 []) 7 3 1 0 0 0 [] [] := by
  and_intros <;> first
    | decide +kernel
    | exact ⟨_, by decide +kernel, by decide +kernel, rfl⟩
    | exact exists_of_passes (by decide +kernel)
    | exact fun x _ => ⟨rfl, exists_of_passes (by decide +kernel)⟩

theorem witness_ContextWordsActOnChildren :
    (let s := demo [(1, 9)]; okS s 1 ∧ okS s 2 ∧ firstTime s ∧ ∀ p ∈ s.ctxs, ¬ (p.1 = ((s.rs (1 : BitVec 5)).val).toNat ∧ p.2.parent = s.t.ctx)) ∧
    (let s := demo [(1, 3)]; okS s 1 ∧ okS s 2 ∧ firstTime s ∧ (∃ p ∈ s.ctxs, p.1 = ((s.rs (1 : BitVec 5)).val).toNat ∧ p.2.parent = s.t.ctx) ∧
      ((s.ctx ((s.rs (1 : BitVec 5)).val).toNat).any (fun x => x.st == .deleting)) = true) ∧
    ((nested.ctx 2).any (fun x => x.parent == 1 && x.st == .stopped) = true ∧ ∃ n ∈ nested.subtree 2, nested.ctxIs n .deleting = true) ∧
    ¬ ((9 : Word) = 0 ∧ (5 < 7 ∨ 5 = 0x19)) ∧ ¬ ((0 : Word) = 0 ∧ (8 < 7 ∨ 8 = 0x19)) := by decide +kernel

theorem witness_ContextsAreMadeAndChanged :
    (let s := withWindow (demo [(1, 0)]) 256 (2 ^ 616 * 2 + 2 ^ 640 * 5)
     okS s 1 ∧ (s.rs (1 : BitVec 5)).val.toNat % 256 = 0 ∧ (s.rs (1 : BitVec 5)).val.toNat + 256 ≤ s.t.window ∧ crReserved (bitsOfBytes 2048 (s.spad 0 256)) = false ∧
     s.newStatus s.t.ctx (bitsOfBytes 2048 (s.spad 0 256)) = none) ∧
    (let s := withWindow (demo [(1, 0)]) 256 (2 ^ 616 * 1); s.newStatus s.t.ctx (bitsOfBytes 2048 (s.spad 0 256)) = some (-2)) ∧
    childOf (demo [(1, 2), (2, 1)]) ((demo [(1, 2), (2, 1)]).rs (1 : BitVec 5)).val ∧
    (∃ acc, (demo [(1, 2), (2, 1)]).classChecked 1 1 rGRANT (whoOf (.ctxgrant true 3 1 2 1)) true = .ok acc ∧
      (!(demo []).ctxIs 2 .deleting && ((demo []).freeHandle 2).isSome) = true) ∧
    okS (demo [(1, 2), (2, 1)]) 1 ∧ okS (demo [(1, 2), (2, 1)]) 2 ∧ setLimit (demo []) 2 0x10 5 = 0 ∧ setLimit (demo []) 2 0x12 0x1000 = -2 ∧
    ((demo [(1, 0)]).rs (1 : BitVec 5)).val = 0 ∧ (demo []).ringObj 1 4 16 32 = some (13, objOf 14 true 2) ∧ (demo []).ringObj 1 1 16 32 = none ∧
    ((demo []).ringFrames 0 13 (objOf 14 true 2)).isSome = true ∧ ({ demo [] with pools := [] } : State).ringFrames 0 13 (objOf 14 true 0) = none := by
  and_intros <;> first | decide +kernel | exact exists_of_passes (by decide +kernel) | exact child_of_demo _ (by decide +kernel)

theorem witness_ContextsRunAndStop :
    (let s := demo [(1, 2), (2, 5)]; okS s 1 ∧ okS s 2 ∧ firstTime s ∧ childOf s (s.rs (1 : BitVec 5)).val ∧ ¬ ctxIn s (s.rs (1 : BitVec 5)).val .deleting ∧
      (s.ctx 2).any (fun x => x.st != .deleting) = true) ∧
    reflectedChild.reflectedTo 1 2 5 = true ∧ (demo [(1, 2), (2, 5)]).reflectedTo 1 2 5 = false ∧
    (stopping true).progress = .begun 2 ∧ (stopping true).subtreeRuns 2 = true ∧ (stopping false).progress = .begun 2 ∧ (stopping false).subtreeRuns 2 = false ∧
    (let u : Task := { Task.idle with st := .reflected, id := 5, ctx := 2, told := 1 }
     u ∈ reflectedChild.others ∧ u.st ≠ .none ∧ (reflectedChild.tasks.map (·.id)).Nodup ∧ u.f.act = none ∧ u.f.run = [] ∧
       ∀ p ∈ u.f.ports.toList, p.fifo = [] ∧ p.buf = []) := by
  and_intros <;> first | decide +kernel | exact child_of_demo _ (by decide +kernel) | exact not_deleting_2 _ (by decide +kernel)

theorem witness_DeletionRevocationAndLogs :
    (∀ b ∈ [true, false], (stopping b).progress = .begun 2 ∧
      ((stopping b).subtreeRuns 2 || (stopping b).subtreeTells 2 || (stopping b).subtreeMoves 2) = b) ∧
    (let s := demo [(1, 2), (2, 4)]; okS s 1 ∧ okS s 2 ∧ firstTime s ∧ childOf s (s.rs (1 : BitVec 5)).val ∧
      (∀ n ∈ s.subtree 2, s.ctxIs n .deleting = false) ∧
      (s.ringObj s.t.ctx 4 4 20).isSome = true ∧ (s.ringFrames s.die 13 (objOf 14 true 2)).isSome = true ∧ s.ringObj s.t.ctx 1 4 20 = none) ∧
    (let s := demo [(1, 1)]; okS s 1 ∧ firstTime s ∧ s.handleOpen 1 = false ∧ writing.handleOpen 1 = true ∧
      ∃ p, s.entryChecked 1 (s.rs (1 : BitVec 5)).val (whoOf (.ctxrevoke true 3 1 true)) = .ok p ∧ (p.1 == 1) = true) := by
  and_intros <;> first | decide +kernel | exact child_of_demo _ (by decide +kernel) | exact exists_of_passes (by decide +kernel)
theorem witness_QueueWordsAreDispatched :
    (∀ i ∈ ([.vbcst true 3 1 0 0, .mlda true 0 1, .fview true 0 1 0, .vext false 3 1 1 0] : List Instr),
      (stopBit i).isSome = true ∧ engineOf i ∈ [1, 3, 4] ∧ (demo []).turn = .control ∧ (demo []).t.x.hmode = false ∧ firstBad (demo []) (capturesOf i) = none ∧
        firstBad badReg (capturesOf i) = some 1) ∧ badReg.turn = .control ∧ badReg.t.x.hmode = false ∧ inHandler.turn = .control ∧ inHandler.t.x.hmode = true ∧
    (let e : QEntry := { entryOf (.vext true 3 1 1 0) [0] with was := some poisonedReg }
     deliversOf e.w = some (.s 3) ∧ e.was = some poisonedReg) := by decide +kernel

theorem witness_FloatWordsComputeTheirLanes :
    ∀ i ∈ ([.vadd true 1 2 3 0 0, .vsub true 1 2 3 0 1, .vmul true 1 2 3 0 2, .vfma true 1 2 3 0 0, .vfms true 1 2 3 0 0, .vfnma true 1 2 3 7 0,
        .vmax true 1 2 3 0 0, .vmin true 1 2 3 0 0, .vabs true 31 2 0 0, .vneg true 1 2 0 0, .vclass true 1 2 0 0, .vrcp true 1 2 0 0, .vrsq true 1 2 0 0,
        .vexp2 true 1 2 0 0, .vlog2 true 1 2 0 0, .vscale true 1 2 3 0 0, .vtbl true 1 2 7 0 0] : List Instr),
      atHead (entryOf i []) (vecAt i []) := by decide +kernel

theorem witness_IntegerWordsComputeTheirLanes :
    ∀ i ∈ ([.viadd true 1 2 3 0 3, .visub true 1 2 3 0 4, .vimul true 1 2 3 0 5, .vimulh true 1 2 3 0 6, .vimin true 1 2 3 0 7, .vimax true 1 2 3 0 3,
        .viabs true 1 2 0 5, .vand true 1 2 3 0 3, .vor true 1 2 3 0 3, .vxor true 1 2 3 0 3, .vshl true 1 2 3 0 3, .vshr true 1 2 3 0 3,
        .vsra true 1 2 3 0 3, .vperm true 1 2 3 0 0, .viota true 1 0 7, .vbcst true 1 2 0 0, .vrng true 1 7] : List Instr),
      atHead (entryOf i [5]) (vecAt i [5]) := by decide +kernel

theorem witness_WordsThatReduceScanAndCompare :
    (∀ i ∈ ([.vsel true 1 2 3 0 0, .vrsum true 1 2 0 3, .vrmax true 1 2 0 5, .vrmin true 1 2 0 7, .vrsum true 1 2 0 0, .vrmax true 1 2 0 1,
        .vrmin true 1 2 0 2, .vscan true 1 2 0 0, .vmov true 1 2 0, .vcmp true 1 2 3 0 0, .vicmp true 1 2 3 5 3, .vmlog true 1 2 3 0 7] : List Instr),
      atHead (entryOf i []) (vecAt i [])) ∧ fmtIsInt (fmtOfT 3) = true ∧ fmtIsInt (fmtOfT 2) = false := by decide +kernel

theorem witness_WordsThatConvert :
    ∀ i ∈ ([.vcvt true 1 2 0 1 0, .vcvts true 1 2 14 0 4, .vdqmx true 1 2 3 false 0, .vtrw true 3 1 2 0 0, .vtcr true 1 3 2 0 1, .vtz true 3,
        .vqmx true 2 1 7 true 0 true 3] : List Instr), atHead (entryOf i [63]) (vecAt i [63]) := by decide +kernel

theorem witness_DeliveredWordsTokensAndWaits :
    (∀ i ∈ ([.vany true 1 2 0 0, .vall true 1 2 0 0, .vmpop true 1 2 0 7, .vext true 1 2 3 0, .vflg true 1 false, .vflg true 1 true, .vtkw true 7, .vtks true 0,
        .vnop true 0xFFFF, .vchk true 1 false, .vseed true 1 2] : List Instr), atHead (entryOf i [1, 2]) (vecAt i [1, 2])) ∧
    (∀ f ∈ (vecAt (.vtks true 0) []).t.v.flights, f.land ≤ (vecAt (.vtks true 0) []).t.v.step) ∧
    (let s := demo []
     let x : Deliv := { reg := .s 3, val := 5, poison := none }
     { s with t := { s.t with v := { s.t.v with deliv := [x] } } }.t.v.deliv = [x]) ∧
    (let f : Flight := { land := 9, dst := .v 3, val := 0, mask := 0, poison := false, keep := false, flags := 0, also := none }
     let s := { (vecAt (.vtks true 0) []) with t := { (vecAt (.vtks true 0) []).t with v := { (vecAt (.vtks true 0) []).t.v with flights := [f] } } }
     atHead (entryOf (.vtks true 0) []) s ∧ ∃ f ∈ s.t.v.flights, s.t.v.step < f.land) := by decide +kernel

theorem witness_VectorLoadsAndStores :
    (∀ i ∈ ([.vld true 1 2 0, .vst true 1 2 0, .vlds true 1 2 3 3, .vsts true 1 2 3 0, .vgth true 1 2 3 0 2, .vsct true 1 2 3 0 3, .vmld true 1 2, .vmst true 1 2,
        .vtld true 0 1 2, .vacr true 1 1 2 3] : List Instr), atHead (entryOf i [0, 256]) (vecAt i [0, 256])) ∧
    ((demo []).tile 0 1).bad = [] := by decide +kernel

theorem witness_TheVectorEngineSteps :
    (stepping (.vnop true 1) 0 true).t.v.halted = true ∧
    (let s := stepping (.vnop true 1) 1 false
     s.t.st = .running ∧ s.t.v.halted = false ∧ s.pushBlocked s.dueFlights = false ∧ 0 < s.t.v.occ ∧ s.tokenBlocked [] = false) ∧
    (let w := entryOf (.vnop true 1) [0]
     let s := stepping (.vnop true 1) 0 false
     s.t.st = .running ∧ s.t.v.halted = false ∧ s.pushBlocked s.dueFlights = false ∧ s.t.v.occ = 0 ∧ s.nextStep = some [w] ∧ s.vecHeld = false ∧
     s.popBlocked [w] = false ∧ s.tokenBlocked [w] = false ∧ (s.landDue.stepCheck [w] 0).isNone = true ∧ s.t.v.q = [w] ∧ w.pops = []) ∧
    (let w := entryOf (.vmld true 1 1) [0]
     let s := { stepping (.vmld true 1 1) 0 false with t := { (stepping (.vmld true 1 1) 0 false).t with v :=
       { (stepping (.vmld true 1 1) 0 false).t.v with q := [{ w with caps := [65536] }] } } }
     s.nextStep = some [{ w with caps := [65536] }] ∧ s.vecHeld = false ∧ (s.landDue.stepCheck [{ w with caps := [65536] }] 0).isSome = true) ∧
    (pushing.t.v.occ = 0 ∧ pushing.t.v.q = [] ∧ pushing.t.v.flights.length = 1) := by
  and_intros <;> decide +kernel

theorem witness_MatrixWordsMultiplyTwoSlots :
    (∀ i ∈ ([.mma true 1 4 5 2, .mmat true 1 4 5 2] : List Instr), ∀ r ∈ [Arr.b, .bt],
      let s := matAt i [] (mySlot .full .a .e4m3) (mySlot .full r .e4m3)
      atMatrix (entryOf i []) s ∧ holds s 1 ∧ usable s 4 ∧ usable s 5 ∧ (s.slot s.core 4).readable = true ∧ (s.slot s.core 5).readable = true ∧
        mmaVersion (entryOf i []).pfx = none) ∧
    matched (mmaOp 2 none) false (mySlot .full .a .e4m3) (mySlot .full .b .e4m3) ∧ matched (mmaOp 2 none) true (mySlot .full .a .e4m3) (mySlot .full .bt .e4m3) ∧
    ¬ matched (mmaOp 2 none) true (mySlot .full .a .e4m3) (mySlot .full .b .e4m3) ∧
    (let s := matAt (.mma true 2 4 5 2) [] Slot.reset (mySlot .filling .b .e4m3); atMatrix (entryOf (.mma true 2 4 5 2) []) s ∧ ¬ holds s 2) ∧
    (let s := matAt (.mma true 1 4 5 2) [] Slot.reset (mySlot .filling .b .e4m3); holds s 1 ∧ (s.slotBad (whoOf (.mma true 1 4 5 2)) [4, 5]).isSome = true) ∧
    (let s := matAt (.mma true 1 4 5 2) [] (mySlot .full .a .e4m3) (mySlot .filling .b .e4m3); usable s 5 ∧ (s.slot s.core 5).readable = false) := by
  decide +kernel

theorem witness_MatrixWordsMoveTilesReleaseAndWait :
    (∀ i ∈ ([.mrel true 4 false, .mwait true 1 0, .mwait true 2 1, .mtks true 0, .mtkw true 0, .mzero true 1] : List Instr),
      atMatrix (entryOf i []) (matAt i [] (mySlot .full .a .f32) Slot.reset)) ∧
    (∀ i ∈ ([.mlda true 1 2, .mscal true 1 2 true, .mdrn true 1 2 0 0 false false false, .mdrn true 1 2 7 0 false true true] : List Instr),
      atMatrix (entryOf i [128]) (matAt i [128] Slot.reset Slot.reset) ∧ spanOk (matAt i [128] Slot.reset Slot.reset) 128 1024) ∧
    (let s := matAt (.mdrs true 1 4 1 0 false false false) [] (mySlot .empty .a .f32) (mySlot .full .a .f32)
     atMatrix (entryOf (.mdrs true 1 4 1 0 false false false) []) s ∧ holds s 1 ∧ ¬ holds s 2 ∧ usable s 4 ∧ (s.slot s.core 4).st = .empty ∧ usable s 5 ∧
       (s.slot s.core 5).st ≠ .empty ∧ (s.slot s.core 5).ownedBy s.t = true ∧ (s.slot s.core 6).ownedBy s.t = false ∧
       0 ≤ ((s.tile s.core 1).ver - 0).toInt ∧ ((s.tile s.core 1).ver - 1).toInt < 0 ∧ s.tokens 0 = 0) ∧
    (let s := matAt (.mrel true 4 true) [] (mySlot .filling .a .f32) Slot.reset; (s.slot s.core 4).ownedBy s.t = true ∧ (s.slot s.core 4).st = .filling) ∧
    (let s := { demo [] with t := { (demo []).t with tok := Vector.replicate 8 16 } }; 16 ≤ s.tokens 0 ∧ 0 < s.tokens 0) ∧ (demo []).tokens 7 < 16 := by
  decide +kernel

/-- A task record whose window has 192 KiB, as the widest span of a tile needs. -/
theorem witness_widest_span :
    (let s := { demo [] with t := { (demo []).t with tr := BitVec.ofNat 1024 (2 ^ 224 * 196608) } }; spanOk s 65536 131072) := by decide +kernel

theorem witness_FetchWordsSetViews :
    (∀ i ∈ ([.fview true 15 1 7, .fdim true 0 1 2 3, .fidx true 0 1 2 true, .fadv true 0 1 3] : List Instr), atFetch (entryOf i [65536, 1]) (fetAt i [65536, 1] View.zero)) ∧
    (let e := entryOf (.fshape true 0 1) [65472]
     let s := fetAt (.fshape true 0 1) [65472] View.zero
     atFetch e s ∧ (e.cap 0).toNat % 64 = 0 ∧ (e.cap 0).toNat + 64 ≤ s.t.window ∧ (begun s e).winBusy (commandOf s e none) 65472 65536 = false ∧
       (bitsOfBytes 512 (s.spad 65472 64)).extractLsb' 320 192 = 0) := by decide +kernel

theorem witness_FetchWordsBeginTheirCommands :
    (let i : Instr := .fill true 4 0 0
     let e := entryOf i []
     let s := fetSlot i [] (viewOf 1 64) .empty
     atFetch e s ∧ s.t.f.frel = none ∧ (s.slot s.core 4).ownedBy s.t = true ∧ (s.slot s.core 4).st = .empty ∧
       ∃ acc, (slotTaken s e 4 false).viewChecked (commandOf s e none).v 0 rREAD (whoOf i) true = .ok acc ∧
         (fillCheck acc (commandOf s e none).v (whoOf i) (arrOfRole 0)).isNone = true) ∧
    (let i : Instr := .fillc true 4 0
     let e := entryOf i []
     let s := fetSlot i [] { viewOf 2 32 with shaped := true, shape := shape8 } .empty
     atFetch e s ∧ ∃ acc, (slotTaken s e 4 false).viewChecked (commandOf s e none).v 0 rREAD (whoOf i) false = .ok acc ∧
       (fillcCheck acc (commandOf s e none).v (whoOf i)).isNone = true) ∧
    (let i : Instr := .fsts true 4 0
     let e := entryOf i []
     let s := fetSlot i [] (viewOf 1 64) .full
     atFetch e s ∧ (s.slot s.core 4).st = .full ∧ ∃ acc, (slotTaken s e 4 true).viewChecked (commandOf s e none).v 0 rWRITE (whoOf i) true = .ok acc ∧
       (fstsCheck acc (commandOf s e none).v (whoOf i) ((slotTaken s e 4 true).slot s.core 4)).isNone = true) ∧
    (let i : Instr := .fld true 0 1 2
     let e := entryOf i [65472, 0]
     let s := fetSlot i [65472, 0] (viewOf 1 64) .empty
     atFetch e s ∧ ∃ acc, (begun s e).viewChecked (commandOf s e none).v 0 rREAD (whoOf i) true = .ok acc ∧
       ((begun s e).spadRows (whoOf i) (commandOf s e none).v ((commandOf s e none).v.width acc.o) 65472 0).isNone = true) ∧
    (let i : Instr := .fst true 0 1 2
     let e := entryOf i [65472, 0]
     let s := fetSlot i [65472, 0] (viewOf 1 64) .empty
     atFetch e s ∧ ∃ acc, (begun s e).viewChecked (commandOf s e none).v 0 rWRITE (whoOf i) true = .ok acc ∧
       ((begun s e).spadRows (whoOf i) (commandOf s e none).v ((commandOf s e none).v.width acc.o) 65472 0).isNone = true) ∧
    (let i : Instr := .fcopy true 0 1
     let e := entryOf i []
     let s := fetSlot i [] (viewOf 1 64) .empty
     atFetch e s ∧ (∀ j, j < 4 → (commandOf s e none).v.ext j = (commandOf s e none).v2.ext j) ∧
       (∃ acc, (begun s e).viewChecked (commandOf s e none).v 0 rWRITE (whoOf i) true = .ok acc ∧ ((commandOf s e none).v.fmt acc.o == 3) = true) ∧
       (∃ acc, (begun s e).viewChecked (commandOf s e none).v2 0 rREAD (whoOf i) true = .ok acc ∧ ((commandOf s e none).v2.fmt acc.o == 3) = true)) ∧
    (let i : Instr := .fgth true 0 1 2 63
     let e := entryOf i [0, 32768]
     let s := fetSlot i [0, 32768] (viewOf 1 64) .empty
     atFetch e s ∧ (begun s e).winBusy (commandOf s e none) 32768 (32768 + 8 * 64) = false ∧
       ∃ acc, (begun s e).viewChecked (commandOf s e none).v 0 rREAD (whoOf i) false = .ok acc ∧
         ((begun s e).gthCheck (whoOf i) acc (commandOf s e none).v 0 32768 64).isNone = true) ∧
    (let i : Instr := .fpre true 0 2
     let e := entryOf i []
     let s := fetSlot i [] (viewOf 1 64) .empty
     atFetch e s ∧ ∃ acc, (begun s e).viewChecked (commandOf s e none).v 0 rREAD (whoOf i) true = .ok acc ∧ (acc.oid == 10) = true) := by
  and_intros <;> first | decide +kernel | exact exists_of_passes (by decide +kernel)

theorem witness_FetchWordsReleaseBindAndSignal :
    (∀ n ∈ [63, 64], let s := onFetch (fetAt (.fld true 0 1 2) [0, 0] (viewOf 1 64)) fun f =>
        { f with frel := some 5, rel := (List.range n).map fun k => commandAt (.fld true 0 1 2) k 64 }
      atFetch (entryOf (.fld true 0 1 2) [0, 0]) s ∧ s.t.f.frel = some 5 ∧ releasable (.fld true 0 1 2) = true ∧ s.relHeld = n ∧
        stopBit (.fld true 0 1 2) ≠ none ∧ engineOf (.fld true 0 1 2) = 4) ∧
    (∀ i ∈ ([.frel true 1, .fbind true 0 0 false false, .funb true 0, .fdone true 1 2 true, .ftks true 0, .ftkw true 0] : List Instr),
      let s := fetAt i [65528, 0] (viewOf 1 64)
      atFetch (entryOf i [65528, 0]) s ∧ (s.port 0).bound = false ∧ portDrains (freed s 0) 0 = false ∧ s.t.f.frel = none ∧ s.t.f.fdone.length < 16 ∧
        ((entryOf i [65528, 0]).cap 0).toNat % 8 = 0 ∧ ((entryOf i [65528, 0]).cap 0).toNat + 8 ≤ s.t.window ∧ s.tokens 0 = 0) ∧
    (let e := entryOf (.fbind true 0 0 false false) []
     let s := fetAt e.w [] (viewOf 1 64)
     ∃ acc, (begun (freed s 0) e).viewChecked (viewAt s 0) 0 rREAD (whoOf e.w) true = .ok acc ∧ (acc.oid == 10) = true) ∧
    (∀ n ∈ [0, 1], let s := onFetch (demo []) fun f => { f with ports := vset f.ports 0 { Port.unbound with
        bound := true, out := true, fifo := List.replicate n { data := 0, poison := false } } }
      (s.port 0).bound = true ∧ portDrains (freed s 0) 0 = (n == 1)) ∧
    (let s := onFetch (demo []) fun f => { f with fdone := (List.range 16).map fun k => { seq := k, beg := k, all := false, off := 0, val := 0 } }
     s.t.f.frel = none ∧ 16 ≤ s.t.f.fdone.length) ∧
    (let s := { demo [] with t := { (demo []).t with tok := Vector.replicate 8 1 } }; 0 < s.tokens 0) := by
  and_intros <;> first | decide +kernel | exact exists_of_passes (by decide +kernel)

theorem witness_FetchCommandsIssueRequests :
    (let s := fetAt (.fld true 0 1 2) [0, 0] (viewOf 1 64)
     let e := entryOf (.fld true 0 1 2) [0, 0]
     s.t.st = .running ∧ s.t.image = false ∧ s.t.f.act = none ∧ s.t.f.q.head? = some e ∧ s.fetWaits e = false ∧ s.fetHalted = false ∧ s.fetStalled = false ∧
       s.t.x.hmode = false) ∧
    (let a := commandAt (.fld true 0 1 2) 3 64
     let b := { commandAt (.fld true 0 1 2) 4 64 with rel := some 1000001 }
     let s := onFetch (issuing 0 []) fun f => { f with rel := [a, b] }
     s.t.st = .running ∧ s.t.f.rel = [] ++ a :: [b] ∧ a.rel = some 0 ∧ (0 : Word) ≤ s.ticks ∧ (∀ b ∈ s.t.f.rel, b.rel ≠ none) ∧ s.ticks < 1000001) ∧
    (let a := { commandAt (.fld true 0 1 2) 0 64 with v := { viewOf 1 8 with base := #v[16380, 0, 0, 0] } }
     let s := onFetch { demo [] with objs := [(10, { objOf 0 false 0 with ext := #v[32768, 1, 1, 1], shsize := 32768 })] } fun f => { f with act := some a }
     s.t.f.cmd 0 = some a ∧ a.halted = false ∧ a.ended = false ∧ a.mason = none ∧ s.fetStalled = false ∧ a.ok = true ∧ a.fail = none ∧
       fetWrites a.e.w = false ∧ s.coreRequests < 16384 ∧
       ∃ acc, s.recheck a.v rREAD (whoOf a.e.w) = .ok acc ∧ ((a.elemTrap acc 0).isNone && acc.o.res != 3 &&
         decide (runLen (a.key acc.o acc.o) (fun p => (a.elemTrap acc p).isNone) (a.total - 0) 0 [] ≠ a.total)) = true) ∧
    16384 ≤ (issuing 0 (List.replicate 16384 request)).coreRequests ∧
    (let s := onFetch (demo []) fun f => { f with act := some { commandAt (.fld true 0 1 2) 0 64 with ok := false } }
     (s.t.f.cmd 0).any (fun a => !a.ok) = true) ∧
    (let w : Walk := { die := 1, oid := 10, key := 5 }
     let s := { demo [] with walks := [w] }
     (s.walks.filter fun w => w.die == 1).head? = some w ∧
       (s.transfers.filter fun x => x.cls == 2 && x.unit == 1).length < (s.walks.filter fun w => w.die == 1).length) := by
  and_intros <;> first | decide +kernel | exact exists_of_passes (by decide +kernel)

theorem witness_FetchRequestsComplete :
    (∀ r ∈ ([0, 2] : List (BitVec 2)), let s := issuing r [request]
      let a := { commandAt (.fld true 0 1 2) 0 64 with outst := [request] }
      mayComplete s 0 a request [] ∧ (s.reqFirst a request).any (fun x => s.placeOf x.1 x.2.1 == r.toNat && x.2.2 == 0) = true ∧
        1000000 ≤ (s.ticks - request.since).toNat ∧ ({ s with ticks := 0 }.ticks - request.since).toNat < 50000 ∧ request.bad = false ∧
        (s.moveReq a request none).2.2.isNone = true) ∧
    (let s := issuing 0 [request]
     let a := { commandAt (.fld true 0 1 2) 0 64 with outst := [request] }
     (s.moveReq a request (some (1, 0))).2.2.any (fun b => b.1.1.1 == 1 && (s.unanswered (.asked request.since) b.1.1.1).isNone) = true) ∧
    (∀ b ∈ [false, true], let a := { commandAt (.fill true 4 0 0) 0 64 with ended := b }
      a.ended = b ∧ a.halted = false ∧ a.buf = [] ∧ a.quit = none ∧ ((fetSlot a.e.w [] (viewOf 1 64) .filling).slot 0 4).dying = false) ∧
    (let d : FDone := { seq := 0, beg := 0, all := true, off := 0, val := 5 }
     let s := onFetch (demo []) fun f => { f with fdone := [d] }
     s.t.f.fdone.find? s.doneReady = some d) ∧
    (let d : FTok := { seq := 0, k := 7 }
     let s := onFetch (demo []) fun f => { f with ftks := [d] }
     s.t.f.ftks.find? (fun t => s.t.f.allOver t.seq && s.pushFits t.k 1) = some d) := by decide +kernel

theorem witness_StreamsAndImagesMoveBytes :
    (∀ i ∈ ([.fld true 0 1 2, .fst true 0 1 2] : List Instr), let s := moved i
      let a := { commandAt i 0 64 with outst := [request] }
      mayComplete s 0 a request [] ∧ request.bad = false ∧ a.buf = [] ∧ a.chunk = none ∧
        ∃ v1, s.viaOf request.oid a.v (viaL1 i) = some v1 ∧ ((movedAll s a request v1 v1).err.isNone && fetWrites i == (i == .fst true 0 1 2) &&
          (State.sendLines request.oid v1.acc.o false (movedAll s a request v1 v1).buf
            { (movedAll s a request v1 v1).s with t := { (movedAll s a request v1 v1).s.t with win := s.t.win, v := s.t.v } }).2.isNone) = true) ∧
    (let a := commandAt (.fillc true 4 0) 0 64
     let a := { a with v := { viewOf 2 32 with shaped := true, shape := shape8 } }
     (a.tupleAt 0).isSome = true) ∧
    (let x := Xf.start framed [] 0
     let v : Via := { acc := { h := 5, oid := 14, e := HEntry.full 14, o := objOf 0 false 0 }, noalloc := true, l1 := false }
     480 % 512 + 32 ≤ 512 ∧ x.cache.isEmpty = true ∧ (match x.s.readLine 1 14 v.acc.o 0 0 true with | (_, .ok _) => true | _ => false) = true ∧
       x.buf.isEmpty = true ∧ x.s.portBufs = [] ∧
       ((x.get v (0, 0) 32).1.cache.find? (fun p => p.1 == lkey 14 0 (0 / 512))).isSome = true) ∧
    (let s := bound false
     let p := s.port 1
     s.t.st = .running ∧ s.fetStalled = false ∧ s.transfers = [] ∧ p.bound = true ∧ p.out = false ∧ p.dead = false ∧ p.halted = false ∧ p.ended = false ∧
       p.mason = none ∧ p.fail = none ∧ p.perPass ≠ 0 ∧ p.fifo.length < 8 ∧ s.portMustWait 1 p = false ∧ p.width = 32 ∧ 64 * (p.count % p.perPass + 1) ≤ p.total ∧
       ∃ acc, s.portChecked p (whoOf (.fbind false 0 0 false false)) = .ok acc ∧ ((s.ask 1 s.core s.t.ctx 1).portRead p acc).2.2.isNone = true) ∧
    (let s := bound true
     let p := s.port 1
     p.out = true ∧ p.dead = false ∧ p.halted = false ∧ p.fifo = [{ data := 0, poison := false }] ∧ s.portMustWait 1 p = false ∧
       ∃ acc, s.portChecked p (whoOf (.fbind false 0 0 false true)) = .ok acc ∧ (match s.prepAll acc [(0, 0)] with | .ready _ => true | _ => false) = true) ∧
    (let s : State := { framed with t := { framed.t with image := true, tr := BitVec.ofNat 1024 (2 ^ 32 * 64 + 2 ^ 64 * 5 + 2 ^ 224 * 65536) },
                                    objs := [(14, objOf 11 false 0)] }
     s.t.st = .running ∧ s.t.image = true ∧ s.t.imageHalt = false ∧ s.t.starts = [] ∧ s.t.x.hmode = false ∧ s.fetStalled = false ∧ s.transfers = [] ∧
       s.progress = .plain ∧
       ∃ acc, s.dataChecked s.t.ctx ((s.t.tr.extractLsb' 64 24).setWidth 64) rREAD imageWho = .ok acc ∧
         ((boundsChecked acc (fun _ => 0) (fun j => if j = 0 then (s.t.tr.extractLsb' 32 32).toNat else 1) imageWho [0, 1, 2, 3]).isNone && acc.o.res != 3 &&
           (match (s.ask 1 s.core s.t.ctx 1).readObj 0 1 14 acc.o 0 0 64 false true with | (_, .ok _) => true | _ => false)) = true) := by
  and_intros <;> first | decide +kernel | exact exists_of_passes (by decide +kernel)

theorem witness_EncodedLinesDecodeToThemselves : (nzWords (0 : BitVec 512)).length = 0 ∧ (nzWords (1 : BitVec 512)).length ≠ 0 := by decide +kernel

theorem witness_LinesAreFilledWrittenAndPinned :
    (let s := demo []
     s.l2pending 64 = none ∧ s.l2line 64 = none ∧ s.bad.contains (lineAddr 64) = false ∧ s.lineBad 64 = false ∧ ({ s with bad := [64] }).lineBad 64 = true ∧
       ((s.askTier 1 64).place 1 64 0 fun _ => 0).isSome = true ∧ ((crowded.askTier 1 64).place 1 64 0 fun _ => 0).isSome = false ∧
       (s.l2reserve 1 64).isSome = true ∧ (crowded.l2reserve 1 64).isSome = false ∧ crowded.l2pending 64 = none ∧ (1 : BitVec 512) ≠ BitVec.allOnes 512) ∧
    ((demo []).l2reserve 1 64).any (fun s => (s.l2pending 64).isSome && (s.l2line 64).isNone && (s.place 1 64 0 fun _ => 0).isSome &&
      ({ s with bad := [64] }).bad.contains (lineAddr 64)) = true ∧
    (cached.l2line 64).isSome = true ∧ cached.l2bad.contains (lineAddr 64) = false ∧ soundSet (cached.l2set (setKey 64)) ∧
    (({ cached with l2bad := [64] }).l2bad.filter fun b => b / 256 == (64 : BitVec 48).toNat / 256) = [lineAddr 64] ∧
    (let f := [0, 64, 128, 192].foldl (fun (t : State) x => (t.l2fill 1 (0 + BitVec.ofNat 48 x) false false).1) (demo [])
     ((f.l2set (setKey 0)).find (ptagOf 0)).isSome = true) ∧
    (((demo []).l2write 1 64 (BitVec.allOnes 512) (BitVec.allOnes 512) false).l2line 64).any (fun p => p.2.dirty != 0) = true := by
  and_intros <;> decide +kernel

theorem witness_PeersPortsAndHostsAreServed :
    (demo []).boot.portsUp = true ∧
    ((demo []).boot.members[((14 : BitVec 48).extractLsb' 32 16 ^^^ (14 : BitVec 48).extractLsb' 16 16 ^^^ (14 : BitVec 48).extractLsb' 0 16).toNat
      * (demo []).boot.members.length / 65536]?).isSome = true ∧
    ((demo []).obj 14).isSome = true ∧ (demo []).placeOf (objOf 0 false 0) 0 < 2 ∧ 192 + 64 ≤ (objOf 0 false 0).shardBytes 0 ∧
    (demo []).moves.any (fun m => m.oid == 14 && m.copied) = false ∧
    (match (demo []).readObj 48 1 14 (objOf 0 false 0) 0 192 64 false false with | (_, .ok _) => true | _ => false) = true ∧
    (match ({ framed with bad := [9 * 65536 + 192] } : State).readObj 48 1 14 (objOf 0 false 0) 0 192 64 false false with | (_, .error _) => true | _ => false) = true ∧
    ((demo []).framesFor 0 14 (objOf 0 false 0) 0 (pagesOf 192 64)).any
      (fun s => (s.writeObj 48 1 14 (objOf 0 false 0) 0 192 [1, 2] false).2 == none) = true ∧
    (peerAtomic 9 4 5 [5, 0, 0, 0, 6, 0, 0, 0]).isSome = true ∧
    ((leBytes 128 taskRecord).length = 128 ∧ (demo []).admits 1 7 = true ∧ (demo []).admits 2 8 = false ∧
      ∃ rc, (demo []).recordChecked 1 0 (bitsOfBytes 1024 (leBytes 128 taskRecord)) { eng := 0, op := 0 } = .ok rc ∧
        ((demo []).fillEntry 0 (bitsOfBytes 1024 (leBytes 128 taskRecord)) rc).isSome = true) ∧
    ((poolOf 4096).admits 1 7 = true ∧
      ∃ rc, (poolOf 4096).recordChecked 1 0 (bitsOfBytes 1024 (leBytes 128 taskRecord)) { eng := 0, op := 0 } = .ok rc ∧ (rc == 1) = true) ∧
    ((windowed.wins.find? fun w => w.num == 0).isSome = true ∧ (windowed.wins.find? fun w => w.num == 1) = none ∧
      (∀ need ∈ [rREAD, rWRITE], passes ((windowed.entryChecked 1 5 { eng := 0, op := 0 }).bind fun p =>
        (windowed.objChecked p.1 p.2 { eng := 0, op := 0 } (!windowed.byReplica p.2.oid need)).bind fun a => rightsChecked a 3 need { eng := 0, op := 0 })
        (fun a => windowBounds a 252 4 && a.o.res != 3 && (match windowed.readObj 48 1 a.oid a.o 0 252 4 false false with | (_, .ok _) => true | _ => false) &&
          (match State.prepPages 0 1 a.oid a.o 0 (pagesOf 252 4) windowed with
            | .ready s1 => (s1.writeObj 48 1 a.oid a.o 0 252 [1, 2, 3, 4] false).2 == none
            | _ => false)) = true)) := by
  and_intros <;> first | decide +kernel | exact exists_of_passes (by decide +kernel)

/-- With a full pool no record is admitted. -/
theorem witness_full_pool : (poolOf 4096).fillEntry 0 (bitsOfBytes 1024 (leBytes 128 taskRecord)) 1 = none := fillEntry_none (poolOf_full rfl) _ _

theorem witness_TasksArePlacedParkedAndSaved :
    (ready.partFree 0 = true ∧ (match ready.pick 0 with | some (t, r) => (r.taskById t.id).isSome | none => false) = true) ∧
    (let s := parking
     s.t.st = .running ∧ s.t.c.phase = .running ∧ s.wordAtPc = some (.waitw true 0 0 0 0) ∧ parks (.waitw true 0 0 0 0) = true ∧ s.drained = true ∧
       s.waitOver (.waitw true 0 0 0 0) (.chunk 0 0) = false ∧ s.interruptible = true ∧ s.t.x.hmode = false ∧ s.t.starts = []) ∧
    (let s := { demo [] with t := { (demo []).t with ranClk := 1000 }, others := ready.others.map fun (t : Task) => { t with id := 0x10001 } }
     s.t.st = .running ∧ s.ctxField 1 736 32 ≠ 0 ∧ s.ctxField 1 736 32 ≤ s.t.ranClk ∧ s.t.x.slice = false ∧
       (s.others.any fun u => (State.roomFor { s with t := { s.t with st := .parked } } u s.t.part).isSome) = true) ∧
    (let s := { parking with t := { parking.t with x := { parking.t.x with stop := true, remain := 0 } } }
     s.t.st = .running ∧ s.t.x.asked = true ∧ s.t.x.remain = 0 ∧ s.interruptible = true) ∧
    (let s := { demo [] with others := [{ Task.idle with st := .ready, id := 9, saving := true }] }
     (s.taskById 9).any (fun t => t.saving) = true) ∧
    (let i : TrapInfo := { cause := .software, x0 := 0, x1 := 0, x2 := 0, x3 := 0 }
     let q : PTrap := { eng := 4, info := i, cmd := 0, pos := 0, halting := true, clk := 3 }
     parking.handlerWaits i.cause = false ∧ i.cause ≠ .missingObject ∧ parking.t.startAsk = .plain ∧ parking.t.x.pending = [] ∧ { parking with t := { parking.t with x := { parking.t.x with pending := [q] } } }.t.x.pending = [q]) ∧
    (let s := { demo [] with events := [{ ctx := 1, ev := 5 }], ctxs := [(1, ringed)] }
     s.ctx 1 = some ringed ∧ s.ringObj 1 4 16 32 = some (13, objOf 14 true 2) ∧ (s.appendEvent 1 5).2 = true ∧ s.findRing 8 (s.parent 2) [2] = (none, [2]) ∧
       (s.findRing 8 1 [2]).1 = some 1 ∧ s.ringMoving 1 = false) := by decide +kernel

theorem witness_MasonAnswersFaultsAndEvents :
    (let i : TrapInfo := { cause := .missingObject, x0 := 0, x1 := 0, x2 := 0, x3 := 0 }
     let s := sent [.fault 3 1 0 i] []
     s.mason = [.fault 3 1 0 i] ∧ s.t.c.wait.any (fun w => w.progress == .sent 3) = true) ∧
    (let s := { demo [] with mason := [.event 2 5 1], others := [{ Task.idle with st := .reflected, id := 5, ctx := 2 }] }
     s.mason = [.event 2 5 1] ∧ (State.taskById { s with mason := [] } 5).any (fun t => t.st == .reflected && t.told == 0) = true ∧
       (1 : BitVec 512).extractLsb' 0 8 = 1) ∧
    (let s := { demo [] with mason := [.event 2 5 1], others := [{ Task.idle with st := .ready, id := 5, ctx := 2 }] }
     (State.taskById { s with mason := [] } 5).any (fun t => t.st != .reflected) = true) := by decide +kernel

theorem witness_WeirsGrantAndBanksArbitrate :
    (let s := { demo [] with weirs := [(weirKey 1 0, { Weir.reset with buckets := [{ ctx := 1, tokens := 2 ^ 26, credit := 0, part := 287 }] })]
                             transfers := [transfer] }
     canBegin s 1 0 ∧ (pickAt s 1 0).2.1.isSome = true ∧ (pickAt s 1 0).2.2 = true) ∧
    (let s := { demo [] with transfers := [transfer] }
     canBegin s 1 0 ∧ (pickAt s 1 0).2.1.isSome = true ∧ (pickAt s 1 0).2.2 = false) ∧
    (let s := { demo [] with intake := [(0, .omcall 3 1 0 0 0 0 [])], boot := { (demo []).boot with intake := 1000 } }
     canBegin s 7 0 ∧ (pickAt s 7 0).2.1.any (fun r => s.intake[r.place]? == some (0, .omcall 3 1 0 0 0 0 [])) = true) ∧
    (let s := { matAt (.mzero true 1) [] Slot.reset Slot.reset with grants := [], t := { (matAt (.mzero true 1) [] Slot.reset Slot.reset).t with eligAt := some 0 } }
     canBegin s 0 0 ∧ (pickAt s 0 0).2.1.isSome = true) ∧
    (pickAt (demo []) 1 0).2.1 = none ∧ canBegin (demo []) 1 0 ∧
    ¬ canBegin { demo [] with weirs := [(weirKey 1 0, { Weir.reset with busy := 2 ^ 20 })] } 1 0 ∧
    (let bw : List (Nat × Bool × Nat) := [(6, true, 0), (2, false, 15), (3, false, 16), (6, false, 3)]
     (∃ r ∈ bw, fetchWrite r) ∧ (∃ r ∈ bw, aged r) ∧ (∃ r ∈ bw, ofVector r) ∧ (∀ q ∈ bw, q.2.2 < 2 ^ 32) ∧ bw.length < 2 ^ 32) := by
  unfold canBegin fetchWrite aged ofVector; decide +kernel

theorem witness_ClocksFollowDroopHeatAndPower :
    (∀ p ∈ [(15, 1024), (16, 1024), (8, 1023)], let d : Die := { clock := p.1, since := p.2, phase := 0, count := 0 }
      3 < 4 ∧ vget (clocked p.1 p.2).dies 3 d = d) ∧ (demo []).boot.rootImg.isSome = true ∧ (demo []).boot.step = 6 := by decide +kernel

/-- Whether a signature verifies is a free value (`Config.signatureOk`), so no image can be shown to pass: an image passes as soon as its
signature does, and one that is too short never does. -/
theorem witness_BootVerifiesItsImages :
    (booting 2 none).boot.step = 2 ∧ (booting 3 none).boot.step = 3 ∧ (booting 3 none).boot.masonImg = none ∧ (booting 3 none).boot.stash = none ∧
    (booting 3 (some 1)).boot.masonImg.isSome = true ∧ (booting 3 (some 1)).boot.watchdog = false ∧ imageOk [] = false ∧ manifestOk [] = false ∧
    (∀ img, sigBytes ≤ img.length →
      Config.signatureOk (Config.shake256 (img.take (img.length - sigBytes))) (img.drop (img.length - sigBytes)) = true → imageOk img = true) ∧
    (demo []).boot.rootImg.isSome = true ∧ alGet (demo []).keys 0 = some 5 ∧ alGet (demo []).keys 1 = none ∧ framed.slotPages 0 = [(pageKey 14 0 0, 9)] ∧
    layout1.sound 1200 = true ∧ (let s := { booting 3 (some 1) with ctxs := [] }; s.admitsLayout { layout1 with roots := [recordOf 10 0] } = true) := by
  and_intros <;> first
    | decide +kernel
    | (intro img h1 h2; simp [imageOk, h1, h2])

theorem witness_LayoutsChangeAndSubtreesMigrate :
    (laidOut.boot.rootImg.isSome = true ∧ laidOut.boot.step = 6 ∧ laidOut.boot.shadow = none ∧
      ({ layout1 with roots := [0] } : Layout).sound laidOut.boot.intake = false ∧
      (let l : Layout := { layout1 with roots := [recordOf 10 0] }
       l.sound laidOut.boot.intake = true ∧ laidOut.admitsLayout l = true ∧ laidOut.coresBusy (affected laidOut.boot.layout l) = false ∧
         0 ∈ affected laidOut.boot.layout l)) ∧
    (∀ j ∈ [Journal.none, .prepared, .committed], let s := { laidOut with boot := { laidOut.boot with shadow := some layout1, journal := j } }
      s.boot.shadow = some layout1 ∧ s.boot.journal = j ∧ s.coresBusy (affected s.boot.layout layout1) = false) ∧
    (laidOut.subtree 1 = [1, 2] ∧ (7 : BitVec 12) ≠ laidOut.boot.ep ∧ (7 : BitVec 12) ∈ laidOut.boot.members ∧ laidOut.subtreeRuns 1 = false ∧
      laidOut.ctxIs 1 .stopped = true ∧ ∀ t ∈ laidOut.tasks, t.ctx ∈ laidOut.subtree 1 → t.saving = false) ∧ (demo []).subtreeRuns 1 = true ∧
    (let m : Moved := { ep := 7, objs := [], remote := [], events := [], ctxs := [(9, ctxOf 0xFFF .stopped lean)], handles := [], groups := [], trigs := [],
                        tasks := [{ Task.idle with st := .parked, id := 0x20000, ctx := 9 }], slots := [], tiles := [] }
     let s := { laidOut with inbound := [m] }
     s.takes m = true ∧ (s.landTree m).isSome = true ∧ (s.inbound.find? fun m => (m.ctxs.any fun x => x.1 == 9) && s.takes m) = some m) ∧
    (∀ m ∈ laidOut.inbound, laidOut.takes m = false) := by decide +kernel

theorem witness_DecodingAndEncodingAgree :
    (∀ i ∈ ([.add true 31 0 31, .hqry false 7 5 10 3, .vqmx true 15 31 7 true 4 true 3, .mma false 15 127 127 7, .fgth true 15 31 31 63] : List Instr),
      i.wf = true ∧ (encode i).isSome = true) ∧ decode 0x84060000 = .ok (.li true 6 0) := by decide +kernel

theorem witness_EveryStepKeepsMemoryCanonical :
    canonical (demo []) ∧ (match step (demo []) with | .next _ => true | _ => false) = true := by
  unfold canonical keptWell sentWell; and_intros <;> first | decide +kernel | exact fun m h => nomatch h

theorem witness_AStepRunsTheDecodedWord :
    (let s := demo []
     s.agenda = [] ∧ s.t.st = .running ∧ s.t.c.phase = .running ∧ s.t.c.wait = none ∧ s.boot.held.contains s.core = false ∧
       s.t.c.words[(s.t.c.pc - s.t.c.grp).toNat]? = some 0x84060005 ∧ decode 0x84060005 = .ok (.li true 6 5) ∧ s.boot.held.contains 0 = false ∧
       s.duties = [] ∧ s.busyWeirs = [] ∧ s.stride 1 = 1 ∧ s.ctx (s.parent 1) = none ∧ s.ctxIs 1 .deleting = false) ∧
    (let s := { vecAt (.vnop true 1) [] with agenda := [.turn .vector], turn := .control }
     s.t.v.q.head? = some (entryOf (.vnop true 1) []) ∧
       (match exec (.vnop true 1) { s with agenda := [], turn := .vector } with | .next _ => true | _ => false) = true) ∧
    (let s := { matAt (.mzero true 1) [] Slot.reset Slot.reset with agenda := [.turn .matrix], turn := .control }
     s.t.mq.head? = some (entryOf (.mzero true 1) []) ∧
       (match exec (.mzero true 1) { s with agenda := [], turn := .matrix } with | .next _ => true | _ => false) = true) ∧
    (let s := { fetAt (.frel true 1) [5] View.zero with agenda := [.turn .fetch], turn := .control }
     s.t.f.q.head? = some (entryOf (.frel true 1) [5]) ∧
       (match exec (.frel true 1) { s with agenda := [], turn := .fetch } with | .next _ => true | _ => false) = true) ∧
    ({ demo [] with transfers := [transfer] } : State).busyWeirs ≠ [] ∧
    { demo [] with boot := { (demo []).boot with held := [0] } }.boot.held.contains 0 = true ∧ encode (.taskPlace 0) = none ∧
    engineEvent .vectorStep = true ∧ masonEvent .move = true := by decide +kernel

/-- The small machine at a boundary before words that stand in its code object, in a loop up to word k or in none. -/
def coded (ws : List Nat) (k : Option Word) : State :=
  let s := demo []
  { s with objs := [(12, { objOf 14 false 2 with ext := #v[8, 1, 1, 1], shsize := 8 })]
           remote := Mem.write [] (remKey 12 0 0) (ws.flatMap (leBytes 4))
           t := { s.t with c := { s.t.c with
             phase := .boundary, stack := match k with | some _ => [1] | none => []
             loops := vset s.t.c.loops 1 { start := 0, last := k.getD 0, count := 4 } } } }
/-- The loop machine with all four loops active. -/
theorem witness_every_loop_active :
    (let s := looping 4 3
     let s := { s with t := { s.t with c := { s.t.c with loops := Vector.replicate 4 { start := 2, last := 5, count := 4 }, stack := [0, 1, 2, 3] } } }
     s.t.x.hmode = false ∧ (∀ j, (s.t.c.loop j).count ≠ 0) ∧ okS s 1) := by decide +kernel

/-- The words of the group at word 0 of a machine. -/
def wordsAt (s : State) : List IWord := s.groupWords s.t.c.codeO (s.codeLen s.t.c.codeO) 8 0

/-- The machine of `coded` meets what every group clause assumes. -/
theorem witness_group_at_a_boundary :
    (let s := coded [0x04060005, 0x70000000, 0x84060005] none
     s.t.x.hmode = false ∧ (0 : Word).toNat < s.codeLen s.t.c.codeO ∧ s.t.st = .running ∧ s.t.c.phase = .boundary ∧
      s.t.x.pending = [] ∧ s.t.starts = [] ∧ s.t.image = false ∧ s.codeAcc.isSome = true ∧ codeFault s = none) := by decide +kernel

theorem witness_violation_in_a_group :
    (let s := coded [0x04060005, 0x70000000, 0x84060005] none
     wordsAt s = [0x04060005, 0x70000000, 0x84060005] ∧ violationAt (wordsAt s) false [] 0 0x04060005 = none ∧
       violationAt (wordsAt s) false [.li false 6 5] 1 0x70000000 = some 1) := by decide +kernel

theorem witness_lawful_group_past_a_loop_end :
    (let s := coded [0x04060005, 0x84070005] (some 0)
     wordsAt s = [0x04060005, 0x84070005] ∧ violationAt (wordsAt s) false [] 0 0x04060005 = none ∧
       violationAt (wordsAt s) false [.li false 6 5] 1 0x84070005 = none ∧
       s.t.c.stack = [1] ∧ (0 : Word) ≤ (s.t.c.loop 1).last ∧ (s.t.c.loop 1).last < 0 + 1) := by decide +kernel

theorem witness_group_without_a_stop_bit :
    (let s := coded [0x04060005] none
     (wordsAt s).getLast? = some 0 ∧ (0 : IWord).getLsbD 31 = false) := by decide +kernel

theorem witness_code_that_cannot_be_read :
    (let s := { coded [0x84060005] none with remoteBad := [remKey 12 0 0] }
     s.codeAcc.isSome = true ∧ (codeFault s).any (fun p => (s.unanswered s.t.startAsk p.2).isNone) = true ∧ s.handlerWaits .fetchError = false) := by
  decide +kernel

/-- The small machine with page 0 of object 14 in frame 0, whose line at address 64 the L2 holds while the package lacks its key. -/
def keyless : State := { cached with pages := [(pageKey 14 0 0, 0)], keys := [] }

theorem witness_lines_missed_and_lines_kept :
    (let s := framed
     (objOf 0 false 0).coherent = false ∧ s.l1.find? (fun x => x.core == 0 && x.oid == 14 && x.line == l1Line 0 192) = none ∧ s.spn 0 < 16 ∧
       (match s.readLine 1 14 (objOf 0 false 0) 0 192 false with | (t, .ok _) => t.spn 0 == s.spn 0 | _ => false) = true ∧
       s.replicaServes (objOf 0 false 0) 0 = false ∧ s.mapBad (objOf 0 false 0) 0 = false ∧ settledL2 s) ∧
    (let s := { framed with bad := [(physAddr 9 192).toNat] }
     s.l1.find? (fun x => x.core == 0 && x.oid == 14 && x.line == l1Line 0 192) = none ∧
       (match s.readLine 1 14 (objOf 0 false 0) 0 192 false with | (_, .error _) => true | _ => false) = true) ∧
    (keyless.frameOf 14 0 0 = some 0 ∧ keyless.keyHeld (objOf 0 false 0) = false ∧ (keyless.l2line (physAddr 0 64)).isSome = true ∧
      keyless.lineBad (physAddr 0 64) = false ∧ keyless.l2pending (physAddr 0 64) = none ∧ keyless.reachesTier 1 (physAddr 0 64) 0 0 true = false) := by
  unfold settledL2; decide +kernel

/-- How many switch levels lie between two packages is a free value (`Config.switchLevels`); where there are some, a replica in this package's own
tiers is nearer than a home elsewhere. -/
theorem witness_reads_that_a_replica_serves :
    (let o := { objOf 0 false 0 with home := 6, sealed := true, repl := [5] }
     (demo []).mapBad o 0 = false ∧
     (Config.switchLevels 6 ≠ 0 → (demo []).replicaServes o 0 = true ∧ (demo []).nearest o 0 = (demo []).boot.ep)) ∧
    (demo []).mapBad (objOf 0 false 2) 0 = false ∧ (demo []).replicaServes (objOf 0 false 2) 0 = false := by
  refine ⟨⟨by decide +kernel, fun h => ?_⟩, by decide +kernel, by decide +kernel⟩
  have hn : (demo []).nearest { objOf 0 false 0 with home := 6, sealed := true, repl := [5] } 0 = 5 := by
    simp [State.nearest, State.shardEp, objOf, State.nearer]
    exact (Nat.pos_of_ne_zero h : 0 < Config.switchLevels 6)
  exact ⟨by unfold State.replicaServes; rw [hn]; rfl, hn⟩

theorem witness_log_writes :
    (match (logging false 11).logPage 1 1 10 0 (pageKey 10 0 0) with | .ok _ => true | _ => false) = true ∧
    (match (logging true 11).logPage 1 1 10 0 (pageKey 10 0 0) with | .stall => true | _ => false) = true ∧
    (match (logging false 12).logPage 1 1 10 0 (pageKey 10 0 0) with | .full _ => true | _ => false) = true := by decide +kernel

/-- A release that an earlier access of the task keeps waiting: a fetch write to the coherent object. -/
def releasing : State :=
  let s := demo [(1, 2), (2, 63), (4, 7)]
  let s := { s with objs := [(11, objOf 8 true 0)] }
  onFetch s fun f => { f with act := some { commandAt (.fst true 0 1 2) 0 64 with v := viewOf 2 64 } }

theorem witness_releases_that_wait :
    (let s := releasing
     s.progress = .plain ∧ okS s 1 ∧ okS s 2 ∧ okS s 4 ∧ s.coherentOpen = true ∧
       (atomicRule (.aadd true 4 1 2 false true false 2) s).any (fun r => r.release) = true ∧
       (∃ x : Acc × List (Nat × Nat × Nat), s.xacc (whoOf (.aadd true 4 1 2 false true false 2)) (s.rs (1 : BitVec 5)).val (s.rs (2 : BitVec 5)).val 4 rATOMIC 4 = .ok x ∧ (x.1.oid == 11) = true) ∧
       (∃ x : Acc × List (Nat × Nat × Nat), s.xacc (whoOf (.ast true 4 1 2 true 2)) (s.rs (1 : BitVec 5)).val (s.rs (2 : BitVec 5)).val 4 rATOMIC 4 = .ok x ∧ (x.1.oid == 11) = true)) ∧
    (let s := { demo [] with t := { (demo []).t with c := { (demo []).t.c with words := [0xD0030800] } } }
     s.t.c.wait = none ∧ s.t.c.synAtHand = true) := by
  and_intros <;> first | decide +kernel | exact exists_of_passes (by decide +kernel)

theorem witness_ends_in_a_handler :
    inHandler.t.x.hmode = true ∧ inHandler.t.c.phase ≠ .ending ∧
    (let e : QEntry := { entryOf (.vext true 3 1 1 0) [0] with was := some poisonedReg }
     let s := { inHandler with t := { inHandler.t with v := { inHandler.t.v with q := [e] }, c := { inHandler.t.c with pend := [.s 3] } } }
     s.t.x.hmode = true ∧ s.t.c.phase ≠ .ending ∧ s.t.v.q = [e] ∧ deliversOf e.w = some (.s 3) ∧ e.was = some poisonedReg ∧ s.t.c.pend.contains (.s 3) = true) := by
  decide +kernel

theorem witness_dropping_a_revoked_entry :
    (∀ st ∈ [HSt.live, .revoked], let s := (demo [(1, 1)]).setH 1 1 { HEntry.full 10 with st := st }
     firstTime s ∧ okS s 1 ∧ (s.rs (1 : BitVec 5)).val.toNat = 1 ∧ 1 < s.tableSize s.t.ctx ∧ (s.hentry s.t.ctx 1).st ≠ .free ∧ s.handleOpen 1 = false) ∧
    (let s := writing.setH 1 1 { HEntry.full 10 with st := .revoked }; firstTime s ∧ (s.hentry s.t.ctx 1).st = .revoked ∧ s.handleOpen 1 = true) ∧
    (stopping true).progress = .begun 2 ∧ (stopping true).handleOpen 2 = false := by decide +kernel

/-- The small machine whose `ERET` in a handler takes effect, engine e having trapped, with the fetch engine in a state. -/
def returning (e : Nat) (aban : Bool) (f : Fet → Fet) : State :=
  let s := onFetch inHandler f
  { s with slots := [(4, mySlot .filling .a .e4m3), (5, mySlot .draining .a .e4m3)]
           t := { s.t with c := { s.t.c with phase := .ending }, x := { s.t.x with taken := some e, fqact := aban } } }

/-- A command that halted at its trap, with its issued requests outstanding or none. -/
def haltedAt (i : Instr) (outst : List FReq) : FCmd := { commandAt i 0 64 with halted := true, outst := outst }

/-- A state that `ERET` resumes: in a handler, nothing pending, the interrupted code in reach. -/
def resumes (s : State) : Bool :=
  s.t.c.phase == .ending && s.t.x.hmode && s.t.x.pending.isEmpty && s.t.f.ends.isEmpty &&
    passes (s.codeObj s.t.ctx s.t.x.xcode s.t.x.xpc.toNat true) (fun o => o == 12)

theorem witness_engines_resumed :
    (∀ e ∈ [0, 1, 3, 4], resumes (returning e false id) = true ∧ (returning e false id).t.x.taken = some e) ∧
    (∀ i ∈ ([.fill true 4 0 0, .fillc true 4 0, .fsts true 5 0] : List Instr), let a := haltedAt i []
      let s := returning 4 true fun f => { f with act := some a }
      resumes s = true ∧ s.t.x.fqact = true ∧ (s.t.f.act.toList ++ s.t.f.run).filter (·.halted) = [a] ∧ a.outst = [] ∧ a.begun = true ∧
        (s.slot s.core 4).st = .filling ∧ (s.slot s.core 5).st = .draining) ∧
    (let a := haltedAt (.fld true 0 1 2) [request]
     let s := returning 4 true fun f => { f with run := [a] }
     resumes s = true ∧ (s.t.f.act.toList ++ s.t.f.run).filter (·.halted) = [a] ∧ a.outst ≠ []) ∧
    (let s := returning 4 true fun f => { f with ports := vset f.ports 1 { Port.unbound with bound := true, out := true, halted := true } }
     resumes s = true ∧ (s.t.f.act.toList ++ s.t.f.run).filter (·.halted) = [] ∧ (s.t.f.ports[1]).halted = true) ∧
    (let s := { returning 4 true id with t := { (returning 4 true id).t with imageHalt := true } }; resumes s = true ∧ s.t.imageHalt = true) := by
  and_intros <;> decide +kernel

theorem witness_vector_engine_resumed :
    ∀ n ∈ [0, 1, 2], ∀ k ∈ [0, 1], let a := entryOf (.vext true 3 1 1 0) [0]
      let s := returning 1 false id
      let s := { s with t := { s.t with x := { s.t.x with vqact := n }, v := { s.t.v with q := [{ a with was := some poisonedReg }, { a with gseq := k }] } } }
      resumes s = true ∧ s.t.x.taken = some 1 ∧ s.t.x.vqact = n ∧ drains a.w = false ∧ deliversOf a.w = some (.s 3) := by decide +kernel

/-- A line of object 14 that an outbound port has gathered. -/
def gathered : LBuf := { key := lkey 14 0 0, data := 0, mask := 0xFFFFFFFF, pos := 0 }

theorem witness_copies_of_a_move :
    (let s := onFetch (moving false) fun f => { f with run := [{ commandAt (.fld true 0 1 2) 0 64 with oid := 14, outst := [{ request with oid := 14 }] }] }
     s.objBusy 14 = true ∧ (s.moves.find? fun m => m.oid == 14 && !m.copied).isSome = true) ∧
    (let s := moving false
     s.objBusy 14 = false ∧ (s.sendWaiting 14).linesWait 14 = false ∧ (s.sendWaiting 14).obj 14 = some { objOf 0 false 0 with moving := true }) ∧
    (let q : PTrap := { eng := 4, info := { cause := .software, x0 := 0, x1 := 0, x2 := 0, x3 := 0 }, cmd := 0, pos := 0, halting := true, clk := 3 }
     let s := onFetch { moving false with pages := [(pageKey 14 0 0, 9)], keys := [] } fun f => { f with ports := vset f.ports 1 { Port.unbound with
       bound := true, out := true, v := viewOf 5 64, oid := 14, width := 32, total := 64, buf := [gathered] } }
     let s := { s with t := { s.t with x := { s.t.x with pending := List.replicate 9 q } } }
     s.objBusy 14 = false ∧ (s.sendWaiting 14).linesWait 14 = true) ∧
    (settledL2 framed ∧ (demo []).fired = [] ∧ (demo []).isRing 11 = false ∧
      ∀ c ∈ Mem.write [] (remKey 10 0 70000) (leBytes 4 5), c.1 / 2 ^ 52 = 10) := by
  unfold settledL2; decide +kernel

theorem witness_rings_that_move :
    (let s := { demo [(1, 2), (2, 4)] with objs := [(13, { objOf 14 true 2 with moving := true })] }
     okS s 1 ∧ okS s 2 ∧ childOf s (s.rs (1 : BitVec 5)).val ∧ (s.rs (2 : BitVec 5)).val = 4 ∧ (s.ringObj s.t.ctx 4 4 20).any (fun x => x.2.moving) = true ∧
       (s.ringObj s.t.ctx 4 16 32).any (fun x => x.2.moving) = true ∧ firstTime s) := by
  and_intros <;> first | decide +kernel | exact ⟨ctxOf 1 .stopped (recordOf 10 0), by decide +kernel, by decide +kernel⟩

theorem witness_deleted_subtrees :
    (let s := stopping false
     settledL2 s ∧ (∀ u ∈ s.tasks, u.ctx ∈ s.subtree 2 → idleFetch u) ∧ (s.tasks.map (·.id)).Nodup ∧ s.t.ctx ∉ s.subtree 2 ∧ (s.ctxs.map (·.1)).Nodup ∧
       (∀ q ∈ s.ctxs, (q.2.counters.map (·.1)).Nodup) ∧ (s.ctx s.t.ctx).isSome = true) ∧
    (let s := { stopping false with objs := [(10, { objOf 0 false 2 with ownerCtx := 2 })] }
     (s.obj 10).any (fun o => s.subtree 2 |>.contains o.ownerCtx.toNat) = true ∧ (s.obj 10).any (fun o => o.ownerEp == s.boot.ep) = true) := by
  unfold settledL2 idleFetch; decide +kernel

/-- A vector register with poison. -/
def badVec (s : State) (n : Nat) : State := { s with t := { s.t with v := { s.t.v with v := vset s.t.v.v n { bits := 0, poison := true } } } }

/-- Offsets misaligned, outside the window and in it; a record of `VTLD` with reserved bits; poisoned sources, offsets and results. -/
theorem witness_traps_of_vector_words :
    (∀ p ∈ [(0, 32), (65536, 32), (65504, 32)], let o : Word := BitVec.ofNat 64 p.1
      let e := entryOf (.vmst true 1 2) [o]
      ((vecAt e.w [o]).vecCheck e).isSome = (p.1 == 65536) ∧ ([o].find? (fun o => o.toNat % 2 ^ 5 != 0)).isNone = true) ∧
    ((demo []).vecCheck (entryOf (.vmld true 1 2) [33])).isSome = true ∧ ([33].find? (fun o : Word => o.toNat % 2 ^ 5 != 0)) = some 33 ∧
    ((demo []).vecCheck (entryOf (.vtld true 0 1 2) [0, 8192])).isSome = true ∧ ((demo []).vecCheck (entryOf (.vtld true 0 1 2) [0, 0])).isNone = true ∧
    ((demo []).vecCheck (entryOf (.vacr true 1 2 2 3) [])).isSome = true ∧ ((demo []).vecCheck (entryOf (.vacr true 1 1 2 3) [])).isNone = true ∧
    ((badVec (demo []) 2).firstPoisoned (entryOf (.vchk true 2 false) [])).isSome = true ∧
    ((demo []).firstPoisoned (entryOf (.vchk true 2 false) [])) = none ∧ ((badVec (demo []) 2).vread (entryOf (.vgth true 1 2 2 0 2) [0, 0]) 2).poison = true := by
  decide +kernel

theorem witness_checks_of_a_step :
    (∀ i, (demo []).vecCheck (entryOf (.vmld true 1 2) [33]) = some i → i.cause = .alignment) ∧
    (demo []).vecCheck (entryOf (.vnop true 1) []) = none ∧ (entryOf (.vnop true 1) []).pops = [] := by
  refine ⟨?_, by decide +kernel, by decide +kernel⟩
  have h : ((demo []).vecCheck (entryOf (.vmld true 1 2) [33])).map (·.cause) = some .alignment := by decide +kernel
  intro i hi
  rw [hi] at h
  exact Option.some.inj h

/-- Slots with an uncorrectable error, of another task and FAULTED; spans misaligned and outside the window. -/
theorem witness_traps_of_matrix_words :
    (∀ b ∈ [true, false], let s := matAt (.mma true 1 4 5 2) [] { mySlot .full .a .e4m3 with bad := b } { mySlot .full .b .e4m3 with bad := true }
      atMatrix (entryOf (.mma true 1 4 5 2) []) s ∧ holds s 1 ∧ usable s 4 ∧ usable s 5 ∧ (s.slot s.core 4).readable = true ∧
        (s.slot s.core 5).readable = true ∧ (s.slot s.core 4).bad = b ∧ (s.slot s.core 5).bad = true) ∧
    (∀ i ∈ ([.mzero true 2, .mlda true 2 3, .mscal true 2 3 true, .mdrn true 2 3 0 0 false false false] : List Instr),
      ¬ holds (matAt i [0] Slot.reset Slot.reset) 2 ∧ atMatrix (entryOf i [0]) (matAt i [0] Slot.reset Slot.reset)) := by decide +kernel

theorem witness_traps_of_spans_and_slots :
    (let s := matAt (.mscal true 1 3 true) [1] Slot.reset Slot.reset
     atMatrix (entryOf (.mscal true 1 3 true) [1]) s ∧ holds s 1) ∧
    (let s := matAt (.mscal true 1 3 true) [65536] Slot.reset Slot.reset
     atMatrix (entryOf (.mscal true 1 3 true) [65536]) s ∧ holds s 1 ∧ s.t.window < (65536 : Word).toNat + 1024) ∧
    (let i := Instr.mdrs true 1 4 1 0 false false false
     let s := matAt i [] { mySlot .empty .a .f32 with owner := 7 } (mySlot .faulted .a .f32)
     atMatrix (entryOf i []) s ∧ holds s 1 ∧ (s.slot s.core 4).ownedBy s.t = false ∧ (s.slot s.core 5).ownedBy s.t = true ∧ (s.slot s.core 5).st = .faulted) := by
  decide +kernel

theorem witness_span_words : spanWord (.mscal true 1 3 true) 1 (some 1024) ∧ spanWord (.mzero true 1) 1 none := ⟨⟨rfl, rfl⟩, rfl, rfl⟩

theorem witness_fetch_words_halt_or_wait_for_slots :
    (∀ p ∈ [(SlotSt.faulted, (0x10000 : Word)), (.filling, 0x10000), (.full, 7)], let i : Instr := .fill true 4 0 0
      let s := fetSlot i [] (viewOf 1 64) p.1
      let s := { s with slots := [(4, { s.slot s.core 4 with owner := p.2 })] }
      atFetch (entryOf i []) s ∧ s.t.f.frel = none ∧ (s.slot s.core 4).ownedBy s.t = (p.2 == 0x10000) ∧ (s.slot s.core 4).st = p.1) ∧
    (let i : Instr := .fsts true 4 0
     let s := fetSlot i [] (viewOf 1 64) .empty
     atFetch (entryOf i []) s ∧ (s.slot s.core 4).ownedBy s.t = true ∧ (s.slot s.core 4).st = .empty) := by decide +kernel

theorem witness_fetch_words_whose_checks_fail :
    (let i : Instr := .fill true 4 0 0
     let s := fetSlot i [] (viewOf 9 64) .empty
     atFetch (entryOf i []) s ∧ trapsWith ((slotTaken s (entryOf i []) 4 false).viewChecked (commandOf s (entryOf i []) none).v 0 rREAD (whoOf i) true)
       (fun t => t.cause == .handleInvalid) = true) ∧
    (∀ i ∈ ([.fld true 0 1 2, .fst true 0 1 2] : List Instr), let s := fetSlot i [0, 0] (viewOf 1 65) .empty
     atFetch (entryOf i [0, 0]) s ∧ trapsWith ((begun s (entryOf i [0, 0])).viewChecked (commandOf s (entryOf i [0, 0]) none).v 0
       (if fetWrites i then rWRITE else rREAD) (whoOf i) true) (fun t => t.cause == .bounds) = true) := by decide +kernel

theorem witness_checks_of_views_and_tiles :
    (let a : Acc := { h := 1, oid := 10, e := HEntry.full 10, o := objOf 3 false 2 }
     let w : Who := { eng := 4, op := 0 }
     (dimFails a (viewOf 1 65) rREAD w 0).isSome = true ∧ dimFails a (viewOf 1 64) rREAD w 0 = none ∧
       (fillCheck a (viewOf 1 64) w .a).isNone = true ∧ (fillCheck a (viewOf 1 129) w .a).isSome = true ∧
       (fstsCheck a (viewOf 1 64) w (mySlot .full .a .e4m3)).isNone = true ∧ (fstsCheck a (viewOf 1 64) w (mySlot .full .a .bf16)).isSome = true) := by
  decide +kernel

theorem witness_tiles_that_fit : fitsTile (viewOf 1 64) 8 .a ∧ ¬ fitsTile (viewOf 1 129) 8 .a := by unfold fitsTile kOf; decide +kernel

theorem witness_checks_of_the_scratchpad :
    ((demo []).spadRows { eng := 4, op := 0 } (viewOf 1 64) 8 8 0).isSome = true ∧ ((demo []).spadRows { eng := 4, op := 0 } (viewOf 1 64) 8 16 8).isSome = true ∧
    ((demo []).spadRows { eng := 4, op := 0 } (viewOf 1 64) 8 65536 0).isSome = true ∧ ((demo []).spadRows { eng := 4, op := 0 } (viewOf 1 64) 8 0 0).isNone = true ∧
    (let a : Acc := { h := 1, oid := 10, e := HEntry.full 10, o := objOf 3 false 2 }
     ((demo []).gthCheck { eng := 4, op := 0 } a (viewOf 1 64) 8 0 1).isSome = true ∧ ((demo []).gthCheck { eng := 4, op := 0 } a (viewOf 1 64) 64 4 1).isSome = true ∧
       ((demo []).gthCheck { eng := 4, op := 0 } a (viewOf 1 64) 65536 0 1).isSome = true ∧
       ((demo []).gthCheck { eng := 4, op := 0 } a (viewOf 1 64) 0 64 1).isNone = true) := by decide +kernel

/-- The small machine with a FETCH_REQUEST of command 1 behind command 0, which writes what it reads. -/
def behind : State :=
  onFetch (issuing 0 []) fun f => { f with run := [commandAt (.fst true 0 1 2) 0 64], act := some { commandAt (.fld true 0 1 2) 1 64 with beg := 1 } }

theorem witness_requests_that_wait_or_halt :
    (let a := { commandAt (.fld true 0 1 2) 1 64 with beg := 1 }
     behind.t.f.cmd 1 = some a ∧ a.ok = true ∧ a.fail = none ∧ behind.mustWait a = true ∧ behind.coreRequests < 16384 ∧ behind.fetStalled = false) ∧
    (let i : TrapInfo := { cause := .software, x0 := 0, x1 := 0, x2 := 0, x3 := 0 }
     let a := { commandAt (.fld true 0 1 2) 0 64 with fail := some i }
     let s := onFetch (issuing 0 []) fun f => { f with act := some a }
     s.t.f.cmd 0 = some a ∧ a.ok = true ∧ a.fail = some i ∧ s.coreRequests < 16384) ∧
    (let s := issuing 0 []
     let a := commandAt (.fld true 0 1 2) 0 64
     s.mustWait a = false ∧ s.srcStalls { a with oid := 10, oid2 := 10 } (objOf 0 false 0) (objOf 0 false 0) 16 = false) := by decide +kernel

theorem witness_drained_slot_at_the_last_request :
    (let a := { commandAt (.fsts true 4 0) 0 64 with ended := true }
     let s := fetSlot a.e.w [] (viewOf 1 64) .draining
     a.ended = true ∧ a.halted = false ∧ a.buf = [] ∧ a.quit = none ∧ (s.slot s.core 4).dying = false ∧ (s.slot s.core 4).st = .draining) := by decide +kernel

theorem witness_held_tags_and_pending_lines :
    (cached.l2pending 128 = none ∧ cached.l2line 128 = none ∧ cached.bad.contains (lineAddr 128) = false ∧ ((cached.l2set (setKey 128)).find (ptagOf 128)).isSome = true) ∧
    ((demo []).l2reserve 1 64).any (fun s => (s.l2pending 64).isSome && (s.l2line 64).isNone && !s.bad.contains (lineAddr 64)) = true := by decide +kernel

theorem witness_frames_without_pending_lines (pb : BitVec 48) : (demo []).l2pending pb = none := by
  have h : (demo []).l2set (setKey pb) = L2Set.reset := rfl
  have hf : ∀ w ∈ List.range 32, (L2Set.reset.tag w).free = true := by decide +kernel
  have hn : L2Set.reset.find (ptagOf pb) = none := by
    unfold L2Set.find
    rw [List.find?_eq_none]
    intro w hw
    simp [hf w hw]
  unfold State.l2pending
  rw [h]
  simp [hn]

theorem witness_windows_that_do_not_stall :
    windowed.shardStalls (objOf 0 false 0) 0 rREAD = false ∧ windowed.shardStalls (objOf 0 false 0) 0 rWRITE = false := by decide +kernel

theorem witness_dispatch_order_and_rings :
    (ready.pick 0).isSome = true ∧ ((demo []).pick 0).isNone = true ∧
    (let s := { demo [] with ctxs := [(1, ringed), (2, ctxOf 1 .stopped (recordOf 10 0))], objs := [(13, { objOf 14 true 2 with moving := true })] }
     s.findRing 8 (s.parent 2) [2] = (some 1, [2]) ∧ s.ringMoving 1 = true) ∧
    (let s := { demo [] with ctxs := [(1, ringed), (2, ctxOf 1 .stopped (recordOf 10 0))], remote := Mem.write [] (remKey 13 0 0) (leBytes 8 3)
                             events := [{ ctx := 1, ev := 2 }] }
     s.findRing 8 (s.parent 2) [2] = (some 1, [2]) ∧ s.ringMoving 1 = false ∧ (s.appendEvent 1 2).2 = false ∧ (2 : BitVec 512).extractLsb' 0 8 ≠ 1 ∧
       (s.ringObj 1 4 16 32).isSome = true) := by decide +kernel

theorem witness_refills_and_slow_clocks :
    (let s := { demo [] with ctxs := [(1, ctxOf 0xFFF .running (recordOf 100 handler ||| BitVec.ofNat 2048 (2 ^ 832 * 4096)))] }
     (s.ctxs.map fun p => p.1).Nodup ∧ 1 ∈ s.ctxs.map (fun p => p.1) ∧ s.ctxField 1 (768 + 64 * 1) 64 ≠ 0) ∧
    (demo []).weirClks 1 0 1 = 1 ∧ (clocked 8 0).weirClks 3 3 1 = 0 := by decide +kernel

theorem witness_what_only_root_firmware_asks :
    ({ demo [] with agenda := [.asks 1 (.bootManifest [])] } : State).agenda = [.asks 1 (.bootManifest [])] ∧ (1 : BitVec 2) ≠ 0 ∧
    rootAct (.bootManifest []) = true := by decide +kernel

theorem witness_subtrees_that_ask_or_arrive :
    ({ laidOut with mason := [.omcall 3 2 0 0 0 0 []] } : State).treeAsks [1, 2] = true ∧ laidOut.treeAsks [1, 2] = false ∧
    (let m : Moved := { ep := 7, objs := [(20, { objOf 0 false 2 with home := 7 })], remote := [], events := [{ ctx := 9, ev := 2 }], ctxs := [(9, ctxOf 0xFFF .stopped lean)],
                        handles := [(9 * 2 ^ 24 + 1, HEntry.full 20)], groups := [], trigs := [], tasks := [], slots := [], tiles := [] }
     let s := { laidOut with inbound := [m] }
     s.takes m = true ∧ (s.landTree m).isSome = true ∧ (s.inbound.find? fun m => (m.ctxs.any fun x => x.1 == 9) && s.takes m) = some m) := by decide +kernel

theorem witness_upsets_of_slots_and_tiles :
    (let s := { slotted .full 0x10000 1 with agenda := [.upsetCore [4] [(1, 5)]], tiles := [(1, Tile.reset)] }
     s.agenda = [.upsetCore [4] [(1, 5)]] ∧ (alGet s.slots 4).isSome = true ∧ (alGet s.tiles 1).isSome = true) := by decide +kernel

/-- The code of a machine: words from offset 0 of object 12 on, of n words in all. -/
def codeWords (s : State) (n : BitVec 32) (ws : List IWord) : State :=
  { s with remote := Mem.write [] (remKey 12 0 0) (ws.flatMap fun w => leBytes 4 w.toNat)
           objs := (12, { objOf 14 false 2 with ext := #v[n, 1, 1, 1], shsize := n }) :: s.objs.filter fun p => p.1 != 12 }

/-- A machine at a group boundary. -/
def atBoundary (s : State) : State := { s with t := { s.t with c := { s.t.c with phase := .boundary } } }

/-- A machine whose place n sends no reply, at tick t. -/
def silent (s : State) (n : Nat) (t : Word) : State := { s with trouble := [.silent n], ticks := t }

theorem witness_GroupsThatBreakARule :
    (inHandler.t.x.hmode = true ∧ (atBoundary inHandler).t.c.phase = .boundary ∧ inHandler.t.entryTrap = none) ∧
    (let s := silent (atBoundary (demo [])) 2 0
     s.codeAcc.isSome = true ∧ codeFault s = some ((0, 0), 3) ∧ (s.unanswered s.t.startAsk 3).isSome = true) ∧
    (let s := silent (atBoundary (demo [])) 2 1000000
     let s := { s with t := { s.t with startAsk := .asked 0 } }
     codeFault s = some ((0, 0), 3) ∧ s.unanswered s.t.startAsk 3 = none ∧ s.handlerWaits .fetchError = false) ∧
    (let s := codeWords (demo []) 64 (List.replicate 9 0x41C00000)
     let ws := s.groupWords 12 64 8 0
     ws.length = 8 ∧ (ws.getLast?.any fun w => w.getLsbD 31) = false ∧
       violationAt ws false ((ws.take 7).filterMap fun w => (decode w).toOption) 7 (ws.getD 7 0) = some 6 ∧
       (s.groupViolation 0).any (fun i => i.x0 == 0x706) = true) ∧
    (let s := codeWords (demo []) 3 [0x41C00000, 0x70000000, 0x41C00000]
     let ws := s.groupWords 12 3 8 0
     ws.length = 3 ∧ (ws.getLast?.any fun w => w.getLsbD 31) = false ∧ violationAt ws false [.frel false 0] 1 0x70000000 = some 1 ∧
       (s.groupViolation 0).any (fun i => i.x0 == 0x101) = true) ∧
    (let s := codeWords (demo []) 3 [0x41C00000, 0x41C00000, 0x41C00000]
     ((s.groupWords 12 3 8 0).getLast?.any fun w => w.getLsbD 31) = false ∧ (s.groupViolation 0).any (fun i => i.x0 == 0x307) = true) ∧
    (let s := codeWords (looping 3 4) 64 [0, 0, 0, 0, 0x41C00000, 0x41C00000, 0xC1C00000]
     s.t.c.stack = [1] ∧ (s.groupWords 12 64 8 4).length = 3 ∧ (4 : Word) ≤ (s.t.c.loop 1).last ∧ (s.t.c.loop 1).last < 4 + BitVec.ofNat 64 2 ∧
       (s.groupViolation 4).any (fun i => i.cause == .loop) = true) := by decide +kernel

/-- A machine with one write to an object in the background. -/
def storing (s : State) (oid : BitVec 48) : State :=
  { s with t := { s.t with c := { s.t.c with stores := [{ eng := 0, op := 0x49, h := 1, oid := oid, runs := [(0, 0, 4)], bytes := [1, 2, 3, 4], since := 0 }] } } }

/-- A machine with object n in the fast tier, frame 9 under its page. -/
def tiered (s : State) (n : Nat) (o : Obj) : State :=
  { s with objs := [(n, { o with res := 0 })], pages := [(pageKey (BitVec.ofNat 48 n) 0 0, 9)] }

/-- A machine whose word i has resolved an access to bytes of object n, sent at tick 0. -/
def resolvedAt (s : State) (i : Instr) (n : Nat) (rs : List (Nat × Nat × Nat)) : State :=
  { s with t := { s.t with c := { s.t.c with wait := some { progress := .asked 0, clk := 0, wake := .access i 1 (BitVec.ofNat 48 n) rs 0 0 } } } }

/-- An access passes its checks at bytes of object n under handle 1. -/
def passesAt (c : Chk (Acc × List (Nat × Nat × Nat))) (n : Nat) (rs : List (Nat × Nat × Nat)) : Bool :=
  passes c fun x => x.1.h == 1 && x.1.oid == BitVec.ofNat 48 n && x.2 == rs

/-- Object n as an access under handle 1 finds it. -/
def accAt (n : Nat) (o : Obj) : Acc := resolvedAcc 1 (BitVec.ofNat 48 n) o

theorem witness_LoadsAndStoresThatWait :
    (let s := storing (demo [(1, 1), (2, 63)]) 10
     s.progress = .plain ∧ s.resolved.isNone = true ∧ passesAt (s.xacc (whoOf (.xld true 3 1 2 false false 2)) 1 63 4 rREAD 1) 10 [(0, 252, 4)] ∧
       s.storesHold (accAt 10 (objOf 0 false 2)) = true ∧ passesAt (s.xacc (whoOf (.xst true 3 1 2 2)) 1 63 4 rWRITE 1) 10 [(0, 252, 4)] ∧
       (match s.prepRuns (accAt 10 (objOf 0 false 2)) [(0, 252, 4)] with | .ready u => !u.t.c.stores.isEmpty | _ => false) = true) ∧
    (let s := tiered (demo [(1, 1), (2, 63)]) 10 (objOf 0 false 0)
     passesAt (s.xacc (whoOf (.xld true 3 1 2 false false 2)) 1 63 4 rREAD 1) 10 [(0, 252, 4)] ∧
       s.storesHold (accAt 10 (objOf 0 false 0)) = false ∧ s.runsMiss (accAt 10 (objOf 0 false 0)) true [(0, 252, 4)] = true) ∧
    (let s := resolvedAt (silent (demo [(1, 1), (2, 63)]) 2 0) (.xld true 3 1 2 false false 2) 10 [(0, 252, 4)]
     s.progress.isOpen = true ∧ (s.resolved.any fun x => x.1.oid == 10 && x.2.1 == [(0, 252, 4)]) = true ∧ s.storesHold (accAt 10 (objOf 0 false 2)) = false ∧
       (match s.readRuns (accAt 10 (objOf 0 false 2)) true [(0, 252, 4)] with | (_, .error e) => e == (3, 0) | _ => false) = true ∧
       (s.unanswered s.progress 3).isSome = true) ∧
    (let s := resolvedAt (silent (demo [(1, 1), (2, 63)]) 2 1000000) (.xld true 3 1 2 false false 2) 10 [(0, 252, 4)]
     s.progress.isOpen = true ∧ (s.resolved.any fun x => x.1.oid == 10 && x.2.1 == [(0, 252, 4)]) = true ∧ s.storesHold (accAt 10 (objOf 0 false 2)) = false ∧
       (match s.readRuns (accAt 10 (objOf 0 false 2)) true [(0, 252, 4)] with | (_, .error e) => e == (3, 0) | _ => false) = true ∧
       (s.unanswered s.progress 3).isNone = true) ∧
    (let s := { tiered (demo [(1, 1), (2, 63)]) 10 (objOf 0 false 0) with pages := [], pools := [] }
     passesAt (s.xacc (whoOf (.xst true 3 1 2 2)) 1 63 4 rWRITE 1) 10 [(0, 252, 4)] ∧
       (match s.prepRuns (accAt 10 (objOf 0 false 0)) [(0, 252, 4)] with | .noFrame 1 0 => true | _ => false) = true) ∧
    (let s := { logging true 0 with t := (demo [(1, 1), (2, 63)]).t }
     passesAt (s.xacc (whoOf (.xst true 3 1 2 2)) 1 63 4 rWRITE 1) 10 [(0, 252, 4)] ∧
       (match s.prepRuns (accAt 10 (objOf 0 false 2)) [(0, 252, 4)] with | .stall => true | _ => false) = true) ∧
    (∀ x ∈ [(Trouble.silent 2, 3, true), (Trouble.peerKey, 5, false)], let s := { demo [(1, 1), (2, 63)] with trouble := [x.1] }
     (match s.prepRuns (accAt 10 (objOf 0 false 2)) [(0, 252, 4)] with
       | .ready u => u.t.c.stores.isEmpty && (u.writeRuns (accAt 10 (objOf 0 false 2)) [(0, 252, 4)] [0, 0, 0, 0]).2 == some (x.2.1, 0)
       | _ => false) = true ∧ (s.unanswered .plain x.2.1).isSome = x.2.2) := by
  and_intros <;> decide +kernel

theorem witness_AccessesThatFailOrWait :
    (badReg.progress = .plain ∧ badReg.resolved.isNone = true ∧ ¬ (okS badReg 1 ∧ okS badReg 2)) ∧
    (let s := tiered (demo [(1, 2), (2, 63)]) 11 (objOf 8 true 0)
     passes (s.xacc (whoOf (.aadd true 4 1 2 false false false 2)) 2 63 4 rATOMIC 4) (fun x => x.1.oid == 11 && x.2 == [(0, 252, 4)]) = true ∧
       (match s.prepRuns (accAt 11 (objOf 8 true 0)) [(0, 252, 4)] with | .ready u => decide (u.t = s.t) && !u.storesHold (accAt 11 (objOf 8 true 0)) | _ => false) = true ∧
       s.runsMiss (accAt 11 (objOf 8 true 0)) false [(0, 252, 4)] = true) ∧
    (let s := resolvedAt (silent (demo [(1, 2), (2, 63)]) 2 0) (.aadd true 4 1 2 false true false 2) 11 [(0, 252, 4)]
     (atomicRule (.aadd true 4 1 2 false true false 2) s).isSome = true ∧ s.progress.isOpen = true ∧ s.progress ≠ .plain ∧
       (s.resolved.any fun x => x.1.oid == 11 && x.2.1 == [(0, 252, 4)]) = true ∧ s.storesHold (accAt 11 (objOf 8 true 2)) = false ∧
       (match s.readRuns (accAt 11 (objOf 8 true 2)) false [(0, 252, 4)] with | (_, .error e) => e == (3, 0) | _ => false) = true ∧
       (s.unanswered s.progress 3).isSome = true) ∧
    (let s := resolvedAt (silent (demo [(1, 2), (2, 63)]) 2 1000000) (.aadd true 4 1 2 false true false 2) 11 [(0, 252, 4)]
     s.progress.isOpen = true ∧ (s.unanswered s.progress 3).isNone = true) ∧
    (let s := storing (demo [(1, 2), (2, 63)]) 11
     passes (s.xacc (whoOf (.ast true 4 1 2 true 2)) 2 63 4 rATOMIC 4) (fun x => x.1.oid == 11) = true ∧ s.coherentOpen = true ∧ s.progress = .plain ∧
       s.resolved.isNone = true) := by
  and_intros <;> decide +kernel

theorem witness_RecordsWindowsAndNumbersThatFail :
    (firstTime (demo [(1, 64)]) ∧ okS (demo [(1, 64)]) 1 ∧ ((demo [(1, 64)]).rs (1 : BitVec 5)).val.toNat % 128 ≠ 0) ∧
    (((demo [(1, 65536)]).rs (1 : BitVec 5)).val.toNat % 128 = 0 ∧ (demo []).t.window < ((demo [(1, 65536)]).rs (1 : BitVec 5)).val.toNat + 128) ∧
    (let s := withWindow (demo [(1, 0)]) 128 (taskRecord + 1)
     trapsWith (recordOutcome s 1 0 (bitsOfBytes 1024 (s.spad 0 128)) { eng := 5, op := 0 }) (fun i => i.cause == .bounds) = true) ∧
    (let s := withWindow (demo [(1, 0)]) 128 (taskRecord + 2 ^ 200 * 129)
     trapsWith (recordOutcome s 1 0 (bitsOfBytes 1024 (s.spad 0 128)) { eng := 5, op := 0 }) (fun i => i.cause == .bounds) = true) ∧
    (let s := withWindow (demo [(1, 0)]) 128 (taskRecord + 2 ^ 124 * 3)
     trapsWith (recordOutcome s 1 0 (bitsOfBytes 1024 (s.spad 0 128)) { eng := 5, op := 0 }) (fun i => i.cause == .privilege) = true) ∧
    (let s := withWindow (demo [(1, 0)]) 128 (taskRecord + 2 ^ 160 * 56)
     trapsWith (recordOutcome s 1 0 (bitsOfBytes 1024 (s.spad 0 128)) { eng := 5, op := 0 }) (fun i => i.cause == .bounds) = true) ∧
    (let s := { withWindow (demo [(1, 0)]) 128 taskRecord with objs := [(12, { objOf 14 false 2 with moving := true })] }
     (match recordOutcome s 1 0 (bitsOfBytes 1024 (s.spad 0 128)) { eng := 5, op := 0 } with | .stall => true | _ => false) = true) ∧
    (firstTime (demo [(1, 1)]) ∧ ((demo [(1, 1)]).rs (1 : BitVec 5)).val.toNat % 8 ≠ 0) ∧
    (((demo [(1, 65536)]).rs (1 : BitVec 5)).val.toNat % 8 = 0 ∧ (demo []).t.window < ((demo [(1, 65536)]).rs (1 : BitVec 5)).val.toNat + 8) ∧
    (okS (demo [(1, 128)]) 1 ∧ 127 < ((demo [(1, 128)]).rs (1 : BitVec 5)).val.toNat) := by
  and_intros <;> decide +kernel

/-- The handler with a fetch trap pending. -/
def handlerPending : State :=
  { inHandler with t := { inHandler.t with x := { inHandler.t.x with
      pending := [{ eng := 4, info := boundsPlain { eng := 4, op := 9 } 9, cmd := 0, pos := 0, halting := false, clk := 0 }] } } }

theorem witness_ReturnsIntoAnotherTrap :
    (firstTime handlerPending ∧ handlerPending.t.x.hmode = true ∧ (handlerPending.t.x.pending.head?.any fun p => !handlerPending.entryWaits p.info.cause) = true ∧
      handlerPending.t.f.ends = [] ∧ handlerPending.eretWaits = false) ∧
    (let s := { inHandler with t := { inHandler.t with x := { inHandler.t.x with xcode := 9 } } }
     firstTime s ∧ s.t.x.hmode = true ∧ s.t.x.pending = [] ∧ s.t.f.ends = [] ∧
       trapsWith (s.codeObj s.t.ctx s.t.x.xcode s.t.x.xpc.toNat true) (fun i => i.cause == .handleInvalid && !s.entryWaits i.cause) = true) ∧
    (let s := { inHandler with objs := [(12, { objOf 14 false 2 with moving := true })], t := { inHandler.t with c := { inHandler.t.c with phase := .ending } } }
     s.t.c.phase = .ending ∧ s.t.x.hmode = true ∧ s.eretWaits = true) ∧
    (let s := { demo [] with objs := [(12, { objOf 14 false 2 with rank := 0 })] }
     s.t.x.hmode = false ∧ (handlerOf s 6).getLsbD 63 = true ∧
       trapsWith (s.codeObj 1 ((handlerOf s 6).extractLsb' 32 24) ((handlerOf s 6).extractLsb' 0 32).toNat false)
         (fun i => i.cause == .handleInvalid && i.x0.toNat % 256 == 6) = true) := by
  and_intros <;> decide +kernel

/-- A creation record of the shards a and b of 32 elements each, one object of 64 (R52, R62). -/
def sharded : List Byte := leBytes 64 (1 + 2 ^ 13 + 2 ^ 64 * 64 + 2 ^ 96 + 2 ^ 128 + 2 ^ 160 + 2 ^ 192 * 32 + 2 ^ 224)

theorem witness_ServicesRefuseAndMakeShards :
    (bitsAt sharded 224 11 = 1 ∧ (recObj sharded 5 1 7 0).wf = true ∧ (recObj sharded 5 1 7 0).shardBytes 0 = 128 ∧ (demo []).nextObj + 2 ≤ 2 ^ 36 ∧
      ((recObj sharded 5 1 7 0).shardBytes 0 / 65536 + 1) * 2 ≤ (demo []).freeFrames 1) ∧
    bitsAt (leBytes 64 (2 ^ 29)) 29 35 ≠ 0 ∧ bitsAt (leBytes 64 (2 ^ 14)) 13 2 = 2 ∧
    (let r := recObj (leBytes 64 (1 + 2 ^ 64 * 0x80000000 + 2 ^ 96 + 2 ^ 128 + 2 ^ 160 + 2 ^ 192 * 0x80000000)) 5 1 0 0
     r.wf = true ∧ (demo []).freeFrames 1 < cdiv (r.shardBytes 0) 65536) ∧
    ({ demo [] with nextObj := 2 ^ 36 } : State).nextObj + 1 > 2 ^ 36 ∧
    (let mid : BitVec 48 := BitVec.ofNat 48 (5 * 2 ^ 36 + 1)
     let s := (demo []).setObj mid (homeMap 5 2 0)
     (match s.ensureFrame 0 mid (homeMap 5 2 0) 0 0 with | .ok _ => true | .error _ => false) = true ∧
     (match ({ s with pools := [] } : State).ensureFrame 0 mid (homeMap 5 2 0) 0 0 with | .ok _ => false | .error _ => true) = true) ∧
    (let o := { objOf 0 false 2 with sealed := true, home := 7 }
     let s := { withObj o with pools := [(1, [12])], remote := Mem.write [] (remKey 10 0 0) [1] }
     passes (s.classChecked 1 1 rGRANT { eng := 0, op := 0 } true) (fun a => a.o.home == 7 && a.o.sealed) = true ∧ (5 : BitVec 12) ∈ s.boot.members ∧
       (s.copyHere 0 10 o).isSome = true ∧ s.replicaPages 10 o = [pageKey 10 0 0] ∧ (({ s with pools := [] } : State).copyHere 0 10 o).isNone = true) ∧
    ((resolvedAt (demo []) (.xld true 3 1 2 false false 2) 10 [(0, 0, 4)]).objBusy 10 = true) := by
  and_intros <;> decide +kernel

theorem witness_MovesOfShardsAndToPeers :
    (let o := { objOf 0 false 3 with shcnt := 1, shsize := 32 }
     (o.atTier 1 = false ∧ o.res = 3 ∧ o.shcnt ≠ 0) ∧ ({ o with res := 1 } : Obj).atTier 1 = true) ∧
    (let s := { resolvedAt (demo []) (.xld true 3 1 2 false false 2) 14 [(0, 0, 4)] with moves := (moving false).moves, objs := (moving false).objs }
     (s.moves.find? (fun m => m.oid == 14 && !m.copied)).isSome = true ∧ s.objBusy 14 = true) ∧
    (let p : Port := { Port.unbound with out := true, oid := 14, v := viewOf 5 64, width := 32, total := 64, buf := [{ key := 0, data := 1, mask := 1, pos := 0 }] }
     let s := onFetch (moving false) fun f => { f with ports := vset f.ports 1 p }
     s.objBusy 14 = false ∧ s.linesWait 14 = true) ∧
    ((demo []).pagesHeld 14 = [] ∧ ({ demo [] with pages := [(pageKey 14 0 0, 9)] } : State).pagesHeld 14 ≠ []) := by
  and_intros <;> decide +kernel

theorem witness_PlansAndWindowsRefused :
    (bitsAt (leBytes 32 (2 ^ 98)) 98 30 ≠ 0 ∧ bitsAt (leBytes 32 (2 ^ 96 * 3)) 96 2 = 3) ∧
    trapsWith ((demo []).classChecked 1 99 rREAD { eng := 0, op := 0 } true) (fun i => i.cause == .handleInvalid) = true ∧
    (let b := leBytes 32 (1 + 2 ^ 64 * 5 + 2 ^ 128 * 64); bitsAt b 128 32 = 64 ∧ passes ((demo []).classChecked 1 5 rREAD { eng := 0, op := 0 } true)
      (fun a => a.e.hiEff a.o 0 == 63) = true) ∧
    (let s := { demo [] with objs := [(14, { objOf 0 false 0 with sealed := true })] }
     trapsWith (s.classChecked 1 5 rWRITE { eng := 0, op := 0 } true) (fun i => i.cause == .rights) = true ∧ (planned 0 2 false).gone = false) ∧
    ((demo []).notifyEp 1 0 ≠ some 9 ∧ (demo []).notifyEp 1 1 ≠ some 9 ∧ (demo []).notifyEp 1 2 ≠ some 9 ∧ (demo []).notifyEp 1 3 ≠ some 9) ∧
    (let o := { objOf 0 false 0 with hostsh := false }; o.hostsh = false) := by
  and_intros <;> decide +kernel

theorem witness_ContextRecordsThatFail :
    (((demo [(1, 1)]).rs (1 : BitVec 5)).val.toNat % 256 ≠ 0 ∧ ((demo [(1, 65536)]).rs (1 : BitVec 5)).val.toNat % 256 = 0 ∧
      (demo []).t.window < ((demo [(1, 65536)]).rs (1 : BitVec 5)).val.toNat + 256) ∧
    (BitVec.ofNat 2048 (2 ^ 576)).extractLsb' 576 5 ≠ 0 ∧
    ((demo []).newStatus 1 (BitVec.ofNat 2048 (2 ^ 1728 + 2 ^ 616 * 2)) = some (-5)) ∧
    ((demo []).newStatus 1 (BitVec.ofNat 2048 (2 ^ 1740 + 2 ^ 616 * 2)) = some (-2)) ∧
    ((demo []).newStatus 1 (BitVec.ofNat 2048 (2 ^ 616 * 2 + 2 ^ 640 * 1000)) = some (-4)) ∧
    (let s := { demo [] with objs := [(13, { objOf 14 true 2 with rank := 0 })] }
     trapsWith (s.classChecked 1 4 (rREAD ||| rWRITE ||| rATOMIC) { eng := 0, op := 0 } false) (fun i => i.cause == .handleInvalid) = true ∧ s.ringObj 1 4 16 32 = none) ∧
    (let s := { demo [] with objs := [(13, { objOf 14 true 0 with ext := #v[64, 1, 1, 1] })], pages := [(pageKey 13 0 0, 9)], bad := [9 * 65536] }
     s.lineBad (physAddr 9 0) = true ∧ s.ringObj 1 4 16 32 = none ∧ s.placeOf (objOf 14 true 0) 0 < 2 ∧ s.frameOf 13 0 0 = some 9) ∧
    (let s := logging true 0; (s.ringObj 1 4 16 32).any (fun x => x.2.moving) = true ∧ (s.ringObj 1 4 4 20).any (fun x => x.2.moving) = true) := by
  and_intros <;> decide +kernel

theorem witness_PushesThatComeBeforeTheirBinding :
    (let e := { entryOf (.vadd true 29 1 2 0 0) [] with ports := vset (Vector.replicate 4 0) 1 3 }
     let s := vecAt (.vadd true 29 1 2 0 0) []
     let s := { s with t := { s.t with v := { s.t.v with v := vset s.t.v.v 1 { bits := 0, poison := true } } } }
     (match e.dstOf 29 with | .port q no => q == 1 && no == 3 && decide ((s.port 1).no < no) && !(s.port 1).bound | _ => false) = true ∧
       (s.firstPoisoned e).isSome = true ∧ (s.vecCheck e).any (fun i => i.cause == .poison) = true) := by
  and_intros <;> decide +kernel

theorem witness_FetchWordsThatHaltOrWait :
    (let e := entryOf (.fshape true 0 1) [1]; atFetch e (fetAt e.w [1] View.zero) ∧ (e.cap 0).toNat % 64 ≠ 0) ∧
    (let e := entryOf (.fshape true 0 1) [65536]; atFetch e (fetAt e.w [65536] View.zero) ∧ (e.cap 0).toNat % 64 = 0 ∧ (demo []).t.window < (e.cap 0).toNat + 64) ∧
    (let e := entryOf (.fshape true 0 1) [65472]
     let s := onFetch { fetAt e.w [65472] View.zero with fresh := 5 } fun f => { f with fdone := [{ seq := 0, beg := 0, all := false, off := 65528, val := 0 }] }
     atFetch e s ∧ (begun s e).winBusy (commandOf s e none) 65472 65536 = true) ∧
    (let e := entryOf (.fshape true 0 1) [0]
     let s := withWindow (fetAt e.w [0] View.zero) 64 (2 ^ 320)
     atFetch e s ∧ (begun s e).winBusy (commandOf s e none) 0 64 = false ∧ (bitsOfBytes 512 (s.spad 0 64)).extractLsb' 320 192 ≠ 0) ∧
    (let e := entryOf (.fdone true 1 2 true) [65529, 0]
     let s := fetAt e.w [65529, 0] (viewOf 1 64)
     atFetch e s ∧ s.t.f.frel = none ∧ s.t.f.fdone.length < 16 ∧ (e.cap 0).toNat % 8 ≠ 0) ∧
    (let e := entryOf (.fdone true 1 2 true) [65536, 0]
     let s := fetAt e.w [65536, 0] (viewOf 1 64)
     atFetch e s ∧ s.t.f.frel = none ∧ s.t.f.fdone.length < 16 ∧ (e.cap 0).toNat % 8 = 0 ∧ s.t.window < (e.cap 0).toNat + 8) := by
  and_intros <;> decide +kernel

/-- A command with word i under way on object 10 of tier res, which may issue requests. -/
def asked (i : Instr) (res : BitVec 2) : State :=
  { onFetch (demo []) fun f => { f with act := some { commandAt i 0 64 with v2 := viewOf 1 64 } } with objs := [(10, objOf 0 false res)] }

theorem witness_RequestsOfWritingAndCopyingWords :
    (let i : Instr := .fld true 0 1 2
     let s := asked i 2
     let a := { commandAt i 0 64 with v2 := viewOf 1 64 }
     s.t.f.cmd 0 = some a ∧ s.mustWait a = false ∧ s.fetStalled = false ∧ passes (s.recheck a.v rREAD (whoOf i)) (fun x => x.oid == 10) = true ∧
       passes (s.recheck a.v2 rREAD (whoOf i)) (fun x => x.oid == 10) = true ∧ a.elemTrap (accAt 10 (objOf 0 false 2)) 0 = none ∧
       runLen (a.key (objOf 0 false 2) (objOf 0 false 2)) (fun p => (a.elemTrap (accAt 10 (objOf 0 false 2)) p).isNone) 64 0 [] = 64 ∧
       s.srcStalls a (objOf 0 false 2) (objOf 0 false 2) 64 = false) ∧
    (let i : Instr := .fst true 0 1 2
     let s := asked i 2
     let a := { commandAt i 0 64 with v2 := viewOf 1 64 }
     s.t.f.cmd 0 = some a ∧ s.mustWait a = false ∧ s.fetStalled = false ∧ passes (s.recheck a.v rWRITE (whoOf i)) (fun x => x.oid == 10) = true ∧
       passes (s.recheck a.v2 rREAD (whoOf i)) (fun x => x.oid == 10) = true ∧ a.elemTrap (accAt 10 (objOf 0 false 2)) 0 = none ∧
       runLen (a.key (objOf 0 false 2) (objOf 0 false 2)) (fun p => (a.elemTrap (accAt 10 (objOf 0 false 2)) p).isNone) 64 0 [] = 64 ∧
       s.srcStalls a (objOf 0 false 2) (objOf 0 false 2) 64 = false) ∧
    (let i : Instr := .fcopy true 0 1
     let s := asked i 2
     let a := { commandAt i 0 64 with v2 := viewOf 1 64 }
     s.t.f.cmd 0 = some a ∧ s.mustWait a = false ∧ s.fetStalled = false ∧ passes (s.recheck a.v rWRITE (whoOf i)) (fun x => x.oid == 10) = true ∧
       passes (s.recheck a.v2 rREAD (whoOf i)) (fun x => x.oid == 10) = true ∧ a.elemTrap (accAt 10 (objOf 0 false 2)) 0 = none ∧
       runLen (a.key (objOf 0 false 2) (objOf 0 false 2)) (fun p => (a.elemTrap (accAt 10 (objOf 0 false 2)) p).isNone) 64 0 [] = 64 ∧
       s.srcStalls a (objOf 0 false 2) (objOf 0 false 2) 64 = false) ∧
    (let s := asked (.fst true 0 1 2) 2; (match s.prepAll (accAt 10 (objOf 0 false 2)) [(0, 0)] with | .ready _ => true | _ => false) = true) ∧
    (let s := { asked (.fst true 0 1 2) 0 with pools := [] }
     (match s.prepAll (accAt 10 (objOf 0 false 0)) [(0, 0)] with | .noFrame 1 0 => true | _ => false) = true) ∧
    (let s := { logging false 12 with t := (asked (.fst true 0 1 2) 2).t }
     (match s.prepAll (accAt 10 (objOf 0 false 2)) [(0, 0)] with | .logFull 1 => true | _ => false) = true) ∧
    ((objOf 0 false 3).res = 3 ∧ checksEachOf (.fld true 0 1 2) = false ∧ checksEachOf (.fgth true 0 1 2 1) = true) ∧
    (let s := { asked (.fld true 0 1 2) 2 with objs := [(10, { objOf 0 false 2 with moving := true })] }
     s.srcStalls (commandAt (.fld true 0 1 2) 0 64) { objOf 0 false 2 with moving := true } { objOf 0 false 2 with moving := true } 64 = true) ∧
    ({ commandAt (.fgth true 0 1 2 0) 0 64 with list := [64] }.elemTrap (accAt 10 (objOf 0 false 2)) 0).isSome = true ∧
    (let a := { commandAt (.fld true 0 1 2) 1 64 with beg := 1 }
     let s := onFetch (asked (.fst true 0 1 2) 2) fun f => { f with run := [a] }
     s.mustWait a = true) ∧
    defersRows { commandAt (.fgth true 0 1 2 1) 0 64 with v := { viewOf 1 64 with defer := true } } = true ∧
    ({ demo [] with t := { (demo []).t with x := { (demo []).t.x with taken := some 4 } } } : State).fetHalted = true ∧
    (let k := pageKey 14 0 0; alGet framed.xcache k = none ∧ alGet framed.pages k = some 9 ∧ framed.walks = []) := by
  and_intros <;> decide +kernel

/-- A machine with a command whose one request is r, on object 10 at a peer. -/
def fetching (a : FCmd) (r : FReq) : State :=
  { onFetch (demo []) fun f => { f with act := some { a with outst := [r] } } with objs := [(10, objOf 0 false 2)] }

theorem witness_RequestsThatFailWaitAndEnd :
    (let a := commandAt (.fld true 0 1 2) 0 64
     let s := { fetching a request with trouble := [.silent 2] }
     mayComplete s 0 { a with outst := [request] } request [] ∧
       (s.moveReq { a with outst := [request] } request none).2.2.any (fun b => b.1.1.1 == 3) = true ∧ (s.unanswered (.asked request.since) 3).isSome = true) ∧
    (let a := { commandAt (.fgth true 0 1 2 1) 0 64 with v := { viewOf 1 64 with defer := true } }
     let s := { fetching a request with trouble := [.peerKey] }
     mayComplete s 0 { a with outst := [request] } request [] ∧ defersRows a = true ∧ (s.unanswered (.asked request.since) 5).isNone = true ∧
       (s.moveReq { a with outst := [request] } request none).2.2.any (fun b => b.1.1.1 == 5) = true) ∧
    (let a := commandAt (.fgth true 0 1 2 1) 0 64
     let r := { request with bad := true }
     mayComplete (fetching a r) 0 { a with outst := [r] } r [] ∧ r.bad = true) ∧
    (let a := { commandAt (.fst true 0 1 2) 0 64 with ended := true, buf := [{ key := lkey 10 0 0, data := 1, mask := 1, pos := 0 }] }
     let s := { fetching a request with trouble := [.silent 2] }
     a.ended = true ∧ a.halted = false ∧ (s.viaOf 10 a.v false).isSome = true ∧
       (State.sendLines 10 (objOf 0 false 2) a.v.noalloc a.buf s).2 = some ((3, 0), 0) ∧ (s.unanswered (askedAt a.asked) 3).isSome = true) ∧
    (let x := { fetSlot (.fsts true 4 0) [] (viewOf 1 64) .draining with turn := .fetch }
     (x.slot 0 4).dying = false ∧ (x.slot 0 4).st = .draining) := by
  and_intros <;> decide +kernel

theorem witness_PrefetchesPortsAndImages :
    (let a := commandAt (.fpre true 0 2) 0 64
     let s := fetching a request
     mayComplete s 0 { a with outst := [request] } request [] ∧ (s.preLines 10 (objOf 0 false 2) true [lkey 10 0 0]).2 = none) ∧
    ((demo []).lineFault 10 (objOf 0 false 2) 0 0 = none ∧ (demo []).elsewhere (objOf 0 false 2) 0 = true) ∧
    (framed.lineFault 14 (objOf 0 false 0) 0 0 = none ∧ framed.elsewhere (objOf 0 false 0) 0 = false ∧ framed.frameOf 14 0 0 = some 9 ∧
      framed.frameOf 14 0 1 = none ∧ framed.lineFault 14 (objOf 0 false 0) 0 65536 = none) ∧
    ({ objOf 3 false 0 with layout := 3 } : Obj).layout = 3 ∧
    ({ commandAt (.fillc true 4 0) 0 64 with v := { viewOf 2 32 with shaped := true, shape := shape8 + 2 ^ 224 } }.tupleAt 0).isNone = true ∧
    (let s := bound false
     let p := s.port 1
     p.res = false ∧ p.v.noalloc = false ∧ s.runsMiss (accAt 10 (objOf 0 false 0)) true (p.lineRuns 10 (objOf 0 false 0)) = true) ∧
    (let s := onFetch (bound false) fun f => { f with ports := vset f.ports 1 { vget f.ports 1 Port.unbound with res := true, asked := some 0, runs := [(0, 0, 64)] } }
     (s.port 1).res = true ∧ (s.portAcc (s.port 1)).isSome = true) ∧
    (let s := onFetch (bound true) fun f => { f with ports := vset f.ports 1 { vget f.ports 1 Port.unbound with res := true, asked := some 0 } }
     (s.port 1).res = true ∧ (s.port 1).fifo = [{ data := 0, poison := false }] ∧ (s.portAcc (s.port 1)).isSome = true) ∧
    (let b : LBuf := { key := lkey 10 0 0, data := 1, mask := 1, pos := 0 }
     let s := onFetch (bound true) fun f => { f with ports := vset f.ports 1 { vget f.ports 1 Port.unbound with bound := false, fifo := [], buf := [b] } }
     s.portDue 1 (s.port 1) = true ∧ (s.port 1).fifo = [] ∧ (s.port 1).res = false) ∧
    (let b : LBuf := { key := lkey 10 0 0, data := 1, mask := 1, pos := 0 }
     let s := onFetch (bound true) fun f => { f with ports := vset f.ports 1 { vget f.ports 1 Port.unbound with fifo := [], buf := [b] } }
     let s := { s with t := { s.t with c := { s.t.c with wait := some { progress := .plain, clk := 0, wake := .writes 10 } } } }
     s.portDue 1 (s.port 1) = false ∧ s.portAwaited 1 (s.port 1) = true) ∧
    (let s : State := { framed with t := { framed.t with image := true, tr := BitVec.ofNat 1024 (2 ^ 32 * 64 + 2 ^ 64 * 5 + 2 ^ 224 * 65536) },
                                    objs := [(14, objOf 11 false 0)] }
     imageRun (objOf 11 false 0) 0 64 = (0, 0, 64) ∧ (s.ask 1 s.core s.t.ctx 1).runsMiss (accAt 14 (objOf 11 false 0)) true [(0, 0, 64)] = true ∧
       (resolvedAt s .imageCopy 14 [(0, 0, 64)]).resolved.isSome = true ∧ (resolvedAt s .imageCopy 14 [(0, 0, 64)]).progress = .asked 0) := by
  and_intros <;> decide +kernel

/-- The set of address 64 with every tag of context c, one line of n sectors in each of the first ways, and ages that rise with the way. -/
def filledSet (c : BitVec 12) (n lines : Nat) : State :=
  { demo [] with l2 := [(setKey 64, { L2Set.reset with tags := Vector.ofFn fun i => { L2Tag.reset (BitVec.ofNat 5 i.val) with
      ctx := c, ptag := BitVec.ofNat 40 (i.val + 5),
      lines := Vector.ofFn fun j => if i.val < lines ∧ j.val < n then
        ({ L2Line.empty with lv := true, cnt := 4, mode := 7, ptr := Vector.ofFn fun q => BitVec.ofNat 7 (i.val * 16 + j.val * 4 + q.val) } : L2Line) else L2Line.empty } })] }

theorem witness_WaysAndVictims :
    (let st := (demo []).l2set (setKey 64)
     (st.tag 0).free = true ∧ (BitVec.ofNat 32 ((demo []).ctxField 1 672 32)).getLsbD 0 = true ∧ (demo []).pickWay 1 (setKey 64) = some 0 ∧
       (BitVec.ofNat 32 ((demo []).ctxField 9 672 32)) = 0 ∧ (demo []).pickWay 9 (setKey 64) = some 0) ∧
    (let s := filledSet 9 1 32
     let st := s.l2set (setKey 64)
     (∀ v < 32, (st.tag v).free = false) ∧ (BitVec.ofNat 32 (s.ctxField 9 672 32)).getLsbD 15 = false ∧ s.pickWay 1 (setKey 64) = some 7) ∧
    (let s := filledSet 1 1 32
     let st := s.l2set (setKey 64)
     (∀ v < 32, (st.tag v).free = false) ∧ s.pickWay 1 (setKey 64) = some 7 ∧ s.pickWay 9 (setKey 64) = none) ∧
    (let s := filledSet 9 4 8
     let st := s.l2set (setKey 64)
     st.freeSectors.length + 0 < 4 ∧ s.own 9 608 7 < st.held 9 ∧ (st.line 7 0).lv = true ∧ ((7, 0) : Nat × Nat) ≠ (20, 0) ∧
       4 ≤ ((demo []).l2set (setKey 64)).freeSectors.length + 0) := by
  and_intros <;> decide +kernel

theorem witness_WindowsAndPortsReject :
    (match recordOutcome (demo []) 1 0 (bitsOfBytes 1024 (leBytes 128 (taskRecord + 1))) { eng := 0, op := 0 } with | .trap _ => true | _ => false) = true ∧
    (match recordOutcome (demo []) 1 0 (bitsOfBytes 1024 (leBytes 128 taskRecord)) { eng := 0, op := 0 } with
      | .ok rc => ((demo []).fillEntry 0 (bitsOfBytes 1024 (leBytes 128 taskRecord)) rc).isSome | _ => false) = true ∧
    (match recordOutcome { demo [] with objs := [(12, { objOf 14 false 2 with moving := true })] } 1 0 (bitsOfBytes 1024 (leBytes 128 taskRecord)) { eng := 0, op := 0 } with
      | .stall => true | _ => false) = true ∧
    (let w : Window := { num := 0, ctx := 1, handle := 5, oid := 14, ep := 7, rights := 3 }
     w.ep = 7 ∧ (6 : BitVec 12) ≠ 7 ∧ (match throughWindow windowed w rWRITE with | .ok a => a.o.bytes == 256 && windowBounds a 252 8 == false && a.o.res != 3 | _ => false) = true ∧
       (match throughWindow windowed { w with rights := 1 } rWRITE with | .trap i => i.cause == .rights | _ => false) = true ∧
       (match throughWindow { windowed with objs := [(14, { objOf 0 false 0 with sealed := true })] } w rWRITE with | .trap i => i.cause == .rights | _ => false) = true ∧
       (match throughWindow { windowed with handles := [] } w rWRITE with | .trap i => i.cause == .handleInvalid | _ => false) = true ∧
       (let s := { windowed with objs := [(14, { objOf 0 false 0 with moving := true })] }
        match throughWindow s w rWRITE with | .stall => true | .ok a => s.shardStalls a.o 0 rWRITE | _ => false) = true ∧
       (match State.prepPages 0 1 14 (objOf 0 false 0) 0 (pagesOf 0 4) { windowed with pools := [] } with | .noFrame _ _ => true | _ => false) = true) := by
  and_intros <;> decide +kernel

theorem witness_TrapsOfAPlacementAndPeerGrants :
    (let i : TrapInfo := { cause := .software, x0 := 0, x1 := 0, x2 := 0, x3 := 0 }
     let s := { parking with t := { parking.t with entryTrap := some i } }
     s.t.st = .running ∧ s.interruptible = true ∧ s.t.entryTrap = some i ∧ s.t.startAsk = .plain ∧ i.cause ≠ .missingObject ∧ s.handlerWaits i.cause = false) ∧
    (let s := { demo [] with transfers := [{ transfer with peer := true }] }
     canBegin s 1 0 ∧ (pickAt s 1 0).2.1.any (fun r => r.peer) = true) := by
  unfold canBegin
  and_intros <;> decide +kernel

theorem witness_JournalsAreResolved :
    (let s := { booting 3 (some 1) with ctxs := [] }
     let l : Layout := { layout1 with roots := [recordOf 10 0] }
     let s := { s with boot := { s.boot with watchdog := true, laid := true, layout := l, journal := .prepared, shadow := some layout1 } }
     let back : State := { s with boot := { s.boot with journal := .none, shadow := none, held := [] } }
     s.boot.step = 3 ∧ s.boot.masonImg.isSome = true ∧ s.boot.watchdog = true ∧ s.boot.laid = true ∧ s.boot.journal ≠ .committed ∧
       s.boot.layout.sound 1200 = true ∧ back.admitsLayout s.boot.layout = true) ∧
    (let s := { booting 3 (some 1) with ctxs := [] }
     let l : Layout := { layout1 with roots := [recordOf 10 0] }
     let s := { s with boot := { s.boot with watchdog := true, laid := true, layout := l, journal := .committed, shadow := some l } }
     s.boot.journal = .committed ∧ l.sound 1200 = true ∧ s.resolveJournal.admitsLayout l = true) ∧
    (let m : Moved := { ep := 7, objs := [], remote := [], events := [{ ctx := 9, ev := BitVec.ofNat 512 (1 + 2 ^ 64 * 0x20000) }], ctxs := [(9, ctxOf 0xFFF .stopped lean)],
                        handles := [], groups := [], trigs := [{ num := 0, ctx := 9, watch := 14, tg := 0, oid := 14, gone := false }],
                        tasks := [{ Task.idle with st := .parked, id := 0x20000, ctx := 9 }], slots := [], tiles := [] }
     let s := { laidOut with inbound := [m] }
     s.takes m = true ∧ (s.landTree m).isSome = true ∧ ({ s with boot := { s.boot with shadow := some layout1 } } : State).boot.shadow ≠ none) := by
  and_intros <;> decide +kernel

theorem witness_WritesInTheBackground :
    (let s := { framed with objs := [(14, objOf 0 false 0)], t := (storing framed 14).t }
     let p : PStore := { eng := 0, op := 0x49, h := 1, oid := 14, runs := [(0, 0, 4)], bytes := [1, 2, 3, 4], since := 0 }
     s.t.c.stores = [p] ∧ (s.obj p.oid).isSome = true ∧
       (s.writeRuns { h := p.h, oid := p.oid, e := HEntry.free, o := objOf 0 false 0 } p.runs p.bytes).2.isNone = true) ∧
    (let s := { framed with objs := [(14, objOf 0 false 0)], t := (storing framed 14).t, trouble := [.silent 0] }
     let p : PStore := { eng := 0, op := 0x49, h := 1, oid := 14, runs := [(0, 0, 4)], bytes := [1, 2, 3, 4], since := 0 }
     (match (s.writeRuns { h := p.h, oid := p.oid, e := HEntry.free, o := objOf 0 false 0 } p.runs p.bytes).2 with
       | some k => (s.unanswered (.asked p.since) k.1).isSome | none => false) = true) ∧
    (∀ u ∈ (demo []).tasks, u.st = .running → u.c.stores = []) := by
  and_intros <;> decide +kernel

/-! ### Single steps, on values worked out by hand from the spec. -/

/-- Whether a step answers a next state of which p holds. -/
def after (s : State) (p : State → Bool) : Bool := match step s with | .next t => p t | _ => false

/-- `LI s6, -1` sign-extends (R251); a write to `s0` is discarded (R19). -/
theorem test_step_li :
    after (State.reset.withFetchWord 32 0x8406FFFF) (fun t => (t.rs (6 : BitVec 5)).val == -1) = true ∧
    after (State.reset.withFetchWord 32 0x8400FFFF) (fun t => (t.rs (0 : BitVec 5)).val == 0) = true := by decide +kernel

/-- `ADD` wraps: 2^64 - 1 plus 1 is 0 (R250). -/
theorem test_step_add_wraps :
    (match exec (.add false 3 1 2) (demo [(1, -1), (2, 1)]) with | .next t => (t.rs (3 : BitVec 5)).val == 0 && t.t.c.pc == 1 | _ => false) = true := by
  decide +kernel

/-- Division by zero gives all ones, and its remainder the dividend; the most negative number by -1 gives itself and 0 (R250). -/
theorem test_step_div_corners :
    (match exec (.div true 3 1 0 false) (demo [(1, 7)]) with | .next t => (t.rs (3 : BitVec 5)).val == -1 | _ => false) = true ∧
    (match exec (.rem true 3 1 0 false) (demo [(1, 7)]) with | .next t => (t.rs (3 : BitVec 5)).val == 7 | _ => false) = true ∧
    (match exec (.div true 3 1 2 false) (demo [(1, 2 ^ 63), (2, -1)]) with | .next t => (t.rs (3 : BitVec 5)).val == 2 ^ 63 | _ => false) = true ∧
    (match exec (.rem true 3 1 2 false) (demo [(1, 2 ^ 63), (2, -1)]) with | .next t => (t.rs (3 : BitVec 5)).val == 0 | _ => false) = true := by decide +kernel

/-- `STS` then the bytes of its register, least significant first (R4, R260). -/
theorem test_step_sts_bytes :
    (match exec (.sts true 2 1 1) (demo [(1, 8), (2, 0x0102)]) with | .next t => t.t.win == [(16, 2), (17, 1)] | _ => false) = true := by decide +kernel

/-- `TRAP 42` enters the handler of class 6 in handle 3 at offset 8, with the next word in XPC (R293, R296). -/
theorem test_step_trap :
    (match exec (.trap false 42) (demo []) with
      | .next t => t.t.x.hmode && t.t.c.pc == 8 && t.t.x.xpc == 1 && t.t.x.x0 == 42 && t.t.x.xcause == 0x610 && t.t.x.xcode == 3
      | _ => false) = true := by decide +kernel

/-- 1.0 + 1.0 is 2.0 in F32, and 1.0 + 2^-24 is a tie that goes to even and is inexact (R176). -/
theorem test_fadd :
    fAdd .f32 0x3F800000 0x3F800000 = (0x40000000, 0) ∧ (fAdd .f32 0x3F800000 0x33800000).1 = 0x3F800000 ∧
    (fAdd .f32 0x3F800000 0x33800000).2 ≠ 0 := by decide +kernel

end Sys2Proof.Tests
end

section
/-!
PROOFS. The refutation of `Obligations.MailboxTimeAndControlRegisters`, with the law of precise traps that it turns on.
-/

namespace Sys2Proof.Scope

open Sys2Proof Sys2Proof.Machine Sys2Proof.Claims

/-- Two waits of the word at hand that keep the same progress are the same only when they wait for the same thing. -/
theorem block_inj {s : State} {w w' : Wake} {p : Progress} (h : s.block w p = s.block w' p) : w = w' := by
  have hw : (s.block w p).t.c.wait = (s.block w' p).t.c.wait := by rw [h]
  simpa [State.block] using hw

/-- A trap precise at its word is raised as `raises` says exactly when its handler does not keep it waiting or the word does not yet wait for
something else: while the handler's code is frozen, `trapWord` lets an earlier wait stand as it is (R56; log entry 32). -/
theorem raises_iff_of_trapWord {i : Instr} {s : State} {x : TrapInfo} (hx : exec i s = .next (s.trapWord x)) :
    raises i s x ↔ (s.handlerWaits x.cause = true → s.wakeOf = .other) := by
  have hwake : s.trapWord x = if s.handlerWaits x.cause then s.block s.wakeOf s.progress
      else s.takeTrap x s.wordOff { wait := none, xfer := s.t.c.xfer, ending := false } := rfl
  rw [raises, hx, hwake]
  by_cases hf : s.handlerWaits x.cause = true
  · simp only [hf, if_true, forall_const, Host.Outcome.next.injEq]
    exact ⟨block_inj, fun h => by rw [h]⟩
  · simp only [hf, if_false, false_imp_iff, Bool.false_eq_true]

/-- `CSRW` of an unpoisoned register to a register of handlers, outside a handler, takes PRIVILEGE, HANDLER-ONLY at its word (R263, R295). -/
theorem exec_csrw_handlerOnly {S : Bool} {d : BitVec 5} {n : BitVec 12} {s : State} (hd : okS s d) (hn : handlerCsr n.toNat = true)
    (hm : s.t.x.hmode = false) : exec (.csrw S d n) s = .next (s.trapWord (privTrap (whoOf (.csrw S d n)) 2 0)) := by
  have hexec : exec (.csrw S d n) s = execCsrw S d n s := rfl
  rw [hexec, execCsrw, Laws.poisoned_one hd]
  simp [hn, hm]

/-- Code of one word that Mason is moving (R48, R56). -/
def frozenCode : Obj :=
  { rank := 1, coherent := false, sealed := false, hostsh := false, fmt := 14, mxk := 0, layout := 0, ext := Vector.replicate 4 1, shsize := 1,
    shcnt := 0, split := 0, home := 0, res := 2, moving := true, version := 0, keyslot := 0, hmap := 0, ownerEp := 0, ownerCtx := 1, repl := [],
    xmap := 0, rsv := 0, pubs := [] }

/-- A running task of context 1 whose word at hand, `CSRW` of `s0` to `XPC`, waits for a reply; PRIVILEGE has its handler at word 0 of handle 1,
which names the frozen code. -/
def waitingUnderMove : State :=
  { State.reset with
    t := { Task.idle with
      st := .running, id := 0x10000, ctx := 1, core := some 0
      c := { Ctl.reset with phase := .running, words := [0x88A00101], wait := some { progress := .plain, clk := 0, wake := .reply } } }
    objs := [(1, frozenCode)]
    handles := [(hkey 1 1, HEntry.full 1)]
    ctxs := [(1, { cr := BitVec.ofNat 2048 (2 ^ 616 * 2 + 2 ^ (1280 + 64) * (2 ^ 63 + 2 ^ 32)), parent := 0xFFF, depth := 0, st := .running,
                   ring := 0, log := none, counters := [] })] }

theorem waitingUnderMove_stalls :
    waitingUnderMove.wordAtPc = some (.csrw true 0 0x101) ∧ waitingUnderMove.handlerWaits .privilege = true := by decide +kernel

/-- Refutes O7 by its clause on `CSRW`, which has no premise that the word has not waited: in `waitingUnderMove` the word goes on waiting for its
reply, where `raises` has it wait for the handler alone. -/
theorem not_mailboxTimeAndControlRegisters : ¬ Obligations.MailboxTimeAndControlRegisters := by
  unfold Obligations.MailboxTimeAndControlRegisters
  rintro ⟨_, _, _, _, _, _, hcsrw⟩
  obtain ⟨_, hstalls⟩ := waitingUnderMove_stalls
  have hok : okS waitingUnderMove 0 := rfl
  have hraises := hcsrw true 0 0x101 waitingUnderMove hok
  rw [if_pos ⟨by decide, rfl⟩] at hraises
  have hwake := (raises_iff_of_trapWord (exec_csrw_handlerOnly hok rfl rfl)).mp hraises hstalls
  cases hwake

end Sys2Proof.Scope
end

section
/-!
PROOFS. `Obligations.AStepRunsTheDecodedWord`: what each item of the agenda does, one law per item, and the word that the machine runs by itself.
-/

namespace Sys2Proof.Scope

open Sys2Proof Sys2Proof.Machine Sys2Proof.Claims

section Agenda

variable {s : State} {r : List Act}

/-- A step takes the agenda's head, when there is one. -/
theorem step_of_agenda {a : Act} (h : s.agenda = a :: r) : step s = { s with agenda := r }.act a := by
  unfold step; rw [h]

/-- With none, it takes the first of the moves that the machine makes by itself. -/
theorem step_of_auto {a : Act} (h : s.agenda = []) (ha : s.auto = a :: r) : step s = { s with agenda := r }.act a := by
  unfold step; rw [h]; dsimp only; rw [ha]

theorem with_agenda_nil (h : s.agenda = []) : { s with agenda := [] } = s := by
  cases s; cases h; rfl

/-- The word at hand of a running group is the one that stands at the program counter, decoded (R26). -/
theorem wordAtPc_eq {i : Instr} {w : IWord} (hw : s.t.c.words[(s.t.c.pc - s.t.c.grp).toNat]? = some w) (hi : decode w = .ok i) :
    s.wordAtPc = some i := by
  rw [State.wordAtPc, State.wordAhead, Nat.add_zero, hw, Option.bind_some, hi]; rfl

theorem headWord_control (hp : s.t.c.phase = .running) : s.headWord .control = s.wordAtPc := by
  simp [State.headWord, State.controlWord, hp]

/-- A running task off a quiesced core, with a decoded word at hand and no wait, has the control engine's turn (log entry 1). -/
theorem auto_of_wordAtPc {i : Instr} (hst : s.t.st = .running) (hp : s.t.c.phase = .running) (hwait : s.t.c.wait = none)
    (hheld : s.boot.held.contains s.core = false) (hi : s.wordAtPc = some i) : s.auto = [.turn .control] := by
  simp [State.auto, hst, hp, hwait, hheld, hi, -List.contains_eq_mem]

/-- A quiesced core runs no word (R331). -/
theorem takeTurn_held (u : Turn) (hheld : s.boot.held.contains s.core = true) : s.takeTurn u = .next s :=
  if_pos hheld

theorem takeTurn_control {i : Instr} (hheld : s.boot.held.contains s.core = false) (hi : s.headWord .control = some i) :
    s.takeTurn .control = exec i { s with turn := .control } := by
  simp only [State.takeTurn, hheld, hi, Bool.false_eq_true, if_false]

/-- The turn of a queue engine runs the word at the head of its queue and gives the turn back to the control engine. -/
theorem takeTurn_engine {u : Turn} {i : Instr} {t : State} (hu : u ≠ .control) (hheld : s.boot.held.contains s.core = false)
    (hi : s.headWord u = some i) (ht : exec i { s with turn := u } = .next t) : s.takeTurn u = .next { t with turn := .control } := by
  simp only [State.takeTurn, hheld, hi, Bool.false_eq_true, if_false]
  cases u with
  | control => exact absurd rfl hu
  | vector | matrix | fetch => rw [ht]

theorem headWord_engine {u : Turn} {e : QEntry} (hu : u ≠ .control) (hv : u = .vector → s.t.v.q.head? = some e)
    (hm : u = .matrix → s.t.mq.head? = some e) (hf : u = .fetch → s.t.f.q.head? = some e) : s.headWord u = some e.w := by
  cases u with
  | control => exact absurd rfl hu
  | vector => simp [State.headWord, hv rfl]
  | matrix => simp [State.headWord, hm rfl]
  | fetch => simp [State.headWord, hf rfl]

/-- An event happens unless a quiesced core or Mason's boot holds it back (R331, R337). -/
theorem event_goes {i : Instr} (henc : encode i = none) (he : engineEvent i = true → s.boot.held.contains s.core = false)
    (hm : masonEvent i = true → s.boot.step = 6) : s.event i = exec i s := by
  have hquiet : s.quiet i = false := by
    simp only [State.quiet, Bool.or_eq_false_iff, Bool.and_eq_false_imp, bne_eq_false_iff_eq]
    exact ⟨he, hm⟩
  simp [State.event, henc, hquiet]

theorem event_held {i : Instr} (h : (engineEvent i = true ∧ s.boot.held.contains s.core = true) ∨ (masonEvent i = true ∧ s.boot.step ≠ 6)) :
    s.event i = .next s := by
  have hquiet : s.quiet i = true := by
    simpa only [State.quiet, Bool.or_eq_true, Bool.and_eq_true, bne_iff_ne] using h
  simp [State.event, hquiet]

/-- An act that only root firmware can perform has no effect when another asks for it (R330). -/
theorem act_asks_refused {who : BitVec 2} {i : Instr} (hroot : rootAct i = true) (hwho : who ≠ 0) : s.act (.asks who i) = .next s := by
  have hrefused : (rootAct i && who != 0) = true := by rw [hroot, Bool.true_and]; exact bne_iff_ne.mpr hwho
  exact if_pos hrefused

end Agenda

section Time

/-- With no duty and no request at a weir, the clk that no bound forbids pass at once (R6, R289). -/
theorem passing_quiet {s : State} {n : Nat} (hd : s.duties = []) (hw : s.busyWeirs = []) (hn : 0 < n) (hs : s.stride n = n) :
    s.passing n = (s.countPlace n).quietPass n := by
  simp [State.passing, hd, hw, hs, Nat.ne_of_gt hn]

/-- While requests wait at a weir, a clk passes by itself (R289). -/
theorem passing_busy {s : State} (hd : s.duties = []) (hw : s.busyWeirs ≠ []) : s.passing 1 = (s.countPlace 1).oneClk := by
  simp [State.passing, hd, hw]

/-- Each die counts the whole clk that its sixteenths make up (R6, R338; log entry 78). -/
theorem pass_die_count (s : State) (n d : Nat) (hd : d < 4) (z : Die) :
    (vget (s.pass n).dies d z).count = (vget s.dies d z).count + ((vget s.dies d z).phase + n * (vget s.dies d z).clock) / 16 := by
  simp [State.pass, vget, hd, Die.pass]

/-- A background write that is performed leaves the list of those that go on (R240). -/
theorem runStores_one_done {s s2 : State} {p : PStore} {ps : List PStore} {o : Obj} (hs : s.t.c.stores = p :: ps) (ho : s.obj p.oid = some o)
    (hw : s.writeRuns (resolvedAcc p.h p.oid o) p.runs p.bytes = (s2, none)) :
    State.runStores 1 s = s2.modC fun c => { c with stores := ps } := by
  simp only [State.runStores, hs, ho, hw]

/-- One whose place sends no reply yet stays, and nothing changes (R73, R240). -/
theorem runStores_one_waits {s s2 : State} {p : PStore} {ps : List PStore} {o : Obj} {e : Nat × Nat} {z : Word} (hs : s.t.c.stores = p :: ps)
    (ho : s.obj p.oid = some o) (hw : s.writeRuns (resolvedAcc p.h p.oid o) p.runs p.bytes = (s2, some e))
    (hu : s.unanswered (.asked p.since) e.1 = some z) : State.runStores 1 s = s := by
  simp only [State.runStores, hs, ho, hw, hu]

end Time

section Ailments

theorem mem_ails (s : State) (x : Trouble) (on : Bool) : x ∈ (s.ails x on).trouble ↔ on = true := by
  cases on <;> simp [State.ails]

/-- The lines struck in a tier are poisoned (R74). -/
theorem mem_strike_bad (s : State) (l2 : List Nat) {tier : List Nat} {a : Nat} (h : a ∈ tier) : a / 64 * 64 ∈ (s.strike l2 tier).bad := by
  simp only [State.strike, State.poison, List.mem_append]
  exact Or.inr (List.mem_map_of_mem h)

/-- A read of a keyed list whose values have been changed key by key. -/
theorem alGet_map {α : Type} (f : Nat → α → α) (l : List (Nat × α)) (k : Nat) :
    alGet (l.map fun p => (p.1, f p.1 p.2)) k = (alGet l k).map (f k) := by
  induction l with
  | nil => rfl
  | cons p l ih =>
    simp only [List.map_cons, alGet, ih]
    split
    · next h => rw [h]; rfl
    · rfl

/-- A struck operand slot that is not FREE is marked; every other slot is as before (R217; log entry 65). -/
theorem strikeCore_slot {s : State} {k : Nat} {x : Slot} (sl : List Nat) (rows : List (Nat × Nat)) (h : alGet s.slots k = some x) :
    alGet (s.strikeCore sl rows).slots k = some (if k ∈ sl ∧ x.st ≠ .free then { x with bad := true } else x) := by
  have hmap : (s.strikeCore sl rows).slots =
      s.slots.map fun p => (p.1, if p.1 ∈ sl ∧ p.2.st ≠ .free then { p.2 with bad := true } else p.2) := by
    refine List.map_congr_left fun p _ => ?_
    by_cases hp : p.1 ∈ sl ∧ p.2.st ≠ .free <;> simp [hp]
  rw [hmap, alGet_map fun k (x : Slot) => if k ∈ sl ∧ x.st ≠ .free then { x with bad := true } else x, h]
  rfl

/-- Tile k with the rows marked that an error strikes (R217). -/
def struckTile (rows : List (Nat × Nat)) (k : Nat) (x : Tile) : Tile :=
  { x with bad := (x.bad ++ (rows.filter fun r => r.1 == k && r.2 < 128).map (·.2)).eraseDups }

theorem mem_struckTile_bad (rows : List (Nat × Nat)) (k n : Nat) (x : Tile) :
    n ∈ (struckTile rows k x).bad ↔ n ∈ x.bad ∨ (n < 128 ∧ (k, n) ∈ rows) := by
  simp [struckTile, and_comm, and_left_comm]

/-- The struck rows below 128 of an accumulator tile join those marked (R217; log entry 65). -/
theorem strikeCore_tile {s : State} {k : Nat} {x : Tile} (sl : List Nat) (rows : List (Nat × Nat)) (h : alGet s.tiles k = some x) :
    ∃ b, alGet (s.strikeCore sl rows).tiles k = some { x with bad := b } ∧ ∀ n, n ∈ b ↔ n ∈ x.bad ∨ (n < 128 ∧ (k, n) ∈ rows) := by
  have hmap : (s.strikeCore sl rows).tiles = s.tiles.map fun p => (p.1, struckTile rows p.1 p.2) := rfl
  refine ⟨(struckTile rows k x).bad, ?_, fun n => mem_struckTile_bad rows k n x⟩
  rw [hmap, alGet_map, h]; rfl

end Ailments

/-- Mason stops or runs a root of this package that nothing deletes and no change under way alters (R329, R335; log entry 27). -/
theorem runRoot_free {s : State} {c : Nat} (run : Bool) (hstep : s.boot.step = 6) (hparent : s.ctx (s.parent c) = none)
    (hdel : s.ctxIs c .deleting = false) (hsame : ∀ l, s.boot.shadow = some l → l.root (c - 1) = s.boot.layout.root (c - 1)) :
    s.runRoot c run = if run then (s.modCtx c fun x => { x with st := .running }).settle
      else (s.modCtx c fun x => { x with st := .stopped }).stopTasks c := by
  unfold State.runRoot
  refine if_neg ?_
  cases hsh : s.boot.shadow with
  | none => simp [hstep, hparent, hdel]
  | some l => simp [hstep, hparent, hdel, hsame l hsh]

/-- With an empty agenda, a running task steps by the word at its program counter, decoded (R26). -/
theorem step_of_word {s : State} {i : Instr} {w : IWord} (ha : s.agenda = []) (hst : s.t.st = .running) (hp : s.t.c.phase = .running)
    (hwait : s.t.c.wait = none) (hheld : s.boot.held.contains s.core = false)
    (hw : s.t.c.words[(s.t.c.pc - s.t.c.grp).toNat]? = some w) (hi : decode w = .ok i) : step s = exec i { s with turn := .control } := by
  have hword := wordAtPc_eq hw hi
  rw [step_of_auto ha (auto_of_wordAtPc hst hp hwait hheld hword), with_agenda_nil ha]
  exact takeTurn_control hheld ((headWord_control hp).trans hword)

/-- The word that a loader has placed is the one the next step runs (log entry 17). -/
theorem step_withFetchWord {s : State} {i : Instr} {v : Nat} (nbits : Nat) (hi : decode (BitVec.ofNat 32 v) = .ok i)
    (hheld : s.boot.held.contains 0 = false) : step (s.withFetchWord nbits v) = exec i (s.withFetchWord nbits v) := by
  have hphase : (s.withFetchWord nbits v).t.c.phase = .running := by
    simp [State.withFetchWord, State.placeWord, hi, Except.toOption]
  have hword : (s.withFetchWord nbits v).t.c.words[((s.withFetchWord nbits v).t.c.pc - (s.withFetchWord nbits v).t.c.grp).toNat]? =
      some (BitVec.ofNat 32 v) := by
    simp [State.withFetchWord, State.placeWord, Ctl.reset]
  exact step_of_word rfl rfl hphase rfl hheld hword hi

/-- Settles O60, one law for each item of the agenda and one for the word that the machine runs by itself. -/
theorem aStepRunsTheDecodedWord : Obligations.AStepRunsTheDecodedWord := by
  unfold Obligations.AStepRunsTheDecodedWord
  intro i w e r s s1
  refine ⟨step_of_word, ?control, ?engine, ?heldTurn, ?event, ?heldEvent, ?pass, Laws.storesGo_none, ?stores, ?time, ?focus, ?ail, ?upset,
    ?upsetCore, ?asks, ?arrive, ?stop, ?run, fun nbits v _ hi hheld => step_withFetchWord nbits hi hheld⟩
  case control =>
    intro ha hheld hp hw hi
    rw [step_of_agenda ha]
    exact takeTurn_control hheld ((headWord_control hp).trans (wordAtPc_eq hw hi))
  case engine =>
    intro u t hu ha hheld hv hm hf ht
    rw [step_of_agenda ha]
    exact takeTurn_engine hu hheld (headWord_engine hu hv hm hf) ht
  case heldTurn =>
    intro u ha hheld
    rw [step_of_agenda ha]
    exact takeTurn_held u hheld
  case event =>
    intro ha henc he hm
    rw [step_of_agenda ha]
    exact event_goes henc he hm
  case heldEvent =>
    intro ha h
    rw [step_of_agenda ha]
    exact event_held h
  case pass =>
    intro n ha
    have hstep : step s = .next (s1.passing n).storesGo := step_of_agenda ha
    refine ⟨hstep, fun hd hw hn hs => ?_, fun hd hw hn => ?_⟩
    · rw [hstep, passing_quiet hd hw hn hs]
    · subst hn; rw [hstep, passing_busy hd hw]
  case stores =>
    intro p ps o s2 x hs ho hw
    refine ⟨fun hx => ?_, fun k z hx hu => ?_⟩
    · subst hx; exact runStores_one_done hs ho hw
    · subst hx; exact runStores_one_waits hs ho hw hu
  case time => exact fun n => ⟨rfl, rfl, rfl, pass_die_count s n⟩
  case focus => exact fun p ha => step_of_agenda ha
  case ail => exact fun x on ha => ⟨s1.ails x on, step_of_agenda ha, rfl, mem_ails s1 x on⟩
  case upset =>
    exact fun l2 tier ha => ⟨s1.strike l2 tier, step_of_agenda ha, fun _ h => mem_strike_bad s1 l2 h, rfl, rfl⟩
  case upsetCore =>
    exact fun sl rows ha => ⟨s1.strikeCore sl rows, step_of_agenda ha, rfl, fun _ _ h => strikeCore_slot (s := s1) sl rows h,
      fun _ _ h => strikeCore_tile (s := s1) sl rows h⟩
  case asks =>
    intro who ha hroot hwho
    rw [step_of_agenda ha]
    exact act_asks_refused hroot hwho
  case arrive => exact fun m ha => step_of_agenda ha
  case stop =>
    intro c ha hstep hparent hdel hsame
    rw [step_of_agenda ha]
    exact congrArg _ (runRoot_free (s := s1) false hstep hparent hdel hsame)
  case run =>
    intro c ha hstep hparent hdel hsame
    rw [step_of_agenda ha]
    exact congrArg _ (runRoot_free (s := s1) true hstep hparent hdel hsame)

end Sys2Proof.Scope
end

section
/-!
PROOFS. `Obligations.DecodingAndEncodingAgree` and `Obligations.TheSpecsOwnWordsDecode`: how the fields that `packWord` places are read back,
how the fields that a decoder reads are placed again, and the two round trips, one per encoding table.
-/

namespace Sys2Proof.Codec

open Sys2Proof Sys2Proof.Machine

/-- The fields lie below bit k in descending order, each within the room that its place leaves it. -/
inductive Fits : List (Nat × Nat) → Nat → Prop
  | nil {k : Nat} : Fits [] k
  | cons {x lo len k : Nat} {r : List (Nat × Nat)} (hx : x < 2 ^ len) (hk : lo + len ≤ k) (hr : Fits r lo) : Fits ((x, lo) :: r) k

section Room

variable {x lo len k : Nat} {r : List (Nat × Nat)}

theorem Fits.tail : Fits ((x, lo) :: r) k → Fits r lo
  | .cons _ _ hr => hr

theorem bnat_lt (b : Bool) : bnat b < 2 ^ 1 := by cases b <;> decide

@[simp] theorem fits_nil : Fits [] k := .nil

@[simp] theorem fits_field {v : BitVec len} (hk : lo + len ≤ k) : Fits ((v.toNat, lo) :: r) k ↔ Fits r lo :=
  ⟨.tail, .cons v.isLt hk⟩

@[simp] theorem fits_flag {b : Bool} (hk : lo + 1 ≤ k) : Fits ((bnat b, lo) :: r) k ↔ Fits r lo :=
  ⟨.tail, .cons (bnat_lt b) hk⟩

/-- A code that the table fixes has room where it is less than what its place admits. -/
@[simp] theorem fits_code (hlo : lo ≤ k) (hx : x < 2 ^ (k - lo)) : Fits ((x, lo) :: r) k ↔ Fits r lo :=
  ⟨.tail, .cons hx (by omega)⟩

theorem Fits.placed_lt {fs : List (Nat × Nat)} (h : Fits fs k) : placed fs < 2 ^ k := by
  induction h with
  | nil => exact Nat.two_pow_pos _
  | @cons x lo len k r hx hk _ ih =>
    calc x * 2 ^ lo + placed r < x * 2 ^ lo + 2 ^ lo := Nat.add_lt_add_left ih _
      _ = (x + 1) * 2 ^ lo := (Nat.succ_mul x _).symm
      _ ≤ 2 ^ len * 2 ^ lo := Nat.mul_le_mul_right _ hx
      _ = 2 ^ (lo + len) := by rw [← pow_add, Nat.add_comm]
      _ ≤ 2 ^ k := Nat.pow_le_pow_right (by decide) hk

end Room

section Reading

variable {x p lo len : Nat} {r : List (Nat × Nat)}

/-- A field above does not show in the bits below it. -/
theorem placed_div_mod_below (h : lo + len ≤ p) : placed ((x, p) :: r) / 2 ^ lo % 2 ^ len = placed r / 2 ^ lo % 2 ^ len := by
  obtain ⟨c, rfl⟩ := Nat.exists_eq_add_of_le h
  have hplaced : placed ((x, lo + len + c) :: r) = placed r + x * 2 ^ c * 2 ^ len * 2 ^ lo := by simp only [placed]; ring
  rw [hplaced, Nat.add_mul_div_right _ _ (Nat.two_pow_pos lo), Nat.add_mul_mod_self_right]

/-- The bits at a field's place are the field. -/
theorem placed_div_mod_here (hx : x < 2 ^ len) (hr : Fits r lo) : placed ((x, lo) :: r) / 2 ^ lo % 2 ^ len = x := by
  have hplaced : placed ((x, lo) :: r) = placed r + x * 2 ^ lo := by simp only [placed]; ring
  rw [hplaced, Nat.add_mul_div_right _ _ (Nat.two_pow_pos lo), Nat.div_eq_of_lt hr.placed_lt, Nat.zero_add, Nat.mod_eq_of_lt hx]

theorem fld_eq (n lo len : Nat) : fld n lo len = BitVec.ofNat len (n / 2 ^ lo % 2 ^ len) :=
  BitVec.eq_of_toNat_eq (by simp [fld])

theorem bit_eq (n lo : Nat) : bit n lo = (n / 2 ^ lo % 2 ^ 1 == 1) := rfl

@[simp] theorem fld_below (h : lo + len ≤ p) : fld (placed ((x, p) :: r)) lo len = fld (placed r) lo len := by
  rw [fld_eq, fld_eq, placed_div_mod_below h]

@[simp] theorem fld_here {v : BitVec len} (hr : Fits r lo) : fld (placed ((v.toNat, lo) :: r)) lo len = v := by
  rw [fld_eq, placed_div_mod_here v.isLt hr, BitVec.ofNat_toNat, BitVec.setWidth_eq]

@[simp] theorem bit_below (h : lo + 1 ≤ p) : bit (placed ((x, p) :: r)) lo = bit (placed r) lo := by
  rw [bit_eq, bit_eq, placed_div_mod_below h]

@[simp] theorem bit_here {b : Bool} (hr : Fits r lo) : bit (placed ((bnat b, lo) :: r)) lo = b := by
  rw [bit_eq, placed_div_mod_here (bnat_lt b) hr]; cases b <;> rfl

@[simp] theorem bit_above (hr : Fits r lo) : bit (placed r) lo = false := by
  rw [bit_eq, Nat.div_eq_of_lt hr.placed_lt]; rfl

@[simp] theorem rsv_below (h : lo + len ≤ p) : rsv (placed ((x, p) :: r)) lo len = rsv (placed r) lo len := by
  rw [rsv, rsv, placed_div_mod_below h]

@[simp] theorem rsv_above (hr : Fits r lo) : rsv (placed r) lo len = true := by
  rw [rsv, Nat.div_eq_of_lt hr.placed_lt, Nat.zero_mod]; rfl

end Reading

/-- What an engine's encoding table reads from a word's bits under an op (R16). -/
def decodeOf (e n op : Nat) : Except Illegal Instr :=
  match e with
  | 0 => decodeCtl n op
  | 1 => decodeVec n op
  | 2 => decodeVmv n op
  | 3 => decodeMat n op
  | 4 => decodeFet n op
  | _ => decodeSyn n op

/-- The bits of the word that `packWord` forms, as the number that the decoder reads. -/
def wordBits (S : Bool) (e op : Nat) (fs : List (Nat × Nat)) : Nat := placed ((bnat S, 31) :: (e, 28) :: (op, 21) :: fs)

section Word

variable {S : Bool} {e op lo len : Nat} {fs : List (Nat × Nat)}

theorem fits_op (hop : op < 2 ^ 7) (hfs : Fits fs 21) : Fits ((op, 21) :: fs) 28 := .cons hop (by decide) hfs

theorem fits_engine (he : e < 6) (hop : op < 2 ^ 7) (hfs : Fits fs 21) : Fits ((e, 28) :: (op, 21) :: fs) 31 :=
  .cons (len := 3) (by omega) (by decide) (fits_op hop hfs)

theorem toNat_packWord (h : wordBits S e op fs < 2 ^ 32) : (packWord S e op fs).toNat = wordBits S e op fs := by
  simp only [packWord, BitVec.toNat_ofNat]
  exact Nat.mod_eq_of_lt h

/-- A word is read by its engine's table under its op (R16). -/
theorem decode_packWord (he : e < 6) (hop : op < 2 ^ 7) (hfs : Fits fs 21) :
    decode (packWord S e op fs) = decodeOf e (wordBits S e op fs) op := by
  have hword : wordBits S e op fs < 2 ^ 32 := (Fits.cons (bnat_lt S) (by decide) (fits_engine he hop hfs)).placed_lt
  have hopAt : wordBits S e op fs / 2 ^ 21 % 2 ^ 7 = op := by
    rw [wordBits, placed_div_mod_below (by decide), placed_div_mod_below (by decide), placed_div_mod_here hop hfs]
  have heAt : wordBits S e op fs / 2 ^ 28 % 2 ^ 3 = e := by
    rw [wordBits, placed_div_mod_below (by decide), placed_div_mod_here (by omega) (fits_op hop hfs)]
  simp only [decode, toNat_packWord hword, hopAt, heAt]
  interval_cases e <;> rfl

@[simp] theorem bit_stop (he : e < 6) (hop : op < 2 ^ 7) (hfs : Fits fs 21) : bit (wordBits S e op fs) 31 = S :=
  bit_here (fits_engine he hop hfs)

@[simp] theorem fld_wordBits (h : lo + len ≤ 21) : fld (wordBits S e op fs) lo len = fld (placed fs) lo len := by
  rw [wordBits, fld_below (by omega), fld_below (by omega), fld_below h]

@[simp] theorem bit_wordBits (h : lo + 1 ≤ 21) : bit (wordBits S e op fs) lo = bit (placed fs) lo := by
  rw [wordBits, bit_below (by omega), bit_below (by omega), bit_below h]

@[simp] theorem rsv_wordBits (h : lo + len ≤ 21) : rsv (wordBits S e op fs) lo len = rsv (placed fs) lo len := by
  rw [wordBits, rsv_below (by omega), rsv_below (by omega), rsv_below h]

end Word

theorem accept_eq_ok {i j : Instr} : accept j = .ok i ↔ j = i ∧ j.wf = true := by
  rw [accept, Instr.wf]
  cases j.check <;> simp

theorem accept_of_wf {i : Instr} (h : i.wf = true) : accept i = .ok i := accept_eq_ok.mpr ⟨rfl, h⟩

/-! The codes that tell forms of one op apart, and the types that `VRNG` and `AFADD` allow alone (R17, R18). -/

@[simp] theorem bit_zero_of_one : bit (placed [(1, 0)]) 0 = true := rfl
@[simp] theorem bit_zero_of_two : bit (placed [(2, 0)]) 0 = false := rfl
@[simp] theorem bit_one_of_two : bit (placed [(2, 0)]) 1 = true := rfl

theorem wordBits_type_vrng (S : Bool) (d : BitVec 5) (m : BitVec 3) : wordBits S 1 84 [(d.toNat, 16), (m.toNat, 3), (3, 0)] % 8 = 3 := by
  simp only [wordBits, placed]; omega

theorem wordBits_type_afadd (S : Bool) (d a b : BitVec 5) (r q : Bool) :
    wordBits S 5 25 [(d.toNat, 16), (a.toNat, 11), (b.toNat, 6), (bnat r, 3), (bnat q, 2), (2, 0)] % 4 = 2 := by
  simp only [wordBits, placed]; omega

section DecodeEncode

/-! The word of a well-formed instruction decodes to it, chapter by chapter: an instruction's row in the opcode table is the number of its
constructor, and each row's fields are read back where its encoding places them. -/

variable {i : Instr} {w : IWord}

theorem decode_of_encode_pfx {p : BitVec 28} (h : encode (.pfx p) = some w) : decode w = .ok (.pfx p) := by
  obtain rfl := Option.some.inj h
  have hfits : Fits [(6, 28), (p.toNat, 0)] 31 := by simp
  have hn : (BitVec.ofNat 32 (6 * 2 ^ 28 + p.toNat)).toNat = placed [(6, 28), (p.toNat, 0)] := by
    have hp := p.isLt
    simp only [placed, BitVec.toNat_ofNat]
    omega
  have he : placed [(6, 28), (p.toNat, 0)] / 2 ^ 28 % 2 ^ 3 = 6 := placed_div_mod_here (by decide) hfits.tail
  have hstop : bit (placed [(6, 28), (p.toNat, 0)]) 31 = false := bit_above hfits
  have hfld : fld (placed [(6, 28), (p.toNat, 0)]) 0 28 = p := (fld_below (by decide)).trans (fld_here .nil)
  simp only [decode, hn, he, hstop, hfld, Bool.false_eq_true, if_false]

/-- No word encodes a device step, nor GROUP_CHECK and GROUP_ADMIT. -/
theorem encode_step (hrow : i.ctorIdx < 2 ∨ 81 ≤ i.ctorIdx ∧ i.ctorIdx < 93 ∨ 208 ≤ i.ctorIdx) : encode i = none := by
  cases i <;> simp only [Instr.ctorIdx, Nat.reduceLT, Nat.reduceLeDiff, false_and, and_false, or_self] at hrow
  all_goals rfl

theorem decode_of_encode_arithmetic (hlo : 3 ≤ i.ctorIdx) (hhi : i.ctorIdx < 34) (hwf : i.wf = true) (h : encode i = some w) :
    decode w = .ok i := by
  cases i <;> simp only [Instr.ctorIdx, Nat.reduceLT, Nat.reduceLeDiff] at hlo hhi
  all_goals
    obtain rfl := Option.some.inj h
    rw [decode_packWord (by decide) (by decide) (by simp)]
    simp [decodeOf, decodeCtl, accept_of_wf hwf]

theorem decode_of_encode_controlFlow (hlo : 34 ≤ i.ctorIdx) (hhi : i.ctorIdx < 53) (hwf : i.wf = true) (h : encode i = some w) :
    decode w = .ok i := by
  cases i <;> simp only [Instr.ctorIdx, Nat.reduceLT, Nat.reduceLeDiff] at hlo hhi
  all_goals
    obtain rfl := Option.some.inj h
    rw [decode_packWord (by decide) (by decide) (by simp)]
    simp [decodeOf, decodeCtl, accept_of_wf hwf]

theorem decode_of_encode_synchronisation (hlo : 53 ≤ i.ctorIdx) (hhi : i.ctorIdx < 81) (hwf : i.wf = true) (h : encode i = some w) :
    decode w = .ok i := by
  cases i <;> simp only [Instr.ctorIdx, Nat.reduceLT, Nat.reduceLeDiff] at hlo hhi
  all_goals
    obtain rfl := Option.some.inj h
    rw [decode_packWord (by decide) (by decide) (by simp)]
    simp [decodeOf, decodeSyn, wordBits_type_afadd, accept_of_wf hwf]

theorem decode_of_encode_contexts (hlo : 93 ≤ i.ctorIdx) (hhi : i.ctorIdx < 108) (hwf : i.wf = true) (h : encode i = some w) :
    decode w = .ok i := by
  cases i <;> simp only [Instr.ctorIdx, Nat.reduceLT, Nat.reduceLeDiff] at hlo hhi
  all_goals
    obtain rfl := Option.some.inj h
    rw [decode_packWord (by decide) (by decide) (by simp)]
    simp [decodeOf, decodeSyn, accept_of_wf hwf]

theorem decode_of_encode_vectorFloat (hlo : 108 ≤ i.ctorIdx) (hhi : i.ctorIdx < 134) (hwf : i.wf = true) (h : encode i = some w) :
    decode w = .ok i := by
  cases i <;> simp only [Instr.ctorIdx, Nat.reduceLT, Nat.reduceLeDiff] at hlo hhi
  all_goals
    obtain rfl := Option.some.inj h
    rw [decode_packWord (by decide) (by decide) (by simp)]
    simp [decodeOf, decodeVec, accept_of_wf hwf]

theorem decode_of_encode_vectorInteger (hlo : 134 ≤ i.ctorIdx) (hhi : i.ctorIdx < 160) (hwf : i.wf = true) (h : encode i = some w) :
    decode w = .ok i := by
  cases i <;> simp only [Instr.ctorIdx, Nat.reduceLT, Nat.reduceLeDiff] at hlo hhi
  all_goals
    obtain rfl := Option.some.inj h
    rw [decode_packWord (by decide) (by decide) (by simp)]
    simp [decodeOf, decodeVec, wordBits_type_vrng, accept_of_wf hwf]

theorem decode_of_encode_vectorMoves_matrix (hlo : 160 ≤ i.ctorIdx) (hhi : i.ctorIdx < 189) (hwf : i.wf = true) (h : encode i = some w) :
    decode w = .ok i := by
  cases i <;> simp only [Instr.ctorIdx, Nat.reduceLT, Nat.reduceLeDiff] at hlo hhi
  all_goals
    obtain rfl := Option.some.inj h
    rw [decode_packWord (by decide) (by decide) (by simp)]
    simp [decodeOf, decodeVmv, decodeMat, accept_of_wf hwf]

theorem decode_of_encode_fetch (hlo : 189 ≤ i.ctorIdx) (hhi : i.ctorIdx < 208) (hwf : i.wf = true) (h : encode i = some w) :
    decode w = .ok i := by
  cases i <;> simp only [Instr.ctorIdx, Nat.reduceLT, Nat.reduceLeDiff] at hlo hhi
  all_goals
    obtain rfl := Option.some.inj h
    rw [decode_packWord (by decide) (by decide) (by simp)]
    simp [decodeOf, decodeFet, accept_of_wf hwf]

theorem decode_of_encode (hwf : i.wf = true) (h : encode i = some w) : decode w = .ok i := by
  have hcoded : ¬ (i.ctorIdx < 2 ∨ 81 ≤ i.ctorIdx ∧ i.ctorIdx < 93 ∨ 208 ≤ i.ctorIdx) := fun hrow => by
    rw [encode_step hrow] at h; cases h
  by_cases h3 : i.ctorIdx < 3
  · have hpfx : i.ctorIdx = 2 := by omega
    cases i <;> simp only [Instr.ctorIdx, Nat.reduceEqDiff] at hpfx
    exact decode_of_encode_pfx h
  by_cases h34 : i.ctorIdx < 34
  · exact decode_of_encode_arithmetic (by omega) h34 hwf h
  by_cases h53 : i.ctorIdx < 53
  · exact decode_of_encode_controlFlow (by omega) h53 hwf h
  by_cases h81 : i.ctorIdx < 81
  · exact decode_of_encode_synchronisation (by omega) h81 hwf h
  by_cases h108 : i.ctorIdx < 108
  · exact decode_of_encode_contexts (by omega) h108 hwf h
  by_cases h134 : i.ctorIdx < 134
  · exact decode_of_encode_vectorFloat (by omega) h134 hwf h
  by_cases h160 : i.ctorIdx < 160
  · exact decode_of_encode_vectorInteger (by omega) h160 hwf h
  by_cases h189 : i.ctorIdx < 189
  · exact decode_of_encode_vectorMoves_matrix (by omega) h189 hwf h
  · exact decode_of_encode_fetch (by omega) (by omega) hwf h

end DecodeEncode

/-- Word n under an engine's op, its payload whole. -/
def wordOf (n e op : Nat) : IWord := packWord (bit n 31) e op [(n % 2 ^ 21, 0)]

/-- Word n under an engine's op holds instruction i: i is well formed and encodes to that word, no bit of it dropped. -/
def Holds (n e op : Nat) (i : Instr) : Prop := encode i = some (wordOf n e op) ∧ i.wf = true

theorem bnat_bit (n lo : Nat) : bnat (bit n lo) = n / 2 ^ lo % 2 := by
  rcases Nat.mod_two_eq_zero_or_one (n / 2 ^ lo) with h | h <;> simp [bit, bnat, h]

section Placing

/-! The fields that a decoder reads, placed again, are the payload that they were read from: one field at a time, from the highest down, a gap
above a field being one that the decoder has found zero (R18). -/

variable {n x lo len k : Nat} {r : List (Nat × Nat)}

theorem mod_of_rsv (h : rsv n lo (k - lo) = true) (hk : lo ≤ k) : n % 2 ^ k = n % 2 ^ lo := by
  rw [rsv, beq_iff_eq] at h
  rw [← Nat.add_sub_cancel' hk, pow_add, Nat.mod_mul, h, Nat.mul_zero, Nat.add_zero]

theorem placed_fld (hk : lo + len = k) : placed (((fld n lo len).toNat, lo) :: r) = n % 2 ^ k ↔ placed r = n % 2 ^ lo := by
  rw [← hk, pow_add, Nat.mod_mul, placed, fld, BitVec.toNat_ofNat, Nat.mul_comm, Nat.add_comm, Nat.add_left_inj]

theorem placed_bit (hk : lo + 1 = k) : placed ((bnat (bit n lo), lo) :: r) = n % 2 ^ k ↔ placed r = n % 2 ^ lo := by
  rw [← hk, pow_add, pow_one, Nat.mod_mul, placed, bnat_bit, Nat.mul_comm, Nat.add_comm, Nat.add_left_inj]

theorem placed_fld_gap (h : rsv n (lo + len) (k - (lo + len)) = true) (hk : lo + len ≤ k) :
    placed (((fld n lo len).toNat, lo) :: r) = n % 2 ^ k ↔ placed r = n % 2 ^ lo := by
  rw [mod_of_rsv h hk, placed_fld rfl]

theorem placed_bit_gap (h : rsv n (lo + 1) (k - (lo + 1)) = true) (hk : lo + 1 ≤ k) :
    placed ((bnat (bit n lo), lo) :: r) = n % 2 ^ k ↔ placed r = n % 2 ^ lo := by
  rw [mod_of_rsv h hk, placed_bit rfl]

theorem placed_two (h : n % 4 = 2) : placed [(2, 0)] = n % 2 ^ 2 ↔ True := iff_true_intro h.symm

theorem placed_three (h : n % 8 = 3) : placed [(3, 0)] = n % 2 ^ 3 ↔ True := iff_true_intro h.symm

theorem placed_nil : placed [] = n % 2 ^ 0 ↔ True := by
  rw [pow_zero, Nat.mod_one]; exact iff_true_intro rfl

theorem placed_nil_gap (h : rsv n 0 k = true) : placed [] = n % 2 ^ k ↔ True := by
  rw [mod_of_rsv (lo := 0) h (Nat.zero_le k), placed_nil]

end Placing

section EncodeDecode

variable {n op : Nat} {i j : Instr}

theorem holds_of_accept {e : Nat} {fs : List (Nat × Nat)} (hj : encode j = some (packWord (bit n 31) e op fs))
    (hfs : placed fs = n % 2 ^ 21) (hwf : j.wf = true) : Holds n e op j := by
  refine ⟨hj.trans (congrArg some ?_), hwf⟩
  simp only [wordOf, packWord, hfs, placed, pow_zero, Nat.mul_one, Nat.add_zero]

theorem guard_eq_ok {c : Prop} [Decidable c] {x : Illegal} {p : Except Illegal Instr} :
    (if c then p else .error x) = .ok i ↔ c ∧ p = .ok i := by
  by_cases hc : c <;> simp [hc]

/-- `CHK` in its two forms (R248). -/
theorem holds_of_decodeCtl_chk : decodeCtl n 71 = .ok i → Holds n 0 71 i := by
  simp only [decodeCtl]
  split
  next hcondition =>
    simp only [guard_eq_ok, accept_eq_ok, Bool.and_eq_true, rsv, bit, beq_iff_eq] at hcondition ⊢
    rintro ⟨⟨hlow, hhigh⟩, rfl, hwf⟩
    exact holds_of_accept rfl (by simp only [placed, fld, BitVec.toNat_ofNat]; omega) hwf
  next hscalar =>
    simp only [guard_eq_ok, accept_eq_ok, Bool.and_eq_true, rsv, bit, beq_iff_eq] at hscalar ⊢
    rintro ⟨⟨hlow, hhigh⟩, rfl, hwf⟩
    exact holds_of_accept rfl (by simp only [placed, fld, BitVec.toNat_ofNat]; omega) hwf

/-- `CTXRUN` in its three forms (R319). -/
theorem holds_of_decodeSyn_ctxrun : decodeSyn n 51 = .ok i → Holds n 5 51 i := by
  simp only [decodeSyn]
  cases hresume : bit n 0 <;> cases hkill : bit n 1
  case true.true => intro h; cases h
  all_goals
    simp only [Bool.and_true, Bool.and_false, Bool.false_eq_true, if_true, if_false, guard_eq_ok, accept_eq_ok, rsv, beq_iff_eq]
    simp only [bit, beq_iff_eq, beq_eq_false_iff_ne] at hresume hkill
    rintro ⟨hrsv, rfl, hwf⟩
    exact holds_of_accept rfl (by simp only [placed, fld, BitVec.toNat_ofNat]; omega) hwf

/-- `LOGARM` in its two forms (R325). -/
theorem holds_of_decodeSyn_logarm : decodeSyn n 55 = .ok i → Holds n 5 55 i := by
  simp only [decodeSyn]
  split
  next hoff =>
    simp only [guard_eq_ok, accept_eq_ok, rsv, bit, beq_iff_eq] at hoff ⊢
    rintro ⟨hrsv, rfl, hwf⟩
    exact holds_of_accept rfl (by simp only [placed, fld, BitVec.toNat_ofNat]; omega) hwf
  next harm =>
    simp only [guard_eq_ok, accept_eq_ok, rsv, bit, beq_iff_eq] at harm ⊢
    rintro ⟨hrsv, rfl, hwf⟩
    exact holds_of_accept rfl (by simp only [placed, fld, BitVec.toNat_ofNat]; omega) hwf

theorem holds_of_decodeCtl : decodeCtl n op = .ok i → Holds n 0 op i := by
  unfold decodeCtl
  split
  case h_47 => exact fun h => holds_of_decodeCtl_chk (by simpa only [decodeCtl] using h)
  case h_50 => intro h; cases h
  all_goals
    simp only [guard_eq_ok, accept_eq_ok, Bool.and_eq_true, and_imp]
    intros
    subst_vars
    refine holds_of_accept rfl ?_ ‹_›
    simp only [placed_fld, placed_fld_gap, placed_bit, placed_bit_gap, placed_nil, placed_nil_gap, *, Nat.reduceAdd,
      Nat.reduceSub, Nat.reduceLeDiff]

theorem holds_of_decodeVec : decodeVec n op = .ok i → Holds n 1 op i := by
  unfold decodeVec
  split
  case h_53 => intro h; cases h
  all_goals
    simp only [guard_eq_ok, accept_eq_ok, Bool.and_eq_true, beq_iff_eq, and_imp]
    intros
    subst_vars
    refine holds_of_accept rfl ?_ ‹_›
    simp only [placed_fld, placed_fld_gap, placed_bit, placed_three, placed_nil, placed_nil_gap, *, Nat.reduceAdd,
      Nat.reduceSub, Nat.reduceLeDiff]

theorem holds_of_decodeVmv : decodeVmv n op = .ok i → Holds n 2 op i := by
  unfold decodeVmv
  split
  case h_19 => intro h; cases h
  all_goals
    simp only [guard_eq_ok, accept_eq_ok, Bool.and_eq_true, and_imp]
    intros
    subst_vars
    refine holds_of_accept rfl ?_ ‹_›
    simp only [placed_fld, placed_fld_gap, placed_bit_gap, placed_nil, placed_nil_gap, *, Nat.reduceAdd,
      Nat.reduceSub, Nat.reduceLeDiff]

theorem holds_of_decodeMat : decodeMat n op = .ok i → Holds n 3 op i := by
  unfold decodeMat
  split
  case h_12 => intro h; cases h
  all_goals
    simp only [guard_eq_ok, accept_eq_ok, Bool.and_eq_true, and_imp]
    intros
    subst_vars
    refine holds_of_accept rfl ?_ ‹_›
    simp only [placed_fld, placed_fld_gap, placed_bit, placed_nil, placed_nil_gap, *, Nat.reduceAdd,
      Nat.reduceSub, Nat.reduceLeDiff]

theorem holds_of_decodeFet : decodeFet n op = .ok i → Holds n 4 op i := by
  unfold decodeFet
  split
  case h_20 => intro h; cases h
  all_goals
    simp only [guard_eq_ok, accept_eq_ok, Bool.and_eq_true, and_imp]
    intros
    subst_vars
    refine holds_of_accept rfl ?_ ‹_›
    simp only [placed_fld, placed_fld_gap, placed_bit, placed_bit_gap, placed_nil, placed_nil_gap, *, Nat.reduceAdd,
      Nat.reduceSub, Nat.reduceLeDiff]

theorem holds_of_decodeSyn : decodeSyn n op = .ok i → Holds n 5 op i := by
  unfold decodeSyn
  split
  case h_35 => exact fun h => holds_of_decodeSyn_ctxrun (by simpa only [decodeSyn] using h)
  case h_39 => exact fun h => holds_of_decodeSyn_logarm (by simpa only [decodeSyn] using h)
  case h_41 => intro h; cases h
  all_goals
    simp only [guard_eq_ok, accept_eq_ok, Bool.and_eq_true, beq_iff_eq, and_imp]
    intros
    subst_vars
    refine holds_of_accept rfl ?_ ‹_›
    simp only [placed_fld, placed_fld_gap, placed_bit, placed_bit_gap, placed_two, placed_nil, placed_nil_gap, *, Nat.reduceAdd,
      Nat.reduceSub, Nat.reduceLeDiff]

/-- A word is its stop bit, its engine, its op and its payload (R15). -/
theorem wordOf_toNat (w : IWord) : wordOf w.toNat (w.toNat / 2 ^ 28 % 2 ^ 3) (w.toNat / 2 ^ 21 % 2 ^ 7) = w := by
  refine BitVec.eq_of_toNat_eq ?_
  have hw := w.isLt
  simp only [wordOf, packWord, placed, bnat_bit, BitVec.toNat_ofNat]
  omega

theorem encode_pfx_of_decode {w : IWord} (he : w.toNat / 2 ^ 28 % 2 ^ 3 = 6) (hstop : ¬ bit w.toNat 31 = true) :
    encode (.pfx (fld w.toNat 0 28)) = some w := by
  refine congrArg some (BitVec.eq_of_toNat_eq ?_)
  have hw := w.isLt
  rw [bit, beq_iff_eq] at hstop
  simp only [fld, BitVec.toNat_ofNat]
  omega

/-- A word that decodes is the word of what it decodes to, which is well formed. -/
theorem encode_of_decode {w : IWord} (h : decode w = .ok i) : encode i = some w ∧ i.wf = true := by
  have hword {e : Nat} (he : w.toNat / 2 ^ 28 % 2 ^ 3 = e) (hi : Holds w.toNat e (w.toNat / 2 ^ 21 % 2 ^ 7) i) :
      encode i = some w ∧ i.wf = true := by
    subst he
    exact ⟨hi.1.trans (congrArg some (wordOf_toNat w)), hi.2⟩
  unfold decode at h
  dsimp only at h
  split at h
  next he => exact hword he (holds_of_decodeCtl h)
  next he => exact hword he (holds_of_decodeVec h)
  next he => exact hword he (holds_of_decodeVmv h)
  next he => exact hword he (holds_of_decodeMat h)
  next he => exact hword he (holds_of_decodeFet h)
  next he => exact hword he (holds_of_decodeSyn h)
  next he =>
    split at h
    · cases h
    next hstop =>
      cases h
      exact ⟨encode_pfx_of_decode he hstop, rfl⟩
  next => cases h

end EncodeDecode

/-- Settles O57: each row's fields are read back where its encoding places them, and placed again they are the word that was read. -/
theorem decodingAndEncodingAgree : Obligations.DecodingAndEncodingAgree := by
  unfold Obligations.DecodingAndEncodingAgree
  exact ⟨fun _ _ hwf h => decode_of_encode hwf h, fun _ _ h => encode_of_decode h⟩

/-- Settles O56: each listed word, decoded. -/
theorem theSpecsOwnWordsDecode : Obligations.TheSpecsOwnWordsDecode := by
  unfold Obligations.TheSpecsOwnWordsDecode
  decide +kernel

end Sys2Proof.Codec
end

section
/-!
PROOFS. `Obligations.AtomicsReadModifyAndWrite`: the table of R241 as the model's operations have it, then the course of an atomic, step by step.
-/

namespace Sys2Proof.Atomics

open Sys2Proof Sys2Proof.Machine Sys2Proof.Claims Sys2Proof.Laws

section Bytes

theorem pow_256 (n : Nat) : 256 ^ n = 2 ^ (8 * n) := by rw [pow_mul]; rfl

/-- The n bytes of a number are those of its n low bytes. -/
theorem leBytes_mod (n x : Nat) : leBytes n (x % 2 ^ (8 * n)) = leBytes n x := by
  rw [← pow_256]
  induction n generalizing x with
  | zero => rfl
  | succ n ih =>
    have hlow : BitVec.ofNat 8 (x % 256 ^ (n + 1)) = BitVec.ofNat 8 x := by
      apply BitVec.eq_of_toNat_eq
      simp only [BitVec.toNat_ofNat]
      exact Nat.mod_mod_of_dvd _ ⟨256 ^ n, by ring⟩
    have hhigh : x % 256 ^ (n + 1) / 256 = x / 256 % 256 ^ n := by rw [pow_succ', Nat.mod_mul_right_div_self]
    rw [leBytes, leBytes, hlow, hhigh, ih]

theorem runBytes_cons (sh o n : Nat) (rs : List (Nat × Nat × Nat)) : runBytes ((sh, o, n) :: rs) = n + runBytes rs := by
  simp [runBytes]

/-- Runs hold each byte once. -/
theorem runBytes_runsOf (l : List (Nat × Nat)) : runBytes (runsOf l) = l.length := by
  induction l with
  | nil => rfl
  | cons x l ih =>
    obtain ⟨sh, o⟩ := x
    rw [List.length_cons, ← ih, runsOf]
    cases hr : runsOf l with
    | nil => rfl
    | cons y rs =>
      obtain ⟨sh2, o2, n⟩ := y
      dsimp only
      split <;> simp only [runBytes_cons] <;> omega

/-- The runs of an access that passes its checks hold as many bytes as it asks for. -/
theorem runBytes_of_xacc {s : State} {w : Who} {h x : Word} {n al : Nat} {need : BitVec 6} {acc : Acc} {rs : List (Nat × Nat × Nat)}
    (hx : s.xacc w h x n need al = .ok (acc, rs)) : runBytes rs = n := by
  unfold State.xacc at hx
  cases hd : s.dataChecked s.t.ctx h need w with
  | stall | trap i => rw [hd] at hx; cases hx
  | ok a =>
    rw [hd, Chk.bind] at hx
    dsimp only at hx
    split at hx
    · cases hx
    split at hx
    · cases hx
    split at hx
    · cases hx
    split at hx
    · cases hx
    split at hx
    · cases hx
    cases hx
    rw [Obj.scalarRuns, runBytes_runsOf, List.length_map, List.length_range]

end Bytes

/-- The pair that `ACAS` names is 2d and 2d + 1 (R241). -/
theorem acas_pair (p : BitVec 4) : (p.setWidth 5) <<< 1 = BitVec.ofNat 5 (2 * p.toNat) ∧
    (p.setWidth 5) <<< 1 ||| 1 = BitVec.ofNat 5 (2 * p.toNat) + 1 := by
  revert p; decide

theorem oldVal_eq (u : Bool) (n old : Nat) : oldVal u n old = extended (!u) n old := by
  cases u <;> rfl

/-- A word of the table of R241 is the model's atomic of the same operands, and reads, writes and delivers as the table says. -/
structure Follows (i : Instr) (s : State) (r : AtomicRule) : Prop where
  exec_eq : exec i s = s.atomic r.stop i r.a r.b r.ops r.release r.n
  reads : readsOld i = true
  notAld : ∀ S d a b u q n, i ≠ .ald S d a b u q n
  writes : ∀ v v2 old, (r.ops.map fun x => (s.rs x).val) = [v, v2].take r.ops.length → atomicWrite i r.n v v2 old = r.new old
  delivers : ∀ old, atomicOld i r.n old = some (r.d, extended (!r.u) r.n old)

theorem follows_of_atomicRule {i : Instr} {s : State} {r : AtomicRule} (h : atomicRule i s = some r) : Follows i s r := by
  cases i <;> cases h
  case acas S p a b u q r n =>
    obtain ⟨hlow, hhigh⟩ := acas_pair p
    refine ⟨?_, rfl, nofun, fun v v2 old hv => ?_, fun old => congrArg some (Prod.ext hlow (oldVal_eq _ _ _))⟩
    · rw [← hhigh, ← hlow]; rfl
    · simp only [List.map_cons, List.map_nil, List.length_cons, List.length_nil, List.take, List.cons.injEq, and_true] at hv
      obtain ⟨h1, h2⟩ := hv
      subst h1 h2
      simp only [atomicWrite, pow_256]
  all_goals
    refine ⟨rfl, rfl, nofun, fun v v2 old hv => ?_, fun old => by rw [← oldVal_eq]; rfl⟩
    simp only [List.map_cons, List.map_nil, List.length_cons, List.length_nil, List.take, List.cons.injEq, and_true] at hv
    simp [atomicWrite, hv, pow_256, sized, atVal]

section Course

variable {i : Instr} {s s1 s2 s3 : State} {S r : Bool} {a b : BitVec 5} {ds : List (BitVec 5)} {n : Nat} {acc : Acc}
  {rs : List (Nat × Nat × Nat)} {v v2 : Word}

theorem poisoned_of_ok {w : Who} {l : List (BitVec 5)} (h : ∀ x ∈ l, okS s x) : s.poisoned w (l.map s.pS) = none := by
  have hfind : (l.map s.pS).find? (fun p => p.2.2.isSome) = none := by
    simpa [State.pS, Option.isSome_iff_ne_none] using h
  rw [State.poisoned, hfind]

/-- A word that waits with its access resolved goes on with it (R55). -/
theorem atomic_resolved (hopen : s.progress.isOpen = true) (hres : s.resolved = some (acc, rs, v, v2)) :
    s.atomic S i a b ds r n = s.atomicGo S i acc rs v v2 := by
  unfold State.atomic
  cases hp : s.progress with
  | plain | asked => simp only [hres]
  | _ => rw [hp] at hopen; cases hopen

/-- An atomic that begins and passes its checks goes on as a release does, with its operands captured (R31, R238, R242). -/
theorem atomic_checked (hp : s.progress = .plain) (hres : s.resolved = none) (ha : okS s a) (hb : okS s b) (hds : ∀ x ∈ ds, okS s x)
    (hx : s.xacc (whoOf i) (s.rs a).val (s.rs b).val n rATOMIC n = .ok (acc, rs)) :
    ((∀ S d a b u q n, i ≠ .ald S d a b u q n) → s.atomic S i a b ds r n = s.afterRelease r
      (s.whenPrepared (whoOf i) acc rs fun s1 => s1.atomicGo S i acc rs (s.sv (ds.headD 0)) (s.sv ((ds.drop 1).headD 0)))) ∧
    ((∃ S d a b u q n, i = .ald S d a b u q n) → s.atomic S i a b ds r n = s.afterRelease r
      (s.atomicGo S i acc rs (s.sv (ds.headD 0)) (s.sv ((ds.drop 1).headD 0)))) := by
  have hok : s.poisoned (whoOf i) ([s.pS a, s.pS b] ++ ds.map s.pS) = none :=
    poisoned_of_ok (l := a :: b :: ds) (List.forall_mem_cons.mpr ⟨ha, List.forall_mem_cons.mpr ⟨hb, hds⟩⟩)
  have hacc : s.atomicAcc (whoOf i) a b (ds.map s.pS) n = .ok (acc, rs) := by rw [State.atomicAcc, hok]; exact hx
  refine ⟨fun hi => ?_, fun ⟨S', d', a', b', u', q', n', hi⟩ => ?_⟩
  · unfold State.atomic
    simp only [hp, hres, hacc]
  · subst hi
    unfold State.atomic
    simp only [hp, hres, hacc]

theorem whenPrepared_ready {w : Who} (h : s.prepRuns acc rs = .ready s1) (k : State → Res) : s.whenPrepared w acc rs k = k s1 := by
  unfold State.whenPrepared; rw [h]

/-- An access that misses has its lines reserved, and its word waits with it resolved (R88). -/
theorem atomicGo_misses (hh : s.storesHold acc = false) (hr : readsOld i = true) (hp : s.progress = .plain)
    (hm : s.runsMiss acc false rs = true) :
    s.atomicGo S i acc rs v v2 = .next ((s.reserveRuns acc false rs).block (.access i acc.h acc.oid rs v v2) (.asked s.ticks)) := by
  simp only [State.atomicGo, hh, hr, State.onceRead, hp, hm, if_true, if_false, Bool.false_eq_true]

/-- An access whose lines are at hand, or whose request has gone out, is made (R88). -/
theorem atomicGo_goes (hh : s.storesHold acc = false) (hm : readsOld i = true → s.runsMiss acc false rs = false ∨ ∃ x, s.progress = .asked x)
    {old : Nat} (hrmw : s.rmw i acc rs v v2 = (s1, .ok old)) :
    s.atomicGo S i acc rs v v2 = .next (s1.atomicEnd S i (runBytes rs) old) := by
  simp only [State.atomicGo, hh, hrmw, Bool.false_eq_true, if_false]
  split
  · next hr => rw [onceRead_goes (hm hr)]
  · rfl

/-- An access whose read gives an error waits for its reply, or traps (R73). -/
theorem atomicGo_fails (hh : s.storesHold acc = false) (hm : s.runsMiss acc false rs = false ∨ ∃ x, s.progress = .asked x)
    (hr : readsOld i = true) {e : Nat × Nat} (hrd : s.readRuns acc false rs = (s1, .error e)) :
    s.atomicGo S i acc rs v v2 = s.orNoReply (.access i acc.h acc.oid rs v v2) e
      (.next ((s1.unpendRuns acc.oid rs).trapWord (s1.fetchTrap (whoOf i) acc e))) := by
  have hrmw : s.rmw i acc rs v v2 = (s1, .error e) := by simp only [State.rmw, hr, if_true, hrd]
  simp only [State.atomicGo, hh, hrmw, hr, Bool.false_eq_true, if_false, if_true, onceRead_goes hm]

/-- An atomic whose old value calls for no write only reads. -/
theorem rmw_reads (hr : readsOld i = true) {bs : List Byte} (hrd : s.readRuns acc false rs = (s1, .ok bs))
    (hw : atomicWrite i (runBytes rs) v v2 (leNat bs) = none) : s.rmw i acc rs v v2 = (s1, .ok (leNat bs)) := by
  simp only [State.rmw, hr, if_true, hrd, hw]

/-- Read and write stand next to each other (R237). -/
theorem rmw_writes (hr : readsOld i = true) {bs : List Byte} (hrd : s.readRuns acc false rs = (s1, .ok bs)) {x : Nat}
    (hw : atomicWrite i (runBytes rs) v v2 (leNat bs) = some x) (hwr : s1.writeRuns acc rs (leBytes (runBytes rs) x) = (s2, none)) :
    s.rmw i acc rs v v2 = (s2, .ok (leNat bs)) := by
  simp only [State.rmw, hr, if_true, hrd, hw, hwr]

/-- What an atomic delivers, as one scalar register that is written. -/
theorem atomicEnd_delivers {old : Nat} {d : BitVec 5} {x : Word} (h : atomicOld i n old = some (d, x)) :
    ∃ t, s.atomicEnd S i n old = t.advance S ∧ scalarSet s t d { val := x, poison := none } :=
  ⟨s.wrS d x, by rw [State.atomicEnd, h], setS_scalarSet _ _ _⟩

/-- The course of an atomic of the table once it has its access, prepared or resolved (R237, R241, R242). -/
theorem atomicGo_of_follows {r : AtomicRule} {s0 : State} {bs : List Byte} (hf : Follows i s0 r)
    (hops : (r.ops.map fun x => (s0.rs x).val) = [v, v2].take r.ops.length) (hn : runBytes rs = r.n)
    (hh : s.storesHold acc = false) (hm : s.runsMiss acc false rs = false ∨ ∃ x, s.progress = .asked x)
    (hrd : s.readRuns acc false rs = (s2, .ok bs)) :
    (r.new (leNat bs) = none → ∃ t, s.atomicGo S i acc rs v v2 = .next (t.advance S) ∧
      scalarSet s2 t r.d { val := extended (!r.u) r.n (leNat bs), poison := none }) ∧
    (∀ x, r.new (leNat bs) = some x → ∀ s3, s2.writeRuns acc rs (leBytes r.n x) = (s3, none) →
      ∃ t, s.atomicGo S i acc rs v v2 = .next (t.advance S) ∧
        scalarSet s3 t r.d { val := extended (!r.u) r.n (leNat bs), poison := none }) := by
  have hw := hf.writes v v2 (leNat bs) hops
  rw [← hn] at hw
  refine ⟨fun hnew => ?_, fun x hnew s3 hwr => ?_⟩
  · obtain ⟨t, ht, hset⟩ := atomicEnd_delivers (s := s2) (S := S) (hf.delivers (leNat bs))
    exact ⟨t, by rw [atomicGo_goes hh (fun _ => hm) (rmw_reads hf.reads hrd (hw.trans hnew)), hn, ht], hset⟩
  · obtain ⟨t, ht, hset⟩ := atomicEnd_delivers (s := s3) (S := S) (hf.delivers (leNat bs))
    exact ⟨t, by rw [atomicGo_goes hh (fun _ => hm) (rmw_writes hf.reads hrd (hw.trans hnew) (hn ▸ hwr)), hn, ht], hset⟩

/-- The operands of a word of the table are one register or two. -/
theorem operands_taken {r : AtomicRule} (h : atomicRule i s = some r) :
    [s.sv (r.ops.headD 0), s.sv ((r.ops.drop 1).headD 0)].take r.ops.length = r.ops.map fun x => (s.rs x).val := by
  cases i <;> cases h <;> rfl

theorem asked_of_open (hopen : s.progress.isOpen = true) (hne : s.progress ≠ .plain) : ∃ x, s.progress = .asked x := by
  generalize s.progress = p at *
  cases p with
  | plain => exact absurd rfl hne
  | asked x => exact ⟨x, rfl⟩
  | _ => cases hopen

/-- A SYN word that begins to wait reads what it captured, whatever the registers then hold (R31). -/
theorem rs_block_captured {p : Progress} {x : Vector SReg 32} {r0 : BitVec 5} (hwait : s.t.c.wait = none) (hsyn : s.t.c.synAtHand = true) :
    State.rs { s.block .other p with t := { (s.block .other p).t with c := { (s.block .other p).t.c with s := x } } } r0 = s.rs r0 := by
  have hcap : s.t.c.captured = s.t.c.s.toList := by simp only [Ctl.captured, hwait, hsyn, if_true]
  rw [State.rs, State.rs, Ctl.read_of_none s.t.c _ hwait]
  simp only [State.block, State.modC_t, hcap, Ctl.read, Ctl.sreg]
  by_cases h0 : r0 = 0
  · simp [h0]
  · have hlt : r0.toNat < 32 := r0.isLt
    simp [vget, hlt]

/-- An atomic of the table that begins with its checks passed and its pages prepared, or that goes on with its access resolved, takes
the course of its access with the operands that it has read (R31, R55, R238, R242). -/
theorem exec_eq_atomicGo {r : AtomicRule} (h : atomicRule i s = some r) (hops : (r.ops.map fun x => (s.rs x).val) = [v, v2].take r.ops.length)
    (hcase : (s.progress = .plain ∧ s.resolved = none ∧ okS s r.a ∧ okS s r.b ∧ (∀ x ∈ r.ops, okS s x) ∧
        s.xacc (whoOf i) (s.rs r.a).val (s.rs r.b).val r.n rATOMIC r.n = .ok (acc, rs) ∧ (r.release = true → s.coherentOpen = false) ∧
        s.prepRuns acc rs = .ready s1 ∧ s1.t = s.t) ∨
      (s.progress.isOpen = true ∧ s.resolved = some (acc, rs, v, v2) ∧ s1 = s)) :
    s1.progress = s.progress ∧ ∃ w1 w2, [w1, w2].take r.ops.length = [v, v2].take r.ops.length ∧
      exec i s = s1.atomicGo r.stop i acc rs w1 w2 := by
  have hf := follows_of_atomicRule h
  rcases hcase with ⟨hp, hres, ha, hb, hds, hx, hrel, hprep, ht⟩ | ⟨hopen, hres, rfl⟩
  · refine ⟨by rw [State.progress, ht, State.progress], s.sv (r.ops.headD 0), s.sv ((r.ops.drop 1).headD 0), ?_, ?_⟩
    · rw [← hops]
      exact operands_taken h
    · rw [hf.exec_eq, (atomic_checked hp hres ha hb hds hx).1 hf.notAld, afterRelease_goes hrel, whenPrepared_ready hprep]
  · exact ⟨rfl, v, v2, rfl, by rw [hf.exec_eq, atomic_resolved hopen hres]⟩

end Course

/-- Settles O14: an atomic takes the course of its access (`exec_eq_atomicGo`), which reads, writes and delivers as the table of R241 has it. -/
theorem atomicsReadModifyAndWrite : Obligations.AtomicsReadModifyAndWrite := by
  unfold Obligations.AtomicsReadModifyAndWrite
  refine ⟨?_, ?_, ?_, ?_, ?_, ?_, fun s p => ⟨_, rfl, rfl, rfl⟩, ?_⟩
  · intro i s s1 s2 r acc rs bs v v2 hrule hops hn hcase hhold
    obtain ⟨hprog, w1, w2, hw, hexec⟩ := exec_eq_atomicGo hrule hops hcase
    have hf := follows_of_atomicRule hrule
    refine ⟨fun hp hm => ⟨_, ⟨w1, w2, rfl, hw⟩, ?_⟩, fun hm hrd => ?_⟩
    · rw [hexec, atomicGo_misses hhold hf.reads (hprog.trans hp) hm]
    · have hopen : s.progress.isOpen = true := by
        rcases hcase with ⟨hp, -⟩ | ⟨hopen, -⟩
        · rw [hp]; rfl
        · exact hopen
      have hasked : s1.runsMiss acc false rs = false ∨ ∃ x, s1.progress = .asked x :=
        hm.symm.imp_right fun hne => asked_of_open (hprog ▸ hopen) (hprog ▸ hne)
      obtain ⟨hnone, hsome⟩ := atomicGo_of_follows (S := r.stop) hf (hops.trans hw.symm) hn hhold hasked hrd
      rw [hexec]
      split
      · next hnew => exact hnone hnew
      · next x hnew => exact hsome x hnew
  · intro S d a b u q k s s1 acc rs bs hp hres ha hb hx hhold hm hrd
    have hchecked := (atomic_checked (i := .ald S d a b u q k) (S := S) (r := false) hp hres ha hb (ds := []) nofun hx).2 ⟨_, _, _, _, _, _, _, rfl⟩
    obtain ⟨t, ht, hset⟩ := atomicEnd_delivers (s := s1) (S := S) (i := .ald S d a b u q k) (n := 2 ^ k.toNat) (old := leNat bs) rfl
    refine ⟨t, ?_, by rw [← oldVal_eq]; exact hset⟩
    calc exec (.ald S d a b u q k) s = _ := hchecked
      _ = _ := by rw [afterRelease_goes (r := false) (by simp), atomicGo_goes hhold (fun _ => .inl hm) (rmw_reads rfl hrd rfl), runBytes_of_xacc hx, ht]
  · intro S d a b r k s s1 s2 acc rs hp hres ha hb hd hrel hx hprep hhold hn hwr
    have hchecked := (atomic_checked (i := .ast S d a b r k) (S := S) (r := r) hp hres ha hb (ds := [d]) (by simpa using hd) hx).1 nofun
    have hrmw : ∀ v2, s1.rmw (.ast S d a b r k) acc rs (s.sv d) v2 = (s2, .ok (leNat [])) := fun v2 => by
      have hbytes : leBytes (runBytes rs) ((s.sv d).toNat % 2 ^ (8 * runBytes rs)) = leBytes (2 ^ k.toNat) (s.rs d).val.toNat := by
        rw [leBytes_mod, State.sv, runBytes, hn]
      simp only [State.rmw, readsOld, atomicWrite, hbytes, hwr, Bool.false_eq_true, if_false]
    calc exec (.ast S d a b r k) s = _ := hchecked
      _ = _ := by rw [afterRelease_goes hrel, whenPrepared_ready hprep, List.headD_cons, atomicGo_goes hhold (by simp [readsOld]) (hrmw _)]; rfl
  · intro i s s1 e r acc rs v v2 hrule hopen hne hres hhold hrd
    have hf := follows_of_atomicRule hrule
    have hgo := atomicGo_fails (S := r.stop) (v := v) (v2 := v2) hhold (.inr (asked_of_open hopen hne)) hf.reads hrd
    have hexec : exec i s = _ := (hf.exec_eq.trans (atomic_resolved hopen hres)).trans hgo
    exact ⟨fun t ht => hexec.trans (orNoReply_waits ht _ _), fun ht => hexec.trans (orNoReply_answered ht _ _)⟩
  · intro i s r acc rs hrule hp hres ha hb hds hx hrel hopen
    have hf := follows_of_atomicRule hrule
    rw [hf.exec_eq, (atomic_checked hp hres ha hb hds hx).1 hf.notAld, hrel, afterRelease_waits hopen]
  · intro S d a b k s acc rs hp hres ha hb hd hx hopen
    exact ((atomic_checked (i := .ast S d a b true k) (S := S) (r := true) hp hres ha hb (ds := [d]) (by simpa using hd) hx).1 nofun).trans
      (afterRelease_waits hopen _)
  · intro s p x r hwait hsyn
    exact rs_block_captured hwait hsyn

end Sys2Proof.Atomics
end

section
/-!
PROOFS. The refutations of `Obligations.QueueWordsAreDispatched`, `Obligations.HandleWords` and `Obligations.ContextsAreMadeAndChanged`, each by
a clause that says `raises` of a word without the premise that it has not waited. All three fail in one state.
-/

namespace Sys2Proof.Waiting

open Sys2Proof Sys2Proof.Machine Sys2Proof.Claims

/-- The scalar registers of the state below: s1 holds the handle number 1, which as an address is aligned to nothing, s2 is poisoned. -/
def heldRegs : Vector SReg 32 :=
  vset (vset Ctl.reset.s 1 { val := 1, poison := none }) 2
    { val := 0, poison := some { info := { cause := .alignment, x0 := 0, x1 := 0, x2 := 0, x3 := 0 }, org := 0 } }

/-- A running task of context 1 whose word at hand waits for a reply; POISON and ALIGNMENT have their handler at word 0 of handle 1, which names
the frozen code (R48, R56, R293). -/
def replyUnderMove : State :=
  { Scope.waitingUnderMove with
    turn := .control
    t := { Scope.waitingUnderMove.t with c := { Scope.waitingUnderMove.t.c with s := heldRegs } }
    ctxs := [(1, { cr := BitVec.ofNat 2048 (2 ^ 616 * 2 + 2 ^ (1280 + 128) * (2 ^ 63 + 2 ^ 32)), parent := 0xFFF, depth := 0, st := .running,
                   ring := 0, log := none, counters := [] })] }

/-- Traps of one class wait for one handler (R293, R296). -/
theorem handlerWaits_congr {s : State} {c c' : Cause} (h : c.cls = c'.cls) : s.handlerWaits c = s.handlerWaits c' := by
  simp only [State.handlerWaits, State.entryWaits, State.handlerOf, h]

/-- A trap of class 2 would wait there for its handler (R56). -/
theorem replyUnderMove_stalls {c : Cause} (h : c.cls = 2) : replyUnderMove.handlerWaits c = true := by
  rw [handlerWaits_congr (c' := .poison) h]
  decide +kernel

/-- There a word that traps with class 2 goes on waiting for its reply, where `raises` has it wait for the handler alone. -/
theorem not_raises_replyUnderMove {i : Instr} {x : TrapInfo} (hx : exec i replyUnderMove = .next (replyUnderMove.trapWord x))
    (hc : x.cause.cls = 2) : ¬ raises i replyUnderMove x := by
  intro h
  have hwake := (Scope.raises_iff_of_trapWord hx).mp h (replyUnderMove_stalls hc)
  cases hwake

theorem okS_one : okS replyUnderMove 1 := rfl

theorem handle_one (w : Who) : replyUnderMove.entryChecked replyUnderMove.t.ctx (replyUnderMove.rs 1).val w = .ok (1, HEntry.full 1) := by
  have hentry : replyUnderMove.hentry 1 1 = HEntry.full 1 := by decide +kernel
  have hsize : ¬ replyUnderMove.tableSize 1 ≤ 1 := by decide +kernel
  have hval : (replyUnderMove.rs 1).val = 1 := rfl
  have hctx : replyUnderMove.t.ctx = 1 := rfl
  rw [hval, hctx]
  simp [State.entryChecked, hentry, hsize, HEntry.full]

/-- `VBCST` of a poisoned scalar, outside a handler, takes POISON at its word (R31). -/
theorem exec_vbcst_poisoned : exec (.vbcst true 0 2 0 0) replyUnderMove =
    .next (replyUnderMove.trapWord (poisonTrap (whoOf (.vbcst true 0 2 0 0)) false 2)) := rfl

/-- `HDUP` of a record at address 1 takes ALIGNMENT at its word (R60). -/
theorem exec_hdup_misaligned : exec (.hdup true 0 1 1 false) replyUnderMove =
    .next (replyUnderMove.trapWord (alignTrap (whoOf (.hdup true 0 1 1 false)) 2 1 3)) := by
  have hexec : exec (.hdup true 0 1 1 false) replyUnderMove = execHdup true 0 1 1 false replyUnderMove := rfl
  rw [hexec, execHdup, Laws.poisoned_two okS_one okS_one]
  simp only [State.sv, handle_one]
  rfl

/-- `CTXNEW` of a record at address 1 takes ALIGNMENT at its word (R316). -/
theorem exec_ctxnew_misaligned : exec (.ctxnew true 0 1) replyUnderMove =
    .next (replyUnderMove.trapWord (alignTrap (whoOf (.ctxnew true 0 1)) 2 1 8)) := rfl

/-- Refutes O31 by its clause on poisoned scalars, which has no premise that the word has not waited: in `replyUnderMove` `VBCST` of s2 goes on
waiting for its reply. -/
theorem not_queueWordsAreDispatched : ¬ Obligations.QueueWordsAreDispatched := by
  unfold Obligations.QueueWordsAreDispatched
  rintro ⟨-, hdispatch⟩
  obtain ⟨-, hpoison, -⟩ := hdispatch (.vbcst true 0 2 0 0) true replyUnderMove (by decide) (by decide) rfl
  exact not_raises_replyUnderMove exec_vbcst_poisoned rfl (hpoison rfl 2 (by decide +kernel))

/-- Refutes O20 by its clause on a misaligned record of `HDUP`, which has no premise that the word has not waited: in `replyUnderMove` `HDUP`
of handle 1 with its record at address 1 goes on waiting for its reply. -/
theorem not_handleWords : ¬ Obligations.HandleWords := by
  unfold Obligations.HandleWords
  rintro ⟨-, -, -, hrecord, -⟩
  obtain ⟨halign, -⟩ := hrecord true 0 1 1 replyUnderMove 1 (HEntry.full 1) okS_one okS_one (handle_one _)
  exact not_raises_replyUnderMove exec_hdup_misaligned rfl (halign (by decide))

/-- Refutes O28 by its clause on a misaligned record of `CTXNEW`, which has no premise that the word has not waited: in `replyUnderMove`
`CTXNEW` of a record at address 1 goes on waiting for its reply. -/
theorem not_contextsAreMadeAndChanged : ¬ Obligations.ContextsAreMadeAndChanged := by
  unfold Obligations.ContextsAreMadeAndChanged
  rintro ⟨hnew, -⟩
  obtain ⟨halign, -⟩ := hnew true 0 1 replyUnderMove okS_one
  exact not_raises_replyUnderMove exec_ctxnew_misaligned rfl (halign (by decide))

end Sys2Proof.Waiting
end

section
/-!
PROOFS. `Obligations.ControlGoesOnPastAWord`: what follows a group's last word, one equation per transfer.
-/

namespace Sys2Proof.GroupEnds

open Sys2Proof Sys2Proof.Machine Sys2Proof.Claims

/-- The control engine behind its group, before the transfer (R27): the next group stands at a boundary. -/
def behindGroup (c : Ctl) : Ctl :=
  { c with pfx := none, wait := none, phase := .boundary, xfer := .none, gseq := c.gseq + 1 }

/-- A stack written anew says nothing to the loop-back over a list of loops (R257). -/
theorem loopBack_withStack (x : Word) (ls st : List (BitVec 2)) (c : Ctl) :
    Ctl.loopBack x ls { c with stack := st } = Ctl.loopBack x ls c := by
  induction ls generalizing c with
  | nil => rfl
  | cons l ls ih =>
    exact if_congr Iff.rfl (if_congr Iff.rfl (ih { c with loops := vset c.loops l.toNat { c.loop l with count := (c.loop l).count - 1 } }) rfl) rfl

/-- Nor to the leaving of loops by a transfer (R258). -/
theorem leaveLoops_withStack (x : Word) (ls st : List (BitVec 2)) (c : Ctl) :
    Ctl.leaveLoops x ls { c with stack := st } = Ctl.leaveLoops x ls c := by
  induction ls generalizing c with
  | nil => rfl
  | cons l ls ih =>
    exact if_congr Iff.rfl rfl (ih { c with loops := vset c.loops l.toNat { c.loop l with count := 0 } })

section Transfers

variable {s : State} {a : Word}

theorem advance_loops (hx : s.t.c.xfer = .none) (hm : s.t.x.hmode = false) :
    s.advance true = s.modC fun c => Ctl.loopBack c.pc c.stack (behindGroup c) := by
  simp only [State.advance, if_true, State.endGroup, State.modC_t, hx, hm, Bool.false_eq_true, if_false]
  rfl

theorem advance_jump (hx : s.t.c.xfer = .jump a) (hm : s.t.x.hmode = false) :
    s.advance true = s.modC fun c => { Ctl.leaveLoops a c.stack (behindGroup c) with pc := a } := by
  simp only [State.advance, if_true, State.endGroup, State.modC_t, hx, hm, Bool.false_eq_true, if_false]
  rfl

/-- The transfer past a loop's end, every transfer of a handler and its going on touch no loop (R258, R296). -/
theorem advance_lands (h : s.t.c.xfer = .goto a ∨ (s.t.c.xfer = .jump a ∧ s.t.x.hmode = true) ∨
    (s.t.c.xfer = .none ∧ s.t.x.hmode = true ∧ a = s.t.c.pc + 1)) : s.advance true = s.modC fun c => { behindGroup c with pc := a } := by
  rcases h with hx | ⟨hx, hm⟩ | ⟨hx, hm, rfl⟩
  · simp only [State.advance, if_true, State.endGroup, State.modC_t, hx]; rfl
  · simp only [State.advance, if_true, State.endGroup, State.modC_t, hx, hm]; rfl
  · simp only [State.advance, if_true, State.endGroup, State.modC_t, hx, hm]; rfl

/-- A jump within the innermost loop leaves every loop active (R258). -/
theorem advance_jump_within (hx : s.t.c.xfer = .jump a)
    (hin : ∀ l ∈ s.t.c.stack.head?, (s.t.c.loop l).start ≤ a ∧ a ≤ (s.t.c.loop l).last) :
    s.advance true = s.modC fun c => { behindGroup c with pc := a } := by
  cases hm : s.t.x.hmode with
  | true => exact advance_lands (.inr (.inl ⟨hx, hm⟩))
  | false =>
    have hstays : Ctl.leaveLoops a s.t.c.stack (behindGroup s.t.c) = behindGroup s.t.c := by
      cases hs : s.t.c.stack with
      | nil => simp only [Ctl.leaveLoops, behindGroup, hs]
      | cons l ls =>
        obtain ⟨hlo, hhi⟩ := hin l (by rw [hs]; rfl)
        have hloop : (behindGroup s.t.c).loop l = s.t.c.loop l := rfl
        simp only [Ctl.leaveLoops, hloop, hlo, hhi, decide_true, Bool.and_self, if_true]
        simp only [behindGroup, hs]
    rw [advance_jump hx hm]
    simp only [State.modC, hstays]

end Transfers

/-- After a group's last word with no transfer armed: past the group, back to the START of the loop that ends there, or on with the next loop (R257). -/
theorem advance_loops_cases {s : State} (hx : s.t.c.xfer = .none) (hm : s.t.x.hmode = false) :
    (s.t.c.stack = [] → s.advance true = s.modC fun c => { behindGroup c with pc := c.pc + 1 }) ∧
    ∀ l ls, s.t.c.stack = l :: ls → let r := s.t.c.loop l; let less := vset s.t.c.loops l.toNat { r with count := r.count - 1 }
      (r.last ≠ s.t.c.pc → s.advance true = s.modC fun c => { behindGroup c with pc := c.pc + 1 }) ∧
      (r.last = s.t.c.pc → r.count ≠ 1 → s.advance true = s.modC fun c => { behindGroup c with loops := less, pc := r.start }) ∧
      (r.last = s.t.c.pc → r.count = 1 → s.advance true = State.advance (s.modC fun c => { c with loops := less, stack := ls }) true) := by
  have hgo := advance_loops hx hm
  have hloop : ∀ l, (behindGroup s.t.c).loop l = s.t.c.loop l := fun _ => rfl
  refine ⟨fun hs => ?_, fun l ls hs => ⟨fun hlast => ?_, fun hlast hcount => ?_, fun hlast hcount => ?_⟩⟩
  · rw [hgo]; simp only [State.modC, hs, Ctl.loopBack, behindGroup]
  · rw [hgo]; simp only [State.modC, hs, Ctl.loopBack, hloop, hlast, if_false]; simp only [behindGroup, hs]
  · have hleft : (s.t.c.loop l).count - 1 ≠ 0 := fun h => hcount (by bv_omega)
    rw [hgo]; simp only [State.modC, hs, Ctl.loopBack, hloop, hlast, if_true, hleft, if_false]; simp only [behindGroup, hs]
  · have hover : (s.t.c.loop l).count - 1 = 0 := by rw [hcount]; rfl
    have hnext := advance_loops (s := s.modC fun c => { c with
      loops := vset c.loops l.toNat { c.loop l with count := (c.loop l).count - 1 }, stack := ls }) hx hm
    rw [hgo]
    refine Eq.trans ?_ hnext.symm
    simp only [State.modC, hs, Ctl.loopBack, hloop, hlast, if_true, hover]
    simp only [behindGroup, ← loopBack_withStack (st := ls)]

/-- A jump out of the innermost loop pops it (R258). -/
theorem advance_jump_leaves {s : State} {a : Word} {l : BitVec 2} {ls : List (BitVec 2)} (hx : s.t.c.xfer = .jump a) (hm : s.t.x.hmode = false)
    (hs : s.t.c.stack = l :: ls) (hout : a < (s.t.c.loop l).start ∨ (s.t.c.loop l).last < a) :
    s.advance true = State.advance (s.modC fun c => { c with
      loops := vset c.loops l.toNat { c.loop l with count := 0 }, stack := ls }) true := by
  have hloop : (behindGroup s.t.c).loop l = s.t.c.loop l := rfl
  have hrange : (decide ((s.t.c.loop l).start ≤ a) && decide (a ≤ (s.t.c.loop l).last)) = false := by
    rcases hout with h | h
    · simp [h]
    · simp [h]
  have hnext := advance_jump (s := s.modC fun c => { c with loops := vset c.loops l.toNat { c.loop l with count := 0 }, stack := ls }) hx hm
  rw [advance_jump hx hm]
  refine Eq.trans ?_ hnext.symm
  simp only [State.modC, hs, Ctl.leaveLoops, hloop, hrange, Bool.false_eq_true, if_false]
  simp only [behindGroup, ← leaveLoops_withStack (st := ls)]

/-- Settles O5: one equation of `advance` per transfer and, at a loop's end, per case of its count. -/
theorem controlGoesOnPastAWord : Obligations.ControlGoesOnPastAWord := by
  unfold Obligations.ControlGoesOnPastAWord
  refine ⟨fun _ _ => rfl, State.advance_false, fun s hx hm => ?_, fun _ _ hx hin => advance_jump_within hx hin,
    fun _ _ _ _ hx hm hs hout => advance_jump_leaves hx hm hs hout, fun _ _ h => advance_lands h⟩
  obtain ⟨hnil, hcons⟩ := advance_loops_cases hx hm
  split
  · next hs => exact hnil hs
  · next l ls hs =>
    obtain ⟨hpast, hback, hover⟩ := hcons l ls hs
    dsimp only
    split
    · next hlast => exact hpast hlast
    · next hlast =>
      split
      · next hcount => exact hback (not_not.mp hlast) hcount
      · next hcount => exact hover (not_not.mp hlast) (not_not.mp hcount)

end Sys2Proof.GroupEnds
end

section
/-!
PROOFS. `Obligations.GroupsAreCheckedAndAdmittedWhole`: what the check has seen of the words of a group, one word at a time, and what it concludes.
-/

namespace Sys2Proof.Groups

open Sys2Proof Sys2Proof.Machine Sys2Proof.Claims

section Words

/-- A PFX, which stands for no word of an engine (R21). -/
def isPfx : Instr → Bool
  | .pfx _ => true
  | _ => false

/-- What the check has seen once it has gone over these words. -/
def seenOf (is : List Instr) : Seen :=
  { vec := (is.filter fun j => engineOf j == 1).length, ctl := (is.filter fun j => engineOf j == 0 && !isPfx j).length,
    flow := (is.filter isFlow).length, writes := (is.filter fun j => !isPfx j).flatMap ownWrites }

/-- Word i breaks R24, R25 or R27 among the words `is` before it. -/
def conflicts (ends : Bool) (is : List Instr) (i : Instr) : Bool :=
  (engineOf i == 1 && decide (2 ≤ (seenOf is).vec)) || (engineOf i == 0 && decide (2 ≤ (seenOf is).ctl)) ||
    (isFlow i && (is.any isFlow || ends)) || (ownUses i).any fun u => (seenOf is).writes.contains u.1

theorem engineOf_pfx (p : BitVec 28) : engineOf (.pfx p) = 6 := by
  have heng : (whoOf (.pfx p)).eng = 6 := by
    have hp : p.toNat < 2 ^ 28 := p.isLt
    have henc : encode (.pfx p) = some (BitVec.ofNat 32 (6 * 2 ^ 28 + p.toNat)) := rfl
    simp only [whoOf, henc, BitVec.extractLsb'_toNat, BitVec.toNat_ofNat, Nat.shiftRight_eq_div_pow]
    omega
  rw [engineOf, heng]; rfl

theorem isPfx_iff {i : Instr} : isPfx i = true ↔ ∃ p, i = .pfx p := by
  constructor
  · intro h
    unfold isPfx at h
    split at h
    · next p => exact ⟨p, rfl⟩
    · cases h
  · rintro ⟨p, rfl⟩; rfl

/-- A PFX is nothing that the check counts. -/
theorem seenOf_append_pfx (is : List Instr) (p : BitVec 28) : seenOf (is ++ [.pfx p]) = seenOf is := by
  have heng := engineOf_pfx p
  have hpfx : isPfx (.pfx p) = true := rfl
  have hflow : isFlow (.pfx p) = false := rfl
  simp [seenOf, heng, hpfx, hflow]

theorem seenOf_append (is : List Instr) {i : Instr} (hi : isPfx i = false) : seenOf (is ++ [i]) =
    { vec := (seenOf is).vec + (if engineOf i = 1 then 1 else 0), ctl := (seenOf is).ctl + (if engineOf i = 0 then 1 else 0),
      flow := (seenOf is).flow + (if isFlow i then 1 else 0), writes := (seenOf is).writes ++ ownWrites i } := by
  have hcount : ∀ p : Instr → Bool, ((is ++ [i]).filter p).length = (is.filter p).length + if p i then 1 else 0 := fun p => by
    rw [List.filter_append, List.length_append, List.filter_singleton]
    cases p i <;> rfl
  have hwrites : ((is ++ [i]).filter fun j => !isPfx j).flatMap ownWrites = (is.filter fun j => !isPfx j).flatMap ownWrites ++ ownWrites i := by
    rw [List.filter_append, List.flatMap_append, List.filter_singleton, hi]
    exact congrArg _ (List.flatMap_singleton _ _)
  rw [seenOf, hcount, hcount, hcount, hwrites]
  simp only [hi, beq_iff_eq, Bool.not_false, Bool.and_true]
  rfl

theorem flow_pos (is : List Instr) : decide (0 < (seenOf is).flow) = is.any isFlow := by
  rw [seenOf, Bool.eq_iff_iff]
  simp [List.length_pos_iff_exists_mem]

/-- The words before word k, decoded. -/
def before (ws : List IWord) (k : Nat) : List Instr := (ws.take k).filterMap fun w => (decode w).toOption

variable {ws : List IWord} {ends : Bool} {is : List Instr} {k full : Nat} {w : IWord} {i : Instr} {rest : List IWord}

theorem before_succ (hw : ws[k]? = some w) (hd : decode w = .ok i) : before ws (k + 1) = before ws k ++ [i] := by
  have hi : (decode w).toOption = some i := by rw [hd]; rfl
  rw [before, before, List.take_add_one, hw, List.filterMap_append]
  simp [hi]

/-- The registers that the words before have written (R25). -/
theorem writes_contains (is : List Instr) (r : Reg) :
    (seenOf is).writes.contains r = is.any fun j => !isPfx j && (ownWrites j).contains r := by
  rw [Bool.eq_iff_iff]
  simp [seenOf, List.mem_flatMap, and_assoc]

theorem violationAt_error {e : Illegal} (hd : decode w = .error e) : violationAt ws ends is k w = some e.code := by
  simp only [violationAt, hd]

theorem violationAt_pfx {p : BitVec 28} (hd : decode w = .ok (.pfx p)) :
    violationAt ws ends is k w = (pfxViolation w p k ws[k + 1]?).map Illegal.code := by
  simp only [violationAt, hd]

theorem violationAt_word (hd : decode w = .ok i) (hi : isPfx i = false) :
    violationAt ws ends is k w = if conflicts ends is i || (k == 7 && !w.getLsbD 31) then some 6 else none := by
  have hother : ∀ (j : Instr) (b : Bool), (match j with | .pfx _ => false | _ => b) = (!isPfx j && b) := fun j b => by
    unfold isPfx; split <;> rfl
  simp only [violationAt, hd]
  split
  · next h => cases h
  · next p h => cases h; cases hi
  · next j _ h =>
    cases h
    refine if_congr (Iff.of_eq (congrArg (· = true) (congrArg₂ or (congrArg₂ or (congrArg₂ or (congrArg₂ or rfl ?_) rfl) ?_) rfl))) rfl rfl
    · exact congrArg (fun f => engineOf i == 0 && decide (2 ≤ (is.filter f).length))
        (funext fun j => congrArg (engineOf j == 0 && ·) ((hother j true).trans (Bool.and_true _)))
    · exact congrArg (ownUses i).any (funext fun u => (congrArg is.any (funext fun j => hother j _)).trans (writes_contains is u.1).symm)

theorem checkWords_error {e : Illegal} (hd : decode w = .error e) (sn : Seen) :
    checkWords full ends (w :: rest) k sn = some (k, e, w) := by
  simp only [checkWords, hd]

theorem checkWords_pfx {p : BitVec 28} (hd : decode w = .ok (.pfx p)) (sn : Seen) :
    checkWords full ends (w :: rest) k sn =
      ((pfxViolation w p k rest.head?).map fun e => (k, e, w)).or (checkWords full ends rest (k + 1) sn) := by
  simp only [checkWords, hd]
  cases pfxViolation w p k rest.head? <;> rfl

theorem checkWords_word (hd : decode w = .ok i) (hi : isPfx i = false) :
    checkWords full ends (w :: rest) k (seenOf is) =
      if conflicts ends is i || (k == 7 && !w.getLsbD 31) then some (k, .groupConflict, w)
      else checkWords full ends rest (k + 1) (seenOf (is ++ [i])) := by
  have hflow : (0 < (seenOf is).flow) ↔ is.any isFlow = true := by rw [← flow_pos, decide_eq_true_iff]
  have hcond : ((engineOf i = 1 ∧ 2 < (seenOf is).vec + if engineOf i = 1 then 1 else 0) ∨
      (engineOf i = 0 ∧ 2 < (seenOf is).ctl + if engineOf i = 0 then 1 else 0) ∨
      (isFlow i ∧ (1 < (seenOf is).flow + (if isFlow i then 1 else 0) ∨ ends)) ∨
      ((ownUses i).any fun p => (seenOf is).writes.contains p.1) = true ∨ (k = 7 ∧ !w.getLsbD 31)) ↔
      (conflicts ends is i || (k == 7 && !w.getLsbD 31)) = true := by
    simp only [conflicts, Bool.or_eq_true, Bool.and_eq_true, beq_iff_eq, decide_eq_true_iff, ← hflow, or_assoc]
    refine or_congr (and_congr_right fun h => ?_) (or_congr (and_congr_right fun h => ?_) (or_congr (and_congr_right fun h => ?_) Iff.rfl))
    · rw [if_pos h]; omega
    · rw [if_pos h]; omega
    · rw [if_pos h]; exact or_congr (by omega) Iff.rfl
  rw [seenOf_append is hi]
  simp only [checkWords, hd]
  split
  · next h => cases h
  · next p h => cases h; cases hi
  · next j _ h => cases h; exact if_congr hcond rfl rfl

/-- A word is no word at all, a PFX or a word of an engine. -/
theorem decode_cases (w : IWord) :
    (∃ e, decode w = .error e) ∨ (∃ p, decode w = .ok (.pfx p)) ∨ ∃ i, decode w = .ok i ∧ isPfx i = false := by
  cases hd : decode w with
  | error e => exact .inl ⟨e, rfl⟩
  | ok i =>
    cases hi : isPfx i with
    | false => exact .inr (.inr ⟨i, rfl, hi⟩)
    | true =>
      obtain ⟨p, rfl⟩ := isPfx_iff.mp hi
      exact .inr (.inl ⟨p, rfl⟩)

theorem drop_of_getElem? (hw : ws[k]? = some w) : ws.drop k = w :: ws.drop (k + 1) := by
  obtain ⟨hk, rfl⟩ := List.getElem?_eq_some_iff.mp hw
  exact List.drop_eq_getElem_cons hk

/-- The check stops at a word with a violation, which it reports. -/
theorem checkWords_stops {sub : Nat} (hw : ws[k]? = some w) (hv : violationAt ws ends (before ws k) k w = some sub) :
    ∃ e : Illegal, e.code = sub ∧ checkWords full ends (ws.drop k) k (seenOf (before ws k)) = some (k, e, w) := by
  rw [drop_of_getElem? hw]
  rcases decode_cases w with ⟨e, hd⟩ | ⟨p, hd⟩ | ⟨i, hd, hi⟩
  · rw [violationAt_error hd] at hv
    exact ⟨e, Option.some.inj hv, checkWords_error hd _⟩
  · rw [violationAt_pfx hd, Option.map_eq_some_iff] at hv
    obtain ⟨e, he, hsub⟩ := hv
    exact ⟨e, hsub, by rw [checkWords_pfx hd, List.head?_drop, he]; rfl⟩
  · rw [violationAt_word hd hi] at hv
    rw [checkWords_word hd hi]
    split at hv
    · next hbad => exact ⟨.groupConflict, Option.some.inj hv, if_pos hbad⟩
    · cases hv

/-- It goes on past a word without one. -/
theorem checkWords_passes (hw : ws[k]? = some w) (hv : violationAt ws ends (before ws k) k w = none) :
    ∃ i, decode w = .ok i ∧ checkWords full ends (ws.drop k) k (seenOf (before ws k)) =
      checkWords full ends (ws.drop (k + 1)) (k + 1) (seenOf (before ws (k + 1))) := by
  rw [drop_of_getElem? hw]
  rcases decode_cases w with ⟨e, hd⟩ | ⟨p, hd⟩ | ⟨i, hd, hi⟩
  · rw [violationAt_error hd] at hv; cases hv
  · rw [violationAt_pfx hd, Option.map_eq_none_iff] at hv
    refine ⟨_, hd, ?_⟩
    rw [checkWords_pfx hd, List.head?_drop, hv, before_succ hw hd, seenOf_append_pfx]
    rfl
  · rw [violationAt_word hd hi] at hv
    refine ⟨i, hd, ?_⟩
    rw [checkWords_word hd hi, before_succ hw hd, if_neg]
    intro hbad
    rw [if_pos hbad] at hv
    cases hv

/-- No word before word k has a violation. -/
def cleanTo (ws : List IWord) (ends : Bool) (k : Nat) : Prop :=
  ∀ j v, j < k → ws[j]? = some v → violationAt ws ends (before ws j) j v = none

theorem checkWords_cleanTo (hk : k ≤ ws.length) (h : cleanTo ws ends k) :
    checkWords full ends ws 0 (seenOf []) = checkWords full ends (ws.drop k) k (seenOf (before ws k)) := by
  induction k with
  | zero => rfl
  | succ k ih =>
    obtain ⟨w, hw⟩ : ∃ w, ws[k]? = some w := ⟨_, List.getElem?_eq_getElem hk⟩
    obtain ⟨i, -, hstep⟩ := checkWords_passes (full := full) hw (h k w k.lt_succ_self hw)
    rw [ih (Nat.le_of_succ_le hk) fun j v hj => h j v (hj.trans k.lt_succ_self), hstep]

/-- The check reports the first word with a violation (R28). -/
theorem checkWords_first {sub : Nat} (hw : ws[k]? = some w) (hv : violationAt ws ends (before ws k) k w = some sub) (h : cleanTo ws ends k) :
    ∃ e : Illegal, e.code = sub ∧ checkWords full ends ws 0 (seenOf []) = some (k, e, w) := by
  have hk : k ≤ ws.length := (List.getElem?_eq_some_iff.mp hw).1.le
  rw [checkWords_cleanTo hk h]
  exact checkWords_stops hw hv

theorem checkWords_clean (h : cleanTo ws ends ws.length) : checkWords full ends ws 0 (seenOf []) = none := by
  rw [checkWords_cleanTo le_rfl h, List.drop_length]; rfl

/-- It finds nothing exactly when no word has a violation. -/
theorem checkWords_eq_none : checkWords full ends ws 0 (seenOf []) = none ↔ cleanTo ws ends ws.length := by
  refine ⟨fun hnone => ?_, checkWords_clean⟩
  have hall : ∀ k, k ≤ ws.length → cleanTo ws ends k := fun k => by
    induction k with
    | zero => exact fun _ j v hj => absurd hj (Nat.not_lt_zero _)
    | succ k ih =>
      intro hk j v hj hv
      have hclean := ih (Nat.le_of_succ_le hk)
      rcases Nat.lt_succ_iff_lt_or_eq.mp hj with hlt | rfl
      · exact hclean j v hlt hv
      · by_contra hviol
        obtain ⟨sub, hsub⟩ := Option.ne_none_iff_exists'.mp hviol
        obtain ⟨e, -, hfirst⟩ := checkWords_first (full := full) hv hsub hclean
        rw [hnone] at hfirst
        cases hfirst
  exact hall _ le_rfl

/-- What R24, R25 and R27 ask of the words of a group together, no loop being active. -/
def orderly (is : List Instr) : Prop :=
  (seenOf is).vec ≤ 2 ∧ (seenOf is).ctl ≤ 2 ∧ (seenOf is).flow ≤ 1 ∧ is.Pairwise fun i j => ∀ r ∈ ownWrites i, ∀ u ∈ ownUses j, u.1 ≠ r

theorem orderly_append_pfx (is : List Instr) (p : BitVec 28) : orderly (is ++ [.pfx p]) ↔ orderly is := by
  have huses : ownUses (.pfx p) = [] := rfl
  simp [orderly, seenOf_append_pfx, List.pairwise_append, huses]

/-- A PFX writes no register. -/
theorem ownWrites_pfx {i : Instr} (hi : isPfx i = true) : ownWrites i = [] := by
  obtain ⟨p, rfl⟩ := isPfx_iff.mp hi
  rfl

theorem clash_eq_false (is : List Instr) (i : Instr) :
    ((ownUses i).any fun u => (seenOf is).writes.contains u.1) = false ↔ ∀ j ∈ is, ∀ r ∈ ownWrites j, ∀ u ∈ ownUses i, u.1 ≠ r := by
  simp only [writes_contains, List.any_eq_false, Bool.and_eq_true, Bool.not_eq_true', List.contains_iff_mem, not_exists, not_and, List.any_eq_true]
  constructor
  · intro h j hj r hr u hu hur
    have hj' : isPfx j = false := by
      by_contra hp
      rw [ownWrites_pfx (Bool.not_eq_false _ ▸ hp)] at hr
      cases hr
    exact h u hu j hj hj' (hur ▸ hr)
  · exact fun h u hu j hj _ hr => h j hj _ hr u hu rfl

theorem orderly_append_word (is : List Instr) (hi : isPfx i = false) : orderly (is ++ [i]) ↔ conflicts false is i = false ∧ orderly is := by
  have hroom : ∀ (P : Prop) [Decidable P] (n m : Nat), n + (if P then 1 else 0) ≤ m ↔ (¬ P ∨ ¬ m ≤ n) ∧ n ≤ m := fun P _ n m => by
    by_cases h : P
    · simp only [h, if_true, not_true, false_or]; omega
    · simp only [h, if_false, not_false_eq_true, true_or, true_and]; omega
  have hflow : is.any isFlow = false ↔ ¬ 1 ≤ (seenOf is).flow := by rw [← flow_pos, decide_eq_false_iff_not]; rfl
  simp only [orderly, seenOf_append is hi, List.pairwise_append, List.pairwise_singleton, List.mem_singleton, forall_eq, true_and, conflicts,
    Bool.or_eq_false_iff, clash_eq_false, Bool.or_false, Bool.and_eq_false_iff, hflow, beq_eq_false_iff_ne, decide_eq_false_iff_not, hroom,
    Bool.not_eq_true, ne_eq]
  constructor
  · rintro ⟨⟨hvec, hv⟩, ⟨hctl, hc⟩, ⟨hflw, hf⟩, hpair, hclash⟩
    exact ⟨⟨⟨⟨hvec, hctl⟩, hflw⟩, hclash⟩, hv, hc, hf, hpair⟩
  · rintro ⟨⟨⟨⟨hvec, hctl⟩, hflw⟩, hclash⟩, hv, hc, hf, hpair⟩
    exact ⟨⟨hvec, hv⟩, ⟨hctl, hc⟩, ⟨hflw, hf⟩, hpair, hclash⟩

/-- What R22 to R24 ask of word k by itself. -/
def soundAt (ws : List IWord) (k : Nat) (w : IWord) : Prop :=
  (∃ i, decode w = .ok i) ∧ (∀ p, decode w = .ok (.pfx p) → pfxViolation w p k ws[k + 1]? = none) ∧ (k = 7 → w.getLsbD 31 = true)

/-- No violation at word k, among orderly words before it, is its own soundness and order with them. -/
theorem violationAt_none_and_orderly (hw : ws[k]? = some w) :
    violationAt ws false (before ws k) k w = none ∧ orderly (before ws k) ↔ soundAt ws k w ∧ orderly (before ws (k + 1)) := by
  rcases decode_cases w with ⟨e, hd⟩ | ⟨p, hd⟩ | ⟨i, hd, hi⟩
  · simp [violationAt_error hd, soundAt, hd]
  · have hseven : pfxViolation w p k ws[k + 1]? = none → k ≠ 7 := by
      rintro hnone rfl
      simp [pfxViolation] at hnone
    rw [violationAt_pfx hd, before_succ hw hd, orderly_append_pfx]
    simp only [Option.map_eq_none_iff, soundAt, hd, Except.ok.injEq, exists_eq', true_and, Instr.pfx.injEq, forall_eq']
    exact and_congr_left fun _ => ⟨fun h => ⟨h, fun h7 => absurd h7 (hseven h)⟩, fun h => h.1⟩
  · have hno : ∀ p, i ≠ .pfx p := by rintro p rfl; cases hi
    rw [violationAt_word hd hi, before_succ hw hd, orderly_append_word _ hi]
    simp only [soundAt, hd, Except.ok.injEq, exists_eq', true_and, hno, false_imp_iff, implies_true, ite_eq_right_iff, reduceCtorEq,
      imp_false, Bool.or_eq_true, Bool.and_eq_true, beq_iff_eq, not_or, not_and, Bool.not_eq_true', Bool.not_eq_false, Bool.not_eq_true]
    tauto

theorem cleanTo_iff (hk : k ≤ ws.length) :
    cleanTo ws false k ↔ (∀ j w, j < k → ws[j]? = some w → soundAt ws j w) ∧ orderly (before ws k) := by
  induction k with
  | zero => simp [cleanTo, orderly, before, seenOf]
  | succ k ih =>
    obtain ⟨w, hw⟩ : ∃ w, ws[k]? = some w := ⟨_, List.getElem?_eq_getElem hk⟩
    have hsplit : ∀ P : Nat → IWord → Prop,
        (∀ j v, j < k + 1 → ws[j]? = some v → P j v) ↔ (∀ j v, j < k → ws[j]? = some v → P j v) ∧ P k w := fun P => by
      constructor
      · exact fun h => ⟨fun j v hj => h j v (hj.trans k.lt_succ_self), h k w k.lt_succ_self hw⟩
      · rintro ⟨hlt, hat⟩ j v hj hv
        rcases Nat.lt_succ_iff_lt_or_eq.mp hj with h | rfl
        · exact hlt j v h hv
        · cases hw.symm.trans hv; exact hat
    rw [cleanTo, hsplit fun j v => violationAt ws false (before ws j) j v = none, hsplit (soundAt ws)]
    have hprefix := ih (Nat.le_of_succ_le hk)
    rw [cleanTo] at hprefix
    have hstep := violationAt_none_and_orderly hw
    tauto

theorem before_of_decodes (hd : ws.map decode = is.map Except.ok) : before ws ws.length = is := by
  rw [before, List.take_length]
  induction ws generalizing is with
  | nil => cases is with
    | nil => rfl
    | cons i is => cases hd
  | cons w ws ih => cases is with
    | nil => cases hd
    | cons i is =>
      simp only [List.map_cons, List.cons.injEq] at hd
      obtain ⟨hw, hrest⟩ := hd
      have hi : (decode w).toOption = some i := by rw [hw]; rfl
      rw [List.filterMap_cons, hi, ih hrest]

theorem decodes_of_forall (h : ∀ j w, j < ws.length → ws[j]? = some w → ∃ i, decode w = .ok i) :
    ws.map decode = (before ws ws.length).map Except.ok := by
  obtain ⟨is, his⟩ : ∃ is : List Instr, ws.map decode = is.map Except.ok := by
    induction ws with
    | nil => exact ⟨[], rfl⟩
    | cons w ws ih =>
      obtain ⟨is, his⟩ := ih fun j v hj hv => h (j + 1) v (Nat.succ_lt_succ hj) hv
      obtain ⟨i, hi⟩ := h 0 w (Nat.succ_pos _) rfl
      exact ⟨i :: is, by rw [List.map_cons, List.map_cons, hi, his]⟩
  rw [before_of_decodes his, his]

/-- A lawful group in the terms of the check: sound words in order, the last with its stop bit. -/
theorem lawfulGroup_iff (hlen : ws.length ≤ 8) :
    lawfulGroup ws ↔ (∃ w, ws.getLast? = some w ∧ w.getLsbD 31 = true) ∧ cleanTo ws false ws.length := by
  have hother : ∀ j : Instr, (engineOf j == 0 && (match j with | .pfx _ => false | _ => true)) = (engineOf j == 0 && !isPfx j) := fun j => by
    unfold isPfx; split <;> rfl
  have hctl : ∀ is : List Instr, (is.filter fun i => engineOf i == 0 && (match i with | .pfx _ => false | _ => true)).length = (seenOf is).ctl :=
    fun is => congrArg (fun f => (is.filter f).length) (funext hother)
  rw [cleanTo_iff le_rfl]
  constructor
  · rintro ⟨is, hd, hlast, hvec, hcount, hflow, hpair, hpfx⟩
    have his := before_of_decodes hd
    refine ⟨hlast, fun j w hj hw => ?_, his ▸ ⟨hvec, (hctl is).symm.trans_le hcount, hflow, hpair⟩⟩
    have hget : (ws.map decode)[j]? = (is.map Except.ok)[j]? := by rw [hd]
    rw [List.getElem?_map, List.getElem?_map, hw, Option.map_some] at hget
    obtain ⟨i, hi, hwi⟩ := Option.map_eq_some_iff.mp hget.symm
    refine ⟨⟨i, hwi.symm⟩, fun p hp => ?_, fun h7 => ?_⟩
    · have hip : i = .pfx p := Except.ok.inj (hwi.trans hp)
      have hnone := hpfx j p (hi.trans (by rw [hip]))
      rwa [List.getD_eq_getElem?_getD, hw] at hnone
    · obtain ⟨v, hv, hstop⟩ := hlast
      have hvw : ws.getLast? = some w := by rw [List.getLast?_eq_getElem?, ← hw]; congr 1; omega
      cases hvw.symm.trans hv
      exact hstop
  · rintro ⟨hlast, hsound, hvec, hcount, hflow, hpair⟩
    have hd := decodes_of_forall fun j w hj hw => (hsound j w hj hw).1
    refine ⟨before ws ws.length, hd, hlast, hvec, (hctl _).trans_le hcount, hflow, hpair, fun k p hk => ?_⟩
    have hget : (ws.map decode)[k]? = some (.ok (.pfx p)) := by rw [hd, List.getElem?_map, hk]; rfl
    rw [List.getElem?_map] at hget
    obtain ⟨w, hw, hdw⟩ := Option.map_eq_some_iff.mp hget
    obtain ⟨-, hpfx, -⟩ := hsound k w (List.getElem?_eq_some_iff.mp hw).1 hw
    rw [List.getD_eq_getElem?_getD, hw]
    exact hpfx p hdw

end Words

theorem groupWords_length_le (s : State) (oid : BitVec 48) (len n a : Nat) : (s.groupWords oid len n a).length ≤ n := by
  induction n generalizing a with
  | zero => exact Nat.zero_le 0
  | succ n ih =>
    rw [State.groupWords]
    split
    · exact Nat.zero_le _
    · rw [List.length_cons]
      split
      · exact Nat.succ_le_succ (Nat.zero_le _)
      · exact Nat.succ_le_succ (ih _)

section Check

/-- The words that the check of the group at an offset goes over. -/
def wordsAt (s : State) (a : Word) : List IWord :=
  if s.codeLen s.t.c.codeO ≤ a.toNat then [] else s.groupWords s.t.c.codeO (s.codeLen s.t.c.codeO) 8 a.toNat

/-- Their last one has a stop bit. -/
def stopsAt (s : State) (a : Word) : Bool :=
  match (wordsAt s a).getLast? with
  | some w => w.getLsbD 31
  | none => false

/-- The offset of the last one. -/
def lastAt (s : State) (a : Word) : Word := a + BitVec.ofNat 64 ((wordsAt s a).length - 1)

/-- An active loop of the task's own stream ends there (R257). -/
def loopEndsAt (s : State) (a : Word) : Bool := stopsAt s a && !s.t.x.hmode && s.t.c.endsAt (lastAt s a)

/-- What the check finds in the words themselves (R28). -/
def foundAt (s : State) (a : Word) : Option (Nat × Illegal × IWord) :=
  checkWords (wordsAt s a).length (loopEndsAt s a) (wordsAt s a) 0 (seenOf [])

variable {s : State} {a : Word}

theorem stopsAt_eq (s : State) (a : Word) : stopsAt s a = (wordsAt s a).getLast?.any fun w => w.getLsbD 31 := by
  unfold stopsAt; cases (wordsAt s a).getLast? <;> rfl

theorem wordsAt_within (h : a.toNat < s.codeLen s.t.c.codeO) :
    wordsAt s a = s.groupWords s.t.c.codeO (s.codeLen s.t.c.codeO) 8 a.toNat := if_neg (Nat.not_le.mpr h)

theorem loopEndsAt_eq {last : Word} {stops : Prop} [Decidable (stops ∧ ∃ l ∈ s.t.c.stack, s.t.x.hmode = false ∧ (s.t.c.loop l).last = last)]
    (hlast : lastAt s a = last) (hstops : stopsAt s a = true ↔ stops) :
    loopEndsAt s a = decide (stops ∧ ∃ l ∈ s.t.c.stack, s.t.x.hmode = false ∧ (s.t.c.loop l).last = last) := by
  rw [Bool.eq_iff_iff, decide_eq_true_iff, ← hstops, ← hlast]
  simp only [loopEndsAt, Ctl.endsAt, Bool.and_eq_true, Bool.not_eq_true', List.any_eq_true, beq_iff_eq]
  constructor
  · rintro ⟨⟨hstop, hm⟩, l, hl, hend⟩
    exact ⟨hstop, l, hl, hm, hend⟩
  · rintro ⟨hstop, l, hl, hm, hend⟩
    exact ⟨⟨hstop, hm⟩, l, hl, hend⟩

theorem wordsAt_length_le : (wordsAt s a).length ≤ 8 := by
  rw [wordsAt]
  split
  · exact Nat.zero_le _
  · exact groupWords_length_le _ _ _ _ _

/-- The verdict on the group: on its words, on their end, and on the innermost active loop (R28, R257). -/
def verdict (s : State) (a : Word) : Option TrapInfo :=
  match foundAt s a with
  | some (k, e, w) => some (illegalTrap k e w)
  | none =>
    if !stopsAt s a then some (illegalTrap (wordsAt s a).length .groupTruncated 0)
    else if s.t.x.hmode then none
    else match s.t.c.stack with
      | [] => none
      | l :: _ => if a ≤ (s.t.c.loop l).last && (s.t.c.loop l).last < lastAt s a then some (loopTrap { eng := 0, op := 0 } 3 l.toNat) else none

theorem groupViolation_eq (s : State) (a : Word) : s.groupViolation a = verdict s a := rfl

theorem groupViolation_reports {k : Nat} {e : Illegal} {w : IWord} (h : foundAt s a = some (k, e, w)) :
    s.groupViolation a = some (illegalTrap k e w) := by
  rw [groupViolation_eq, verdict, h]

theorem groupViolation_truncated (h : foundAt s a = none) (hstop : stopsAt s a = false) :
    s.groupViolation a = some (illegalTrap (wordsAt s a).length .groupTruncated 0) := by
  simp only [groupViolation_eq, verdict, h, hstop, Bool.not_false, if_true]

theorem groupViolation_misaligned {l : BitVec 2} {ls : List (BitVec 2)} (h : foundAt s a = none) (hstop : stopsAt s a = true)
    (hm : s.t.x.hmode = false) (hs : s.t.c.stack = l :: ls) (hlo : a ≤ (s.t.c.loop l).last) (hhi : (s.t.c.loop l).last < lastAt s a) :
    s.groupViolation a = some (loopTrap { eng := 0, op := 0 } 3 l.toNat) := by
  simp [groupViolation_eq, verdict, h, hstop, hm, hs, hlo, hhi]

theorem groupViolation_none (h : foundAt s a = none) (hstop : stopsAt s a = true) (hloop : s.t.x.hmode = true ∨ s.t.c.stack = [] ∨
    ∀ l ls, s.t.c.stack = l :: ls → (s.t.c.loop l).last < a ∨ lastAt s a ≤ (s.t.c.loop l).last) : s.groupViolation a = none := by
  simp only [groupViolation_eq, verdict, h, hstop, Bool.not_true, Bool.false_eq_true, if_false]
  split
  · rfl
  · next hm =>
    split
    · rfl
    · next l ls hs =>
      rw [if_neg]
      rcases hloop with h' | h' | h'
      · exact absurd h' hm
      · rw [hs] at h'; cases h'
      · rw [Bool.and_eq_true, decide_eq_true_iff, decide_eq_true_iff]
        rintro ⟨hlo, hhi⟩
        rcases h' l ls hs with hlt | hle
        · exact absurd hlo (BitVec.not_le.mpr hlt)
        · exact absurd hhi (BitVec.not_lt.mpr hle)

/-- Without an active loop the check finds nothing exactly when the group is lawful (R28). -/
theorem groupViolation_eq_none_iff (hs : s.t.c.stack = []) : s.groupViolation a = none ↔ lawfulGroup (wordsAt s a) := by
  have hend : loopEndsAt s a = false := by rw [loopEndsAt, Ctl.endsAt, hs]; simp
  have hstops : stopsAt s a = true ↔ ∃ w, (wordsAt s a).getLast? = some w ∧ w.getLsbD 31 = true := by rw [stopsAt_eq, Option.any_eq_true]
  have hfound : foundAt s a = none ↔ cleanTo (wordsAt s a) false (wordsAt s a).length := by rw [foundAt, hend, checkWords_eq_none]
  rw [lawfulGroup_iff wordsAt_length_le, ← hstops, ← hfound]
  constructor
  · intro hnone
    cases hf : foundAt s a with
    | some x => rw [groupViolation_reports hf] at hnone; cases hnone
    | none =>
      cases hst : stopsAt s a with
      | false => rw [groupViolation_truncated hf hst] at hnone; cases hnone
      | true => exact ⟨rfl, rfl⟩
  · exact fun ⟨hst, hf⟩ => groupViolation_none hf hst (.inr (.inl hs))

/-- Past the code object's last word the group is truncated (R28). -/
theorem groupViolation_beyond (h : s.codeLen s.t.c.codeO ≤ a.toNat) : s.groupViolation a = some (illegalTrap 0 .groupTruncated 0) := by
  have hws : wordsAt s a = [] := if_pos h
  have hfound : foundAt s a = none := by rw [foundAt, hws]; rfl
  rw [groupViolation_truncated hfound (by rw [stopsAt_eq, hws]; rfl), hws]
  rfl

end Check

section Reading

variable {s : State}

/-- The first element for which f is defined, with its value. -/
theorem find?_of_findSome? {α β : Type} {f : α → Option β} {ls : List α} {l : α} {e : β}
    (h : ls.findSome? (fun x => (f x).map fun y => (x, y)) = some (l, e)) : ls.find? (fun x => (f x).isSome) = some l ∧ f l = some e := by
  induction ls with
  | nil => cases h
  | cons x ls ih =>
    rw [List.findSome?_cons] at h
    rw [List.find?_cons]
    cases hx : f x with
    | none => rw [hx] at h; exact ih h
    | some y =>
      rw [hx] at h
      cases h
      exact ⟨rfl, hx⟩

/-- The code at hand is read (R73): no line of it fails. -/
theorem readCode_reads (h : codeFault s = none) (k : State → Res) :
    s.readCode (s.groupWords s.t.c.codeO (s.codeLen s.t.c.codeO) 8 s.t.c.pc.toNat).length k = k (codeRead s) := by
  unfold State.readCode codeRead
  cases ha : s.codeAcc with
  | none => rfl
  | some a =>
    simp only [codeFault, ha, List.findSome?_eq_none_iff, Option.map_eq_none_iff] at h
    have hfind : (a.o.codeLines s.t.c.pc.toNat (s.groupWords s.t.c.codeO (s.codeLen s.t.c.codeO) 8 s.t.c.pc.toNat).length).find?
        (fun l => (s.lineFault a.oid a.o l.1 l.2).isSome) = none :=
      List.find?_eq_none.mpr fun l hl => by rw [h l hl]; exact Bool.false_ne_true
    dsimp only
    rw [hfind]

/-- The first line that fails: the group waits for its reply, and afterwards takes FETCH-ERROR there (R73; log entry 111). -/
theorem readCode_fails {a : Acc} {l : Nat × Nat} {e : Nat} (ha : s.codeAcc = some a) (h : codeFault s = some (l, e)) (k : State → Res) :
    (∀ t, s.unanswered s.t.startAsk e = some t →
      s.readCode (s.groupWords s.t.c.codeO (s.codeLen s.t.c.codeO) 8 s.t.c.pc.toNat).length k = .next (s.modT fun u => { u with startAsk := .asked t })) ∧
    (s.unanswered s.t.startAsk e = none → s.handlerWaits .fetchError = false →
      s.readCode (s.groupWords s.t.c.codeO (s.codeLen s.t.c.codeO) 8 s.t.c.pc.toNat).length k =
        .next (((s.failLine s.t.ctx a.oid a.o l.1 l.2 e).modT fun t => { t with startAsk := .plain }).takeTrap
          (s.fetchTrap { eng := 0, op := 0 } a (e, l.1)) s.t.c.pc s.boundaryKept)) := by
  rw [codeFault, ha] at h
  obtain ⟨hfind, hfault⟩ := find?_of_findSome? (f := fun l : Nat × Nat => s.lineFault a.oid a.o l.1 l.2) (l := l) (e := e) h
  refine ⟨fun t ht => ?_, fun hans hgo => ?_⟩
  · simp only [State.readCode, ha, hfind, hfault, Option.getD_some, ht]
  · have hcause : (s.fetchTrap { eng := 0, op := 0 } a (e, l.1)).cause = .fetchError := rfl
    simp only [State.readCode, ha, hfind, hfault, Option.getD_some, hans, hcause, hgo, Bool.false_eq_true, if_false]

end Reading

/-- The entries that the words of a group take in a queue (R29, R172, R297). -/
theorem queueNeed_eq (e : Nat) (hmode : Bool) (l : List Instr) :
    queueNeed e hmode l = if hmode then 0 else (l.filter fun i => engineOf i == e || (e == 1 && drains i)).length := by
  cases hmode with
  | false => rfl
  | true => exact congrArg List.length (List.filter_eq_nil_iff.mpr fun _ _ => Bool.false_ne_true)

theorem queueNeed_vec (hmode : Bool) (l : List Instr) :
    queueNeed 1 hmode l = if hmode then 0 else (l.filter fun i => engineOf i == 1 || drains i).length := queueNeed_eq 1 hmode l

theorem queueNeed_sub (e : Nat) (he : (e == 1) = false) (hmode : Bool) (l : List Instr) :
    queueNeed e hmode l = if hmode then 0 else (l.filter fun i => engineOf i == e).length := by
  simp only [queueNeed_eq, he, Bool.false_and, Bool.or_false]

/-- A register that a word names holds it back when it is scalar or condition and pending (R29). -/
theorem canAdmit_iff (s : State) : s.canAdmit = true ↔
    (∀ i ∈ s.groupInstrs, ∀ p ∈ usesOf i, s.t.c.pend.contains p.1 = true → scalarOrCondition p.1 = false) ∧
    s.t.v.q.length + (if s.t.x.hmode then 0 else (s.groupInstrs.filter fun i => engineOf i == 1 || drains i).length) ≤ 256 ∧
    s.t.mq.length + (if s.t.x.hmode then 0 else (s.groupInstrs.filter fun i => engineOf i == 3).length) ≤ 64 ∧
    s.t.f.q.length + (if s.t.x.hmode then 0 else (s.groupInstrs.filter fun i => engineOf i == 4).length) ≤ 64 := by
  have hreg : ∀ r : Reg, (match r with | .s _ => !s.t.c.pend.contains r | .c _ => !s.t.c.pend.contains r | _ => true) = true ↔
      (s.t.c.pend.contains r = true → scalarOrCondition r = false) := fun r => by
    cases r <;> simp [scalarOrCondition]
  have hall : (s.groupInstrs.all fun i => (usesOf i).all fun p => match p.1 with
      | .s _ => !s.t.c.pend.contains p.1 | .c _ => !s.t.c.pend.contains p.1 | _ => true) = true ↔
      ∀ i ∈ s.groupInstrs, ∀ p ∈ usesOf i, s.t.c.pend.contains p.1 = true → scalarOrCondition p.1 = false := by
    rw [List.all_eq_true]
    exact forall₂_congr fun i _ => List.all_eq_true.trans (forall₂_congr fun p _ => hreg p.1)
  rw [State.canAdmit, Bool.and_eq_true, Bool.and_eq_true, Bool.and_eq_true, decide_eq_true_iff, decide_eq_true_iff, decide_eq_true_iff,
    queueNeed_vec, queueNeed_sub 3 (by decide), queueNeed_sub 4 (by decide)]
  constructor
  · rintro ⟨⟨⟨hvec, hmat⟩, hfet⟩, hfree⟩
    exact ⟨hall.mp hfree, hvec, hmat, hfet⟩
  · rintro ⟨hfree, hvec, hmat, hfet⟩
    exact ⟨⟨⟨hvec, hmat⟩, hfet⟩, hall.mpr hfree⟩

/-- Control stands before the group at hand, with its words read. -/
def groupRead (s : State) : State :=
  s.modC fun c => { c with grp := c.pc, words := s.groupWords s.t.c.codeO (s.codeLen s.t.c.codeO) 8 s.t.c.pc.toNat }

/-- The words of a group, read and checked (R28). -/
def checkedWhole (s : State) : Res :=
  match (groupRead s).groupViolation (groupRead s).t.c.pc with
  | some i => .next (if (groupRead s).handlerWaits i.cause then groupRead s
      else (groupRead s).takeTrap i (groupRead s).t.c.pc { wait := none, xfer := (groupRead s).t.c.xfer, ending := false })
  | none => .next ((groupRead s).modC fun c => { c with phase := .checked })

theorem checkedWhole_passes {s : State} (h : (groupRead s).groupViolation s.t.c.pc = none) :
    checkedWhole s = .next ((groupRead s).modC fun c => { c with phase := .checked }) := by
  have h' : (groupRead s).groupViolation (groupRead s).t.c.pc = none := h
  rw [checkedWhole, h']

theorem checkedWhole_traps {s : State} {i : TrapInfo} (h : (groupRead s).groupViolation s.t.c.pc = some i) :
    checkedWhole s = .next (if (groupRead s).handlerWaits i.cause then groupRead s
      else (groupRead s).takeTrap i s.t.c.pc { wait := none, xfer := s.t.c.xfer, ending := false }) := by
  have h' : (groupRead s).groupViolation (groupRead s).t.c.pc = some i := h
  rw [checkedWhole, h']
  rfl

/-- What GROUP_CHECK goes by: no trap at the boundary and no image copy comes first (R124, R245, R272). -/
theorem execGroupCheck_eq {s : State} (hst : s.t.st = .running) (hp : s.t.c.phase = .boundary) (hentry : s.t.entryTrap = none)
    (h : s.t.x.hmode = true ∨ (s.t.x.pending = [] ∧ s.t.starts = [] ∧ s.t.image = false)) :
    exec .groupCheck s = s.readCode (s.groupWords s.t.c.codeO (s.codeLen s.t.c.codeO) 8 s.t.c.pc.toNat).length checkedWhole := by
  have hheld : s.held = false := by
    rcases h with hm | ⟨hpend, hstarts, himage⟩
    · simp [State.held, hentry, hm]
    · simp [State.held, hentry, hpend, hstarts, himage]
  have hguard : ¬ (s.t.st ≠ .running ∨ s.t.c.phase ≠ .boundary ∨ s.held = true) := by simp [hst, hp, hheld]
  exact if_neg hguard

/-- Settles O9: the check goes over the words one by one (`checkWords_first`, `checkWords_clean`), its verdict follows (`groupViolation_none`,
`groupViolation_eq_none_iff`), and admission is `canAdmit_iff`. -/
theorem groupsAreCheckedAndAdmittedWhole : Obligations.GroupsAreCheckedAndAdmittedWhole := by
  unfold Obligations.GroupsAreCheckedAndAdmittedWhole
  refine ⟨fun p s hm => ?_, fun s hst hp hentry hquiet => ?_, fun s a ha => ?_, fun s hst hp => ?_, fun s a hs => groupViolation_eq_none_iff hs,
    fun s a ha => groupViolation_beyond ha, canAdmit_iff⟩
  · have hexec : exec (.pfx p) s = execPfx p s := rfl
    rw [hexec, execPfx, hm]
    rfl
  · have hcheck := execGroupCheck_eq hst hp hentry hquiet
    refine ⟨fun a l e t ha hf hu => ?_, fun a l e ha hf hu hgo => ?_, fun hf => ?_⟩
    · rw [hcheck, (readCode_fails ha hf _).1 t hu]; rfl
    · rw [hcheck, (readCode_fails ha hf _).2 hu hgo]
    · rw [hcheck, readCode_reads hf]
      dsimp only
      split
      · next h => exact checkedWhole_passes h
      · next i h => exact checkedWhole_traps h
  · intro ws last stops ends is
    have hws : wordsAt s a = ws := wordsAt_within ha
    have hlast : lastAt s a = last := by rw [lastAt, hws]
    have hstops : stopsAt s a = true ↔ stops := by rw [stopsAt_eq, hws]
    have hends : loopEndsAt s a = ends := loopEndsAt_eq hlast hstops
    have hfound : foundAt s a = checkWords ws.length ends ws 0 (seenOf []) := by rw [foundAt, hws, hends]
    have hnone : (∀ k w, ws[k]? = some w → violationAt ws ends (is k) k w = none) → foundAt s a = none := fun hclean =>
      hfound.trans (checkWords_clean fun j v _ hv => hclean j v hv)
    refine ⟨fun k w sub hw hv hfirst => ?_, fun hclean hstop => ⟨fun hm l ls hs hlo hhi => ?_, fun hloop => ?_⟩, fun hstop hclean => ?_⟩
    · obtain ⟨e, hsub, he⟩ := checkWords_first (full := ws.length) hw hv hfirst
      rw [groupViolation_reports (hfound.trans he), illegalTrap, hsub]
    · exact groupViolation_misaligned (hnone hclean) (hstops.mpr hstop) hm hs hlo (hlast ▸ hhi)
    · exact groupViolation_none (hnone hclean) (hstops.mpr hstop) (hlast ▸ hloop)
    · rw [groupViolation_truncated (hnone hclean) (Bool.eq_false_iff.mpr fun h => hstop (hstops.mp h)), hws]
      rfl
  · have hguard : ¬ (s.t.st ≠ .running ∨ s.t.c.phase ≠ .checked) := by simp [hst, hp]
    exact (if_neg hguard).trans (apply_ite Host.Outcome.next _ _ _).symm

end Sys2Proof.Groups
end

section
/-!
PROOFS. The refutation of `Obligations.DeletionRevocationAndLogs` by its clause on the event counters, which has no premise that the tasks have
distinct IDs.
-/

namespace Sys2Proof.Deletion

open Sys2Proof Sys2Proof.Machine Sys2Proof.Claims

/-- A running context below p without counters. -/
def plainCtx (p : Nat) : Ctx := { cr := 0, parent := p, depth := 0, st := .running, ring := 0, log := none, counters := [] }

/-- A write of one byte to object 1 that goes on in the background (R240). -/
def openStore : PStore := ⟨0, 0, 1, 1, [(0, 0, 1)], [1], 0⟩

/-- A task of context 1 with that write open. -/
def storing : Task := { Task.idle with st := .ready, id := 0x20000, ctx := 1, c := { Ctl.reset with stores := [openStore] } }

/-- An idle task of context 2 under the same ID. -/
def namesake : Task := { Task.idle with st := .ready, id := 0x20000, ctx := 2 }

/-- A task of context 1 at a `CTXDEL` that waits on context 2, its child. -/
def deleting : Task :=
  { Task.idle with
    st := .running, id := 0x10000, ctx := 1, core := some 0
    c := { Ctl.reset with phase := .running, wait := some { progress := .begun 2, clk := 0, wake := .other } } }

/-- The machine of these three, with object 1 in a frame of tier 0. -/
def twins : State :=
  { State.reset with
    t := deleting, others := [storing, namesake], objs := [(1, { Scope.frozenCode with moving := false, res := 0 })], keys := [(0, 0)]
    pages := [(pageKey 1 0 0, 0)], ctxs := [(1, plainCtx 0xFFF), (2, plainCtx 1)] }

theorem subtree_twins : twins.subtree 2 = [2] := by decide +kernel

/-- Nothing holds the deletion back (R321). -/
theorem goes_twins : (twins.subtreeRuns 2 || twins.subtreeTells 2 || twins.subtreeMoves 2) = false := by decide +kernel

theorem idleFetch_namesake : idleFetch namesake := ⟨by decide, rfl, rfl, by decide⟩

theorem idleFetch_twins : ∀ u ∈ twins.tasks, u.ctx ∈ twins.subtree 2 → idleFetch u := by
  have htasks : twins.tasks = [deleting, storing, namesake] := rfl
  rw [htasks, subtree_twins]
  intro u hu hctx
  rw [List.mem_cons, List.mem_cons, List.mem_singleton] at hu
  rcases hu with rfl | rfl | rfl
  · exact absurd hctx (by decide)
  · exact absurd hctx (by decide)
  · exact idleFetch_namesake

theorem settledL2_twins : settledL2 twins := nofun

/-- The deletion of context 2 ends the task of context 1, whose write is performed and counted in context 1 (R98). -/
theorem counters_twins : ((twins.deleteTree 1 [2]).ctx 1).map (fun y => alGet y.counters 0x103) = some (some 1) := by decide +kernel

/-- Refutes O30 by its clause on the event counters: in `twins`, where a task of the caller's context has the ID of a task of the deleted one, the
deletion adds to the caller's counter 0x103 what no deleted context has counted. -/
theorem not_deletionRevocationAndLogs : ¬ Obligations.DeletionRevocationAndLogs := by
  unfold Obligations.DeletionRevocationAndLogs
  rintro ⟨hdelete, -⟩
  have hdeleted := hdelete true 0 1 twins 2 rfl
  dsimp only at hdeleted
  rw [show (2 : Word).toNat = 2 from rfl, goes_twins, if_neg Bool.false_ne_true] at hdeleted
  obtain ⟨-, -, -, -, -, hclean⟩ := hdeleted
  obtain ⟨-, -, hcounters⟩ := hclean idleFetch_twins settledL2_twins
  rw [subtree_twins] at hcounters
  obtain ⟨y, hy, hcount⟩ := hcounters (plainCtx 0xFFF) 0x103 rfl (by decide) (by decide) (by decide)
  have hone := counters_twins
  have hctx : (twins.deleteTree 1 [2]).ctx 1 = some y := hy
  rw [hctx, Option.map_some, Option.some.injEq] at hone
  rw [hone] at hcount
  exact absurd hcount (by decide)

end Sys2Proof.Deletion
end

section
/-!
PROOFS. `Obligations.ContextsRunAndStop`: the context words that change a state, and the end of an idle task that is not placed.
-/

namespace Sys2Proof.Running

open Sys2Proof Sys2Proof.Machine Sys2Proof.Claims Sys2Proof.Laws

section Idle

variable {s : State}

/-- A fold whose steps change nothing changes nothing. -/
theorem foldl_fixed {α β : Type} {f : β → α → β} {b : β} {l : List α} (h : ∀ x ∈ l, f b x = b) : l.foldl f b = b := by
  induction l with
  | nil => rfl
  | cons x l ih => rw [List.foldl_cons, h x List.mem_cons_self, ih fun y hy => h y (List.mem_cons_of_mem _ hy)]

/-- A wait whose access is over or none completes nothing. -/
theorem finishWait_over {x : Wait} (h : x.accesses = none) : s.finishWait x = (s, some x) := by
  unfold State.finishWait
  unfold Wait.accesses at h
  split
  · next hw ho => simp [hw, ho] at h
  · rfl

/-- What an idle task has: no access of its words, no write in the background, no resolved element, no command. -/
theorem idleFetch_parts {u : Task} (h : idleFetch u) : (∀ x, u.c.wait = some x → x.accesses = none) ∧
    (∀ x, u.x.kept.wait = some x → x.accesses = none) ∧ u.c.stores = [] ∧ (∀ p ∈ u.f.ports.toList, p.res = false) ∧ u.f.open_ = [] := by
  obtain ⟨hacc, hact, hrun, -⟩ := h
  simp only [Task.accesses, List.append_eq_nil_iff, Option.toList_eq_nil_iff, List.map_eq_nil_iff, List.filter_eq_nil_iff] at hacc
  obtain ⟨⟨⟨hwait, hkept⟩, hstores⟩, hports⟩ := hacc
  refine ⟨fun x hx => ?_, fun x hx => ?_, hstores, fun p hp => by simpa using hports p hp, by rw [Fet.open_, hact, hrun]; rfl⟩
  · rw [hx] at hwait; exact hwait
  · rw [hx] at hkept; exact hkept

theorem mem_of_port {q : Nat} (hq : q < 4) : s.port q ∈ s.t.f.ports.toList := by
  rw [State.port, vget, Vector.getElem?_eq_getElem hq]
  simp

theorem finishAccesses_idle (h : idleFetch s.t) : s.finishAccesses = s := by
  obtain ⟨hwait, hkept, hstores, -⟩ := idleFetch_parts h
  have hword : ∀ x, s.t.c.wait = some x → (s.finishWait x).1.modC (fun c => { c with wait := (s.finishWait x).2 }) = s := fun x hx => by
    rw [finishWait_over (hwait x hx), ← hx]; rfl
  have hinterrupted : ∀ x, s.t.x.kept.wait = some x →
      (s.finishWait x).1.modX (fun y => { y with kept := { y.kept with wait := (s.finishWait x).2 } }) = s := fun x hx => by
    rw [finishWait_over (hkept x hx), ← hx]; rfl
  have hlast : (match s.t.x.kept.wait with
      | some x => (s.finishWait x).1.modX fun y => { y with kept := { y.kept with wait := (s.finishWait x).2 } }
      | none => s) = s := by
    split
    · next x hx => exact hinterrupted x hx
    · rfl
  unfold State.finishAccesses
  rw [hstores]
  dsimp only [List.length_nil, State.runStores]
  cases hw : s.t.c.wait with
  | none => exact hlast
  | some x => dsimp only; rw [hword x hw]; exact hlast

theorem drainReqs_idle (h : idleFetch s.t) : s.drainReqs = s := by
  obtain ⟨-, -, -, hports, hopen⟩ := idleFetch_parts h
  have hport : ∀ q ∈ List.range 4, s.finishPort q = s := fun q hq => by
    have hres := hports _ (mem_of_port (List.mem_range.mp hq))
    simp [State.finishPort, hres]
  unfold State.drainReqs
  rw [finishAccesses_idle h]
  simp only [hopen, List.filter_nil, List.foldl_nil]
  exact foldl_fixed hport

/-- No port holds an element or a line. -/
def portsIdle (P : Vector Port 4) : Prop := ∀ p ∈ P.toList, p.fifo = [] ∧ p.buf = []

theorem portsIdle_vset {P : Vector Port 4} {p : Port} (h : portsIdle P) (hp : p.fifo = [] ∧ p.buf = []) (q : Nat) : portsIdle (vset P q p) := by
  intro x hx
  rw [Vector.mem_toList_iff, vset] at hx
  obtain ⟨i, hi, rfl⟩ := Vector.getElem_of_mem hx
  rw [Vector.getElem_setIfInBounds]
  split
  · exact hp
  · exact h _ (by simp)

/-- s with other ports in the task under execution. -/
def withPorts (s : State) (P : Vector Port 4) : State := s.modF fun f => { f with ports := P }

theorem setPort_idle {q : Nat} {p : Port} (h : portsIdle s.t.f.ports) (hp : p.fifo = [] ∧ p.buf = []) :
    ∃ P, portsIdle P ∧ s.setPort q p = withPorts s P := ⟨_, portsIdle_vset h hp q, rfl⟩

/-- Flushing an idle port leaves the ports idle, and everything else as it was. -/
theorem flushPort_idle {q : Nat} (hq : q < 4) (h : portsIdle s.t.f.ports) : ∃ P, portsIdle P ∧ s.flushPort q = withPorts s P := by
  have hp := h _ (mem_of_port hq)
  unfold State.flushPort
  dsimp only
  split
  · exact setPort_idle h ⟨hp.1, rfl⟩
  · simp only [hp.2, State.sendLines, State.portSent]
    exact setPort_idle h ⟨hp.1, rfl⟩

theorem drainPorts_idle (h : portsIdle s.t.f.ports) : ∃ P, s.drainPorts = withPorts s P := by
  have hall : ∀ l : List Nat, (∀ q ∈ l, q < 4) → ∀ P, portsIdle P → ∃ P', (l.foldl (fun s q =>
      if (s.port q).out && !(s.port q).dead then State.drainPort q (513 * (s.port q).fifo.length) s else s) (withPorts s P)) = withPorts s P' := by
    intro l
    induction l with
    | nil => exact fun _ P _ => ⟨P, rfl⟩
    | cons q l ih =>
      intro hl P hP
      have hq := hl q List.mem_cons_self
      obtain ⟨P', hP', hflush⟩ := flushPort_idle (s := withPorts s P) hq hP
      have hfifo : ((withPorts s P).port q).fifo = [] := (hP _ (mem_of_port (s := withPorts s P) hq)).1
      rw [List.foldl_cons, hfifo]
      split
      · rw [List.length_nil, Nat.mul_zero, State.drainPort, hflush]
        exact ih (fun x hx => hl x (List.mem_cons_of_mem _ hx)) P' hP'
      · exact ih (fun x hx => hl x (List.mem_cons_of_mem _ hx)) P hP
  exact hall (List.range 4) (fun q hq => List.mem_range.mp hq) s.t.f.ports h

/-- The requests, elements and writes of an idle task come to nothing: at most its ports are written anew. -/
theorem drained_idle (h : idleFetch s.t) : ∃ P, s.drainReqs.drainPorts.loseStores = withPorts s P := by
  obtain ⟨P, hP⟩ := drainPorts_idle h.2.2.2
  obtain ⟨-, -, hstores, -⟩ := idleFetch_parts h
  refine ⟨P, ?_⟩
  have hstores' : (withPorts s P).t.c.stores = [] := hstores
  rw [drainReqs_idle h, hP, State.loseStores, hstores', List.foldl_nil, ← hstores]
  rfl

end Idle

section Tasks

/-- A change of tasks that leaves each its ID, its control engine and whether it is there at all. -/
def keepsWork (g : Task → Task) : Prop := ∀ t, (g t).id = t.id ∧ (g t).c = t.c ∧ ((g t).st = .none ↔ t.st = .none)

theorem keepsWork_id : keepsWork id := fun _ => ⟨rfl, rfl, Iff.rfl⟩

theorem keepsWork_comp {g h : Task → Task} (hg : keepsWork g) (hh : keepsWork h) : keepsWork (h ∘ g) := fun t =>
  ⟨(hh (g t)).1.trans (hg t).1, (hh (g t)).2.1.trans (hg t).2.1, (hh (g t)).2.2.trans (hg t).2.2⟩

/-- s' has the tasks of s, each as `keepsWork` allows, and the slots of s. -/
def sameWork (s s' : State) : Prop :=
  s'.slots = s.slots ∧ ∃ g, keepsWork g ∧ s'.t = g s.t ∧ s'.others = s.others.map g

theorem sameWork_of_eq {s s' : State} (hs : s'.slots = s.slots) (ht : s'.t = s.t) (ho : s'.others = s.others) : sameWork s s' :=
  ⟨hs, id, keepsWork_id, ht, by rw [ho, List.map_id]⟩

theorem sameWork_trans {a b c : State} (h : sameWork a b) (h' : sameWork b c) : sameWork a c := by
  obtain ⟨hs, g, hg, ht, ho⟩ := h
  obtain ⟨hs', g', hg', ht', ho'⟩ := h'
  exact ⟨hs'.trans hs, g' ∘ g, keepsWork_comp hg hg', by rw [ht', ht]; rfl, by rw [ho', ho, List.map_map]⟩

theorem sameWork_foldl {α : Type} {f : State → α → State} (h : ∀ s x, sameWork s (f s x)) (l : List α) (s : State) : sameWork s (l.foldl f s) := by
  induction l generalizing s with
  | nil => exact sameWork_of_eq rfl rfl rfl
  | cons x l ih => exact sameWork_trans (h s x) (ih _)

theorem mapTasks_sameWork (s : State) {g : Task → Task} (hg : keepsWork g) : sameWork s (s.mapTasks g) := ⟨rfl, g, hg, rfl, rfl⟩

theorem modTask_sameWork (s : State) (i : BitVec 64) {f : Task → Task} (hf : keepsWork f) : sameWork s (s.modTask i f) :=
  mapTasks_sameWork s fun t => by
    split
    · exact hf t
    · exact keepsWork_id t

/-- Settling keeps what a task has done (R270, R278). -/
theorem settle_sameWork (s : State) : sameWork s s.settle := by
  refine mapTasks_sameWork s (g := s.settleTask) fun t => ⟨settleTask_id s t, ?_, ?_⟩
  · unfold State.settleTask
    repeat' split
    all_goals rfl
  · unfold State.settleTask
    repeat' split
    all_goals simp_all

theorem leaveGroup_sameWork (s : State) (t : Task) (g : Nat) : sameWork s (s.leaveGroup t g) := by
  have hleft := modTask_sameWork s t.id (f := fun t => { t with grp := vset t.grp g none }) fun _ => ⟨rfl, rfl, Iff.rfl⟩
  unfold State.leaveGroup
  split
  · exact sameWork_of_eq rfl rfl rfl
  · dsimp only
    split
    · exact hleft
    · split
      · exact sameWork_trans hleft (sameWork_of_eq rfl rfl rfl)
      · exact sameWork_trans hleft (sameWork_of_eq rfl rfl rfl)

theorem unpendLine_sameWork (s : State) (oid : BitVec 48) (sh off : Nat) : sameWork s (s.unpendLine oid sh off) := by
  unfold State.unpendLine State.unpend
  split
  · split
    · exact sameWork_of_eq rfl rfl rfl
    · exact sameWork_of_eq rfl rfl rfl
  · exact sameWork_of_eq rfl rfl rfl

theorem unpendRuns_sameWork (s : State) (oid : BitVec 48) (rs : List (Nat × Nat × Nat)) : sameWork s (s.unpendRuns oid rs) := by
  rw [State.unpendRuns]
  have hline : ∀ (s : State) (l : Nat × Nat), sameWork s (s.unpendLine oid l.1 l.2) := fun s l => unpendLine_sameWork s oid l.1 l.2
  exact sameWork_foldl hline (runLines rs) s

theorem giveUp_sameWork (s : State) (w : Option Wait) : sameWork s (s.giveUp w) := by
  unfold State.giveUp
  split
  · split
    · exact unpendRuns_sameWork s _ _
    · exact sameWork_of_eq rfl rfl rfl
  · exact sameWork_of_eq rfl rfl rfl

theorem giveUpTask_sameWork (s : State) (t : Task) : sameWork s (s.giveUpTask t) :=
  sameWork_trans (sameWork_trans (sameWork_trans (giveUp_sameWork s _) (giveUp_sameWork _ _))
    (sameWork_foldl (fun s _ => unpendRuns_sameWork s _ _) _ _)) (sameWork_foldl (fun s _ => unpendRuns_sameWork s _ _) _ _)

theorem passTiles_sameWork (s : State) (t : Task) : sameWork s (s.passTiles t) :=
  sameWork_foldl (fun s q => by
    split
    · exact modTask_sameWork s _ fun _ => ⟨rfl, rfl, Iff.rfl⟩
    · exact sameWork_of_eq rfl rfl rfl) _ s

/-- The machine once a task has left its groups, given up its accesses and released its slots and tiles, and is still there (R276). -/
def leftBehind (s : State) (t : Task) : State :=
  ((((List.range 4).foldl (fun s g => s.leaveGroup t g) s).giveUpTask t).releaseSlots t).passTiles t

theorem leftBehind_keeps (s : State) (t : Task) : (leftBehind s t).slots = (s.releaseSlots t).slots ∧
    ∃ g, keepsWork g ∧ (leftBehind s t).t = g s.t ∧ (leftBehind s t).others = s.others.map g := by
  obtain ⟨hslots, g, hg, ht, ho⟩ : sameWork s (((List.range 4).foldl (fun s g => s.leaveGroup t g) s).giveUpTask t) :=
    sameWork_trans (sameWork_foldl (fun s g => leaveGroup_sameWork s t g) _ s) (giveUpTask_sameWork _ t)
  obtain ⟨hslots', g', hg', ht', ho'⟩ := passTiles_sameWork
    ((((List.range 4).foldl (fun s g => s.leaveGroup t g) s).giveUpTask t).releaseSlots t) t
  refine ⟨hslots'.trans (by rw [State.releaseSlots, State.releaseSlots, hslots]), g' ∘ g, keepsWork_comp hg hg', ?_, ?_⟩
  · exact ht'.trans (congrArg g' ht)
  · exact ho'.trans ((congrArg (List.map g') ho).trans List.map_map)

/-- The machine without a task. -/
def withoutTask (s : State) (i : BitVec 64) : State :=
  if s.t.st ≠ .none ∧ s.t.id = i then { s with t := Task.idle } else { s with others := s.others.filter fun u => u.id != i }

/-- The tiles of the core that a task has left, if it was on one (R205). -/
def tilesLeft (s : State) (core : Option Nat) : State :=
  match core with
  | some k => s.releaseTiles k
  | none => s

theorem tilesLeft_sameWork (s : State) (core : Option Nat) : sameWork s (tilesLeft s core) := by
  cases core with
  | none => exact sameWork_of_eq rfl rfl rfl
  | some k => exact sameWork_of_eq rfl rfl rfl

theorem finishTask_eq {s : State} {t : Task} {i : BitVec 64} (h : s.taskById i = some t) :
    s.finishTask i = (tilesLeft (withoutTask (leftBehind s t) i) t.core).settle := by
  unfold State.finishTask
  rw [h]
  rfl

/-- A task that is not the one under execution is DONE: its slots are released, and the tasks are the others (R137, R276). -/
theorem finishTask_of_taskById {s : State} {t : Task} {i : BitVec 64} (h : s.taskById i = some t) (hi : ¬ (s.t.st ≠ .none ∧ s.t.id = i)) :
    (s.finishTask i).slots = (s.releaseSlots t).slots ∧
      ∃ g, keepsWork g ∧ (s.finishTask i).t = g s.t ∧ (s.finishTask i).others = (s.others.filter fun u => u.id != i).map g := by
  obtain ⟨hslots, g, hg, ht, ho⟩ := leftBehind_keeps s t
  have hi' : ¬ ((leftBehind s t).t.st ≠ .none ∧ (leftBehind s t).t.id = i) := by
    rw [ht, (hg s.t).1, ne_eq, (hg s.t).2.2]; exact hi
  have hend : sameWork { leftBehind s t with others := (leftBehind s t).others.filter fun u => u.id != i } (s.finishTask i) := by
    rw [finishTask_eq h, withoutTask, if_neg hi']
    exact sameWork_trans (tilesLeft_sameWork _ t.core) (settle_sameWork _)
  obtain ⟨hslots', g', hg', ht', ho'⟩ := hend
  refine ⟨hslots'.trans hslots, g' ∘ g, keepsWork_comp hg hg', ht'.trans (congrArg g' ht), ho'.trans ?_⟩
  have hid : ((fun u : Task => u.id != i) ∘ g) = fun u => u.id != i := funext fun u => by rw [Function.comp_apply, (hg u).1]
  rw [ho, List.filter_map, hid, List.map_map]

end Tasks

section Kill

variable {s : State} {u : Task}

theorem mem_tasks_of_others (hu : u ∈ s.others) : u ∈ s.tasks := by
  rw [State.tasks]
  split
  · exact hu
  · exact List.mem_cons_of_mem _ hu

/-- With distinct IDs a task beside the one under execution is not that one. -/
theorem not_underExecution (hu : u ∈ s.others) (hn : (s.tasks.map (·.id)).Nodup) : ¬ (s.t.st ≠ .none ∧ s.t.id = u.id) := by
  rintro ⟨hst, hid⟩
  rw [State.tasks, if_neg hst, List.map_cons, List.nodup_cons] at hn
  exact hn.1 (hid ▸ List.mem_map_of_mem hu)

theorem others_nodup (hn : (s.tasks.map (·.id)).Nodup) : (s.others.map (·.id)).Nodup := by
  rw [State.tasks] at hn
  split at hn
  · exact hn
  · exact (List.nodup_cons.mp hn).2

theorem find_others (hu : u ∈ s.others) (hn : (s.tasks.map (·.id)).Nodup) : s.others.find? (fun t => t.id == u.id) = some u := by
  cases hf : s.others.find? (fun t => t.id == u.id) with
  | none => exact absurd (beq_self_eq_true u.id) (List.find?_eq_none.mp hf u hu)
  | some v =>
    have hid : v.id = u.id := by simpa using List.find?_some hf
    rw [List.inj_on_of_nodup_map (others_nodup hn) (List.mem_of_find?_eq_some hf) hu hid]

/-- u with other ports. -/
def portsOf (u : Task) (P : Vector Port 4) : Task := { u with f := { u.f with ports := P } }

/-- The tasks beside u. -/
def besides (s : State) (u : Task) : List Task := s.others.filter fun t => t.id != u.id

/-- The machine with u under execution. -/
def under (s : State) (u : Task) : State := { s with t := u, others := if s.t.st = .none then besides s u else s.t :: besides s u }

/-- An operation on an idle task that writes at most its ports leaves it beside the others, and the task under execution where it is. -/
theorem asTask_ports {P : Vector Port 4} {f : State → State} (hu : u ∈ s.others) (hn : (s.tasks.map (·.id)).Nodup)
    (hf : f (under s u) = withPorts (under s u) P) :
    ∃ me, (s.t.st = .none → me.st = .none) ∧ (s.t.st ≠ .none → me = s.t) ∧
      s.asTask u.id f = { s with t := me, others := portsOf u P :: besides s u } := by
  have hdef : s.asTask u.id f = match (if s.t.st = .none then none else (f (under s u)).others.find? fun t => t.id == s.t.id) with
      | none => { f (under s u) with t := Task.idle, others := (f (under s u)).t :: (f (under s u)).others }
      | some me => { f (under s u) with t := me, others := (f (under s u)).t :: (f (under s u)).others.filter fun t => t.id != s.t.id } := by
    unfold State.asTask
    rw [if_neg (not_underExecution hu hn), find_others hu hn]
    rfl
  rw [hdef, hf]
  by_cases hst : s.t.st = .none
  · have hothers : (withPorts (under s u) P).others = besides s u := if_pos hst
    exact ⟨Task.idle, fun _ => rfl, fun h => absurd hst h, by rw [if_pos hst, hothers]; rfl⟩
  · have hothers : (withPorts (under s u) P).others = s.t :: besides s u := if_neg hst
    have hother : ∀ v ∈ besides s u, (v.id != s.t.id) = true := fun v hv =>
      bne_iff_ne.mpr fun h => not_underExecution (List.mem_of_mem_filter hv) hn ⟨hst, h.symm⟩
    have hrest : (s.t :: besides s u).filter (fun t => t.id != s.t.id) = besides s u := by
      rw [List.filter_cons, bne_self_eq_false, if_neg Bool.false_ne_true]
      exact List.filter_eq_self.mpr hother
    refine ⟨s.t, fun h => absurd h hst, fun _ => rfl, ?_⟩
    have hfind : (s.t :: besides s u).find? (fun t => t.id == s.t.id) = some s.t := List.find?_cons_of_pos (beq_self_eq_true _)
    rw [if_neg hst, hothers, hfind]
    dsimp only
    rw [hrest]
    rfl

/-- The slots, those of a task that is not placed being FREE (R137). -/
def slotsFreed (s : State) (u : Task) : List (Nat × Slot) := s.slots.map fun p => if p.2.ownedBy u then (p.1, Slot.reset) else p

/-- No slot that names the task as its owner is in use then. -/
theorem slotsFreed_free {p : Nat × Slot} (hp : p ∈ slotsFreed s u) (ho : p.2.owner = u.id) : p.2.st = .free := by
  obtain ⟨q, -, rfl⟩ := List.mem_map.mp hp
  by_cases h : q.2.ownedBy u = true
  · rw [if_pos h]; rfl
  · rw [if_neg h] at ho ⊢
    rw [Slot.ownedBy, ho, beq_self_eq_true, Bool.and_true, bne_iff_ne, ne_eq, not_not] at h
    exact h

/-- The end of an idle task that is not placed (R276, R319): it is DONE in a machine where its slots are FREE already. -/
theorem killTask_idle (hu : u ∈ s.others) (hn : (s.tasks.map (·.id)).Nodup) (hidle : idleFetch u) :
    ∃ P me, (s.t.st = .none → me.st = .none) ∧ (s.t.st ≠ .none → me = s.t) ∧
      s.killTask u.id = State.finishTask { s with t := me, others := portsOf u P :: besides s u, slots := slotsFreed s u } u.id ∧
      State.taskById { s with t := me, others := portsOf u P :: besides s u, slots := slotsFreed s u } u.id = some (portsOf u P) := by
  obtain ⟨P, hP⟩ := drained_idle (s := under s u) hidle
  obtain ⟨me, hnone, hsome, hdrained⟩ := asTask_ports (f := fun s => s.drainReqs.drainPorts.loseStores) hu hn hP
  have hme : ¬ (me.st ≠ .none ∧ me.id = u.id) := fun ⟨hst, hid⟩ =>
    have hst' : s.t.st ≠ .none := fun h => hst (hnone h)
    not_underExecution hu hn ⟨hst', hsome hst' ▸ hid⟩
  have hfound : ∀ x, State.taskById { s with t := me, others := portsOf u P :: besides s u, slots := x } u.id = some (portsOf u P) := fun x => by
    have hself : ((portsOf u P).id == u.id) = true := beq_self_eq_true _
    rw [State.taskById, State.tasks]
    split
    · exact List.find?_cons_of_pos hself
    · next hst =>
      rw [List.find?_cons_of_neg (by simpa using fun hid => hme ⟨hst, hid⟩)]
      exact List.find?_cons_of_pos hself
  refine ⟨P, me, hnone, hsome, ?_, hfound _⟩
  unfold State.killTask
  rw [hdrained]
  dsimp only
  rw [hfound s.slots]
  rfl

/-- The tasks and slots after the end of an idle task that is not placed. -/
theorem killTask_keeps (hu : u ∈ s.others) (hn : (s.tasks.map (·.id)).Nodup) (hidle : idleFetch u) :
    (∀ t ∈ (s.killTask u.id).tasks, t.id ≠ u.id) ∧
    (∀ t ∈ s.tasks, t.id ≠ u.id → ∃ t' ∈ (s.killTask u.id).tasks, t'.id = t.id ∧ t'.c.s = t.c.s) ∧
    ∀ p ∈ (s.killTask u.id).slots, p.2.owner = u.id → p.2.st = .free := by
  obtain ⟨P, me, hnone, hsome, hkill, hfound⟩ := killTask_idle hu hn hidle
  have hme : ¬ (me.st ≠ .none ∧ me.id = u.id) := by
    rintro ⟨hst, hid⟩
    have hst' : s.t.st ≠ .none := fun h => hst (hnone h)
    exact not_underExecution hu hn ⟨hst', hsome hst' ▸ hid⟩
  obtain ⟨hslots, g, hg, ht, ho⟩ := finishTask_of_taskById hfound hme
  rw [← hkill] at hslots ht ho
  have hothers : ∀ v, v ∈ (s.killTask u.id).others ↔ ∃ w ∈ s.others, w.id ≠ u.id ∧ g w = v := fun v => by
    rw [ho]
    simp [besides, portsOf, and_assoc]
  refine ⟨fun t h => ?_, fun t h hid => ?_, fun p hp howner => ?_⟩
  · rw [State.tasks] at h
    split at h
    · obtain ⟨w, -, hw, rfl⟩ := (hothers t).mp h
      rwa [(hg w).1]
    · next hst =>
      rcases List.mem_cons.mp h with rfl | h
      · rw [ht] at hst ⊢
        rw [(hg me).1]
        exact fun hid => hme ⟨fun h => hst ((hg me).2.2.mpr h), hid⟩
      · obtain ⟨w, -, hw, rfl⟩ := (hothers t).mp h
        rwa [(hg w).1]
  · refine ⟨g t, ?_, (hg t).1, by rw [(hg t).2.1]⟩
    by_cases hold : t ∈ s.others
    · exact mem_tasks_of_others ((hothers _).mpr ⟨t, hold, hid, rfl⟩)
    · rw [State.tasks] at h
      split at h
      · exact absurd h hold
      · next hst =>
        have htt : t = s.t := (List.mem_cons.mp h).resolve_right hold
        have hkept : (s.killTask u.id).t = g t := by rw [ht, htt]; exact congrArg g (hsome hst)
        rw [State.tasks, if_neg (by rw [hkept, (hg t).2.2, htt]; exact hst), hkept]
        exact List.mem_cons_self
  · rw [hslots] at hp
    obtain ⟨q, hq, rfl⟩ := List.mem_map.mp hp
    have hfree : q.2.owner = u.id → q.2.st = .free := slotsFreed_free hq
    by_cases hown : q.2.ownedBy (portsOf u P) = true
    · rw [Slot.ownedBy, Bool.and_eq_true, bne_iff_ne, beq_iff_eq] at hown
      exact absurd (hfree hown.2) hown.1
    · rw [if_neg hown] at howner ⊢
      exact hfree howner

end Kill

section Words

variable {s : State}

theorem isChild_of_childOf {a : Word} (h : childOf s a) : s.isChild a = true := by
  obtain ⟨x, hx, hp⟩ := h
  rw [State.isChild, State.children, List.contains_iff_mem]
  exact List.mem_map.mpr ⟨(a.toNat, x), List.mem_filter.mpr ⟨hx, beq_iff_eq.mpr hp⟩, rfl⟩

/-- A context word whose operands are unpoisoned and name a child goes on (R315). -/
theorem ctxWord_goes {w : Who} {a : BitVec 5} {bs : List (BitVec 5)} (ha : okS s a) (hbs : ∀ b ∈ bs, okS s b) (hc : childOf s (s.rs a).val)
    (k : Word → Res) : s.ctxWord w a bs s.isChild k = k (s.rs a).val := by
  have hok : s.poisoned w ((a :: bs).map s.pS) = none := Atomics.poisoned_of_ok (List.forall_mem_cons.mpr ⟨ha, hbs⟩)
  rw [State.ctxWord, hok]
  exact if_pos (isChild_of_childOf hc)

theorem returns_of_give {i : Instr} {S : Bool} {s1 : State} {d : BitVec 5} {v : Word} (h : exec i s = s1.give S d v) :
    returns i S s s1 d v := ⟨s1.wrS d v, h, setS_scalarSet _ _ _⟩

theorem ctxIs_iff {a : Word} {st : CtxSt} : s.ctxIs a.toNat st = true ↔ ctxIn s a st := by
  unfold State.ctxIs ctxIn
  cases s.ctx a.toNat with
  | none => simp
  | some x => simp

theorem ctxIs_of_ctx {c : Nat} {x : Ctx} {st : CtxSt} (h : s.ctx c = some x) (hst : x.st ≠ st) : s.ctxIs c st = false := by
  rw [State.ctxIs, h]
  exact beq_eq_false_iff_ne.mpr hst

theorem modCtx_of_ctx {c : Nat} {x : Ctx} (h : s.ctx c = some x) (f : Ctx → Ctx) : s.modCtx c f = { s with ctxs := alSet s.ctxs c (f x) } := by
  rw [State.modCtx, h]

/-- A task that a reflected trap has parked (R305, R319). -/
theorem reflectedTo_iff (s : State) (c a : Nat) (i : BitVec 64) : s.reflectedTo c a i = true ↔
    ∃ t, s.taskById i = some t ∧ t.st = .reflected ∧ t.told = c ∧ t.ctx ∈ s.subtree a ∧
      ∀ e ∈ s.events, e.ctx = c → e.ev.extractLsb' 64 64 ≠ i := by
  unfold State.reflectedTo
  cases s.taskById i with
  | none => simp
  | some t => simp [and_assoc]

/-- A word on a parked task of a child (R319). -/
theorem ctxTask_of_child {w : Who} {S : Bool} {d a b : BitVec 5} {k : State} (ha : okS s a) (hb : okS s b) (hc : childOf s (s.rs a).val)
    (hd : ¬ ctxIn s (s.rs a).val .deleting) : s.ctxTask S w d a b k =
      if s.reflectedTo s.t.ctx (s.rs a).val.toNat (s.rs b).val then k.give S d 0 else s.give S d (-2) := by
  have hdel : ¬ s.ctxIs (s.rs a).val.toNat .deleting = true := fun h => hd (ctxIs_iff.mp h)
  rw [State.ctxTask, ctxWord_goes ha (by simpa using hb) hc, if_neg hdel]
  rfl

/-- PREQ.STOP asked of the running tasks of a subtree (R305, R320). -/
theorem stopTasks_eq (s : State) (c : Nat) : s.stopTasks c = s.mapTasks fun t => if t.st = .running ∧ (s.subtree c).contains t.ctx then
    { t with x := { t.x with stop := true, remain := if t.x.slice || t.x.stop || t.x.system then t.x.remain else t.x.limit } } else t := by
  rw [State.stopTasks, State.askLeave]
  refine congrArg s.mapTasks (funext fun t => ?_)
  refine if_congr Iff.rfl ?_ rfl
  simp only [Trp.reason]
  cases t.x.slice || t.x.stop || t.x.system <;> rfl

theorem stopWait_eq (s : State) (S : Bool) (d : BitVec 5) (v : Word) : s.stopWait S d v.toNat =
    if s.subtreeRuns v.toNat then .next (s.block .other (.begun v)) else s.give S d 0 := by
  rw [State.stopWait, BitVec.ofNat_toNat, BitVec.setWidth_eq]

end Words

/-- Settles O29: each word is `ctxWord_goes` with its effect, and the task that `CTXRUN.kill` ends is `killTask_keeps`. -/
theorem contextsRunAndStop : Obligations.ContextsRunAndStop := by
  unfold Obligations.ContextsRunAndStop
  refine ⟨fun S d a s x ha hc hctx hst => ?_, reflectedTo_iff, fun S d a b s ha hb hc hd => ?_, fun s u hu _ hn hidle => killTask_keeps hu hn hidle,
    fun S d a s x hfirst ha hc hctx hst => ?_, fun S d a s v hp => ?_⟩
  · have hgo := ctxWord_goes (w := whoOf (.ctxrun S d a)) ha (bs := []) nofun hc fun c =>
      if s.ctxIs c.toNat .deleting then s.give S d stBUSY else (s.modCtx c.toNat fun x => { x with st := .running }).give S d 0
    rw [ctxIs_of_ctx hctx hst, if_neg Bool.false_ne_true, modCtx_of_ctx hctx] at hgo
    exact returns_of_give hgo
  · have hresume : exec (.ctxrunResume S d a b) s = _ := ctxTask_of_child ha hb hc hd
    have hkill : exec (.ctxrunKill S d a b) s = _ := ctxTask_of_child ha hb hc hd
    dsimp only
    split
    · next h =>
      rw [if_pos h] at hresume hkill
      exact ⟨returns_of_give hresume, returns_of_give hkill⟩
    · next h =>
      rw [if_neg h] at hresume hkill
      exact ⟨returns_of_give hresume, returns_of_give hkill⟩
  · have hdef : exec (.ctxstop S d a) s = execCtxstop S d a s := rfl
    rw [execCtxstop, progress_firstTime hfirst] at hdef
    dsimp only at hdef
    rw [ctxWord_goes (bs := []) ha nofun hc, ctxIs_of_ctx hctx hst, if_neg Bool.false_ne_true, modCtx_of_ctx hctx, stopTasks_eq, stopWait_eq] at hdef
    dsimp only
    split
    · next h => rw [if_pos h] at hdef; exact hdef
    · next h => rw [if_neg h] at hdef; exact returns_of_give hdef
  · have hexec : exec (.ctxstop S d a) s = s.stopWait S d v.toNat := by
      have hdef : exec (.ctxstop S d a) s = execCtxstop S d a s := rfl
      rw [hdef, execCtxstop, hp]
    rw [stopWait_eq] at hexec
    split
    · next h => rw [if_pos h] at hexec; exact hexec
    · next h => rw [if_neg h] at hexec; exact returns_of_give hexec

end Sys2Proof.Running
end

section
/-!
PROOFS. `Obligations.EncodedLinesDecodeToThemselves`: the choice of a mode, the fields of a payload read back one by one, and the line of its words.
-/

namespace Sys2Proof.Coursing

open Sys2Proof Sys2Proof.Machine

section Choice

variable {d : BitVec 512} {nz : Nat}

/-- Mode m is chosen before mode k for nz nonzero words: fewer sectors, and among equals the lower number (R85). -/
def precedes (nz m k : Nat) : Prop :=
  coursingSectors m nz < coursingSectors k nz ∨ (coursingSectors m nz = coursingSectors k nz ∧ m ≤ k)

theorem precedes_refl (m : Nat) : precedes nz m m := .inr ⟨rfl, le_rfl⟩

theorem precedes_trans {a b c : Nat} (hab : precedes nz a b) (hbc : precedes nz b c) : precedes nz a c := by
  unfold precedes at *
  omega

theorem coursingBest_cons (n : Nat) (ms : List Nat) (best : Option Nat) : coursingBest d nz (n :: ms) best = coursingBest d nz ms
    (if coursingEligible n d && best.all fun b => coursingSectors n nz < coursingSectors b nz then some n else best) := by
  cases best <;> rfl

/-- The search of an ascending list, from a mode below all of it, ends in an eligible mode that precedes each eligible one. -/
theorem coursingBest_spec {ms : List Nat} (hms : ms.Pairwise (· < ·)) {best : Option Nat}
    (hbest : ∀ b ∈ best, coursingEligible b d ∧ ∀ k ∈ ms, b < k) {m : Nat} (hm : coursingBest d nz ms best = some m) :
    (m ∈ ms ∨ m ∈ best) ∧ coursingEligible m d ∧ (∀ b ∈ best, precedes nz m b) ∧ ∀ k ∈ ms, coursingEligible k d → precedes nz m k := by
  induction ms generalizing best with
  | nil =>
    obtain rfl : best = some m := hm
    exact ⟨.inr rfl, (hbest m rfl).1, fun b hb => Option.some.inj hb ▸ precedes_refl m, nofun⟩
  | cons n ms ih =>
    obtain ⟨hn, hms⟩ := List.pairwise_cons.mp hms
    rw [coursingBest_cons] at hm
    split at hm
    · next hbetter =>
      rw [Bool.and_eq_true, Option.all_eq_true] at hbetter
      obtain ⟨hel, hless⟩ := hbetter
      obtain ⟨hmem, hem, hmn, hmk⟩ := ih hms (by rintro b ⟨⟩; exact ⟨hel, hn⟩) hm
      have hfirst := hmn n rfl
      refine ⟨.inl (hmem.elim (List.mem_cons_of_mem n) fun h => Option.some.inj h ▸ List.mem_cons_self), hem,
        fun b hb => precedes_trans hfirst (.inl (of_decide_eq_true (hless b hb))), List.forall_mem_cons.mpr ⟨fun _ => hfirst, hmk⟩⟩
    · next hbetter =>
      obtain ⟨hmem, hem, hmb, hmk⟩ := ih hms (fun b hb => ⟨(hbest b hb).1, fun k hk => (hbest b hb).2 k (List.mem_cons_of_mem n hk)⟩) hm
      refine ⟨hmem.imp_left (List.mem_cons_of_mem n), hem, hmb, List.forall_mem_cons.mpr ⟨fun hel => ?_, hmk⟩⟩
      obtain ⟨b, rfl, hle⟩ : ∃ b, best = some b ∧ coursingSectors b nz ≤ coursingSectors n nz := by
        cases best <;> simp_all
      have hlt : b < n := (hbest b rfl).2 n List.mem_cons_self
      exact precedes_trans (hmb b rfl) (by unfold precedes; omega)

/-- A search that finds no mode has met no eligible one. -/
theorem coursingBest_none {ms : List Nat} {best : Option Nat} (hm : coursingBest d nz ms best = none) :
    best = none ∧ ∀ k ∈ ms, coursingEligible k d = false := by
  induction ms generalizing best with
  | nil => exact ⟨hm, nofun⟩
  | cons n ms ih =>
    rw [coursingBest_cons] at hm
    obtain ⟨hbest, hms⟩ := ih hm
    split at hbest
    · cases hbest
    · next hno =>
      subst hbest
      exact ⟨rfl, List.forall_mem_cons.mpr ⟨by simpa using hno, hms⟩⟩

/-- The mode of a line that is not all zero (R85). -/
theorem coursingMode_spec (hn : nzWords d ≠ []) : coursingMode d ∈ [1, 2, 3, 4, 5, 6, 7] ∧ coursingEligible (coursingMode d) d ∧
    ∀ k ∈ [1, 2, 3, 4, 5, 6, 7], coursingEligible k d → precedes (nzWords d).length (coursingMode d) k := by
  have hempty : (nzWords d).isEmpty = false := by simpa using hn
  rw [coursingMode, hempty, if_neg Bool.false_ne_true]
  cases hm : coursingBest d (nzWords d).length [1, 2, 3, 4, 5, 6, 7] none with
  | none => exact absurd ((coursingBest_none hm).2 7 (by decide)) (by simp [coursingEligible])
  | some m =>
    obtain ⟨hmem, hel, -, hmin⟩ := coursingBest_spec (by decide) (by rintro b ⟨⟩) hm
    exact ⟨hmem.resolve_right nofun, hel, hmin⟩

end Choice

section Fields

/-- The bits of a nonzero word's field under a mode (R84). -/
def fieldBits (mode : Nat) : Nat := if mode = 1 then 32 else if mode = 2 then 8 else if mode = 3 then 16 else coursingK mode

/-- The modes whose payload is a list of fields. -/
def fielded (mode : Nat) : Prop := mode ∈ [1, 2, 3, 4, 5, 6]

/-- The fields of words js of a line under a mode with base f, 0 where the mode has none (R86). -/
def fieldsOf (mode : Nat) (d : BitVec 512) (f : BitVec 32) (js : List Nat) : List (Nat × Nat) :=
  js.map fun j => (fieldBits mode, (lineWord d j - f).toNat)

theorem fieldBits_pos (mode : Nat) : 0 < fieldBits mode := by
  unfold fieldBits coursingK; split_ifs <;> decide

theorem fieldBits_le (mode : Nat) : fieldBits mode ≤ 32 := by
  unfold fieldBits coursingK; split_ifs <;> decide

/-- A value that fits k signed bits is its low k bits, sign-extended. -/
theorem signExtend_of_fitsSigned {x : BitVec 32} {k : Nat} (hk : 0 < k) (hk32 : k ≤ 32) (hx : fitsSigned x k) :
    (x.setWidth k).signExtend 32 = x := by
  apply BitVec.eq_of_toInt_eq
  unfold fitsSigned at hx
  rw [Bool.and_eq_true, decide_eq_true_eq, decide_eq_true_eq] at hx
  obtain ⟨j, rfl⟩ := Nat.exists_eq_add_of_le' hk
  have hlow : (x.setWidth (j + 1)).toInt = x.toInt.bmod (2 ^ (j + 1)) := by
    rw [BitVec.toInt_setWidth, BitVec.toInt_eq_toNat_bmod, Int.bmod_bmod_of_dvd (Nat.pow_dvd_pow 2 hk32)]
  have hpow : (2 : Int) ^ (j + 1) = 2 * 2 ^ j := pow_succ' 2 j
  rw [BitVec.toInt_signExtend_of_le hk32, hlow]
  apply Int.bmod_eq_of_le <;> push_cast <;> simp only [Nat.add_sub_cancel] at hx <;> omega

theorem packFields_lt (fs : List (Nat × Nat)) : packFields fs < 2 ^ (fs.map Prod.fst).sum := by
  induction fs with
  | nil => decide
  | cons y fs ih =>
    obtain ⟨w, x⟩ := y
    have hx : x % 2 ^ w < 2 ^ w := Nat.mod_lt _ (Nat.two_pow_pos w)
    calc x % 2 ^ w + 2 ^ w * packFields fs < 2 ^ w + 2 ^ w * packFields fs := Nat.add_lt_add_right hx _
      _ = 2 ^ w * (packFields fs + 1) := by ring
      _ ≤ 2 ^ w * 2 ^ (fs.map Prod.fst).sum := Nat.mul_le_mul_left _ ih
      _ = 2 ^ (((w, x) :: fs).map Prod.fst).sum := by rw [← pow_add, List.map_cons, List.sum_cons]

/-- The first field stands in the low bits. -/
theorem packFields_mod (w x : Nat) (fs : List (Nat × Nat)) : packFields ((w, x) :: fs) % 2 ^ w = x % 2 ^ w := by
  rw [packFields, Nat.add_mul_mod_self_left, Nat.mod_mod]

/-- The other fields stand above the first. -/
theorem packFields_div (w x : Nat) (fs : List (Nat × Nat)) : packFields ((w, x) :: fs) / 2 ^ w = packFields fs := by
  rw [packFields, Nat.add_mul_div_left _ _ (Nat.two_pow_pos w), Nat.div_eq_of_lt (Nat.mod_lt _ (Nat.two_pow_pos w)), Nat.zero_add]

/-- A field read at its place, where the payload from there on is the packing of the fields left. -/
theorem extractLsb'_of_packFields {p : BitVec 512} {pos w : Nat} {x : BitVec 32} {fs : List (Nat × Nat)}
    (hp : p.toNat / 2 ^ pos = packFields ((w, x.toNat) :: fs)) : p.extractLsb' pos w = x.setWidth w := by
  apply BitVec.eq_of_toNat_eq
  rw [BitVec.extractLsb'_toNat, Nat.shiftRight_eq_div_pow, hp, packFields_mod, BitVec.toNat_setWidth]

/-- One word of a payload, whatever the mode: its field, sign-extended, over the base. -/
theorem coursingWords_cons {mode : Nat} (hmode : fielded mode) (p : BitVec 512) {f : BitVec 32} (hf : mode ≤ 3 → f = 0)
    (j : Nat) (js : List Nat) (pos : Nat) : coursingWords mode p f (j :: js) pos =
      (j, f + (p.extractLsb' pos (fieldBits mode)).signExtend 32) :: coursingWords mode p f js (pos + fieldBits mode) := by
  simp only [fielded, List.mem_cons, List.not_mem_nil, or_false] at hmode
  obtain rfl | rfl | rfl | rfl | rfl | rfl := hmode
  · obtain rfl := hf (by decide)
    simp [coursingWords, fieldBits, BitVec.signExtend_eq]
  · obtain rfl := hf (by decide)
    simp [coursingWords, fieldBits]
  · obtain rfl := hf (by decide)
    simp [coursingWords, fieldBits]
  all_goals rfl

/-- The words of a payload are those that were packed (R87). -/
theorem coursingWords_of_packFields {mode : Nat} (hmode : fielded mode) {p d : BitVec 512} {f : BitVec 32} (hf : mode ≤ 3 → f = 0)
    {js : List Nat} {pos : Nat} (hfit : ∀ j ∈ js, fitsSigned (lineWord d j - f) (fieldBits mode))
    (hp : p.toNat / 2 ^ pos = packFields (fieldsOf mode d f js)) :
    coursingWords mode p f js pos = js.map fun j => (j, lineWord d j) := by
  induction js generalizing pos with
  | nil => rfl
  | cons j js ih =>
    obtain ⟨hj, hjs⟩ := List.forall_mem_cons.mp hfit
    have htail : p.toNat / 2 ^ (pos + fieldBits mode) = packFields (fieldsOf mode d f js) := by
      rw [pow_add, ← Nat.div_div_eq_div_mul, hp, fieldsOf, List.map_cons, packFields_div, fieldsOf]
    rw [coursingWords_cons hmode p hf, ih hjs htail, extractLsb'_of_packFields hp,
      signExtend_of_fitsSigned (fieldBits_pos mode) (fieldBits_le mode) hj, List.map_cons, add_sub_cancel]

end Fields

section Line

variable (d : BitVec 512)

theorem nzWords_pairwise : (nzWords d).Pairwise (· < ·) := List.pairwise_lt_range.filter _

theorem mem_nzWords {j : Nat} : j ∈ nzWords d ↔ j < 16 ∧ lineWord d j ≠ 0 := by
  simp [nzWords]

/-- ZMAP of a line (R86). -/
def zmap : Nat := ((nzWords d).map fun j => 2 ^ j).sum

theorem testBit_zmap (j : Nat) : (zmap d).testBit j = true ↔ j ∈ nzWords d := by
  rw [← Nat.mem_bitIndices, zmap, Nat.bitIndices_sum_map_two_pow (List.sortedLT_iff_pairwise.mpr (nzWords_pairwise d))]

/-- The words that ZMAP names are the nonzero ones (R87). -/
theorem filter_getLsbD_of_zmap {p : BitVec 512} (hp : p.toNat % 2 ^ 16 = zmap d % 2 ^ 16) :
    ((List.range 16).filter fun j => p.getLsbD j) = nzWords d := by
  refine List.filter_congr fun j hj => ?_
  have hj16 : j < 16 := List.mem_range.mp hj
  have hbit : p.getLsbD j = (zmap d).testBit j := by
    have h : (p.toNat % 2 ^ 16).testBit j = (zmap d % 2 ^ 16).testBit j := by rw [hp]
    rwa [Nat.testBit_mod_two_pow, Nat.testBit_mod_two_pow, decide_eq_true hj16, Bool.true_and, Bool.true_and, BitVec.testBit_toNat] at h
  rw [hbit, Bool.eq_iff_iff, testBit_zmap, mem_nzWords]
  simp [hj16]

/-- A line is the sum of its words at their places. -/
theorem sum_lineWord (n : Nat) : ((List.range n).map fun j => (lineWord d j).toNat * 2 ^ (32 * j)).sum = d.toNat % 2 ^ (32 * n) := by
  induction n with
  | zero => simp [Nat.mod_one]
  | succ n ih =>
    rw [List.range_succ, List.map_append, List.sum_append, ih, Nat.mul_succ, pow_add, Nat.mod_mul]
    simp [lineWord, Nat.shiftRight_eq_div_pow, mul_comm]

/-- Its zero words add nothing. -/
theorem sum_filter_lineWord (js : List Nat) : ((js.filter fun j => lineWord d j != 0).map fun j => (lineWord d j).toNat * 2 ^ (32 * j)).sum =
    (js.map fun j => (lineWord d j).toNat * 2 ^ (32 * j)).sum := by
  induction js with
  | nil => rfl
  | cons j js ih =>
    by_cases hj : lineWord d j = 0
    · rw [List.filter_cons_of_neg (by simp [hj]), ih, List.map_cons, List.sum_cons, hj, show (0 : BitVec 32).toNat = 0 from rfl, Nat.zero_mul,
        Nat.zero_add]
    · rw [List.filter_cons_of_pos (by simpa using hj), List.map_cons, List.sum_cons, ih, List.map_cons, List.sum_cons]

/-- A line is the line of its nonzero words. -/
theorem lineOfWords_nzWords : lineOfWords ((nzWords d).map fun j => (j, lineWord d j)) = d := by
  have hsum : ((nzWords d).map fun j => (lineWord d j).toNat * 2 ^ (32 * j)).sum = d.toNat := by
    rw [nzWords, sum_filter_lineWord, sum_lineWord, Nat.mod_eq_of_lt d.isLt]
  rw [lineOfWords, List.map_map]
  simp only [Function.comp_def]
  rw [hsum, BitVec.ofNat_toNat, BitVec.setWidth_eq]

end Line

section RoundTrip

variable {d : BitVec 512} {mode : Nat}

theorem plain_cases (h : mode ∈ [1, 2, 3]) : mode = 1 ∨ mode = 2 ∨ mode = 3 := by simpa using h

theorem base_cases (h : mode ∈ [4, 5, 6]) : mode = 4 ∨ mode = 5 ∨ mode = 6 := by simpa using h

theorem nzWords_length_le : (nzWords d).length ≤ 16 := List.length_filter_le _ _

/-- The payload of an eligible mode has 512 bits at most. -/
theorem coursingBits_le (hmode : mode ∈ [1, 2, 3, 4, 5, 6, 7]) (hel : coursingEligible mode d) : coursingBits mode (nzWords d).length ≤ 512 := by
  have hle := nzWords_length_le (d := d)
  simp only [List.mem_cons, List.not_mem_nil, or_false] at hmode
  obtain rfl | rfl | rfl | rfl | rfl | rfl | rfl := hmode
  · exact of_decide_eq_true hel
  all_goals simp only [coursingBits]; omega

theorem coursingSectors_le (hmode : mode ∈ [1, 2, 3, 4, 5, 6, 7]) (hel : coursingEligible mode d) :
    coursingSectors mode (nzWords d).length ≤ 4 := by
  have := coursingBits_le hmode hel
  unfold coursingSectors cdiv
  omega

/-- What the packing of fields within 512 bits holds. -/
theorem toNat_ofNat_packFields {fs : List (Nat × Nat)} (h : (fs.map Prod.fst).sum ≤ 512) :
    (BitVec.ofNat 512 (packFields fs)).toNat = packFields fs := by
  rw [BitVec.toNat_ofNat, Nat.mod_eq_of_lt ((packFields_lt fs).trans_le (Nat.pow_le_pow_right (by decide) h))]

theorem fieldsOf_bits (f : BitVec 32) (js : List Nat) : ((fieldsOf mode d f js).map Prod.fst).sum = js.length * fieldBits mode := by
  simp [fieldsOf, Function.comp_def]

theorem coursingBits_plain (hmode : mode ∈ [1, 2, 3]) (n : Nat) : coursingBits mode n = 16 + n * fieldBits mode := by
  obtain rfl | rfl | rfl := plain_cases hmode <;> simp [coursingBits, fieldBits, Nat.mul_comm]

theorem coursingBits_base (hmode : mode ∈ [4, 5, 6]) (n : Nat) : coursingBits mode (n + 1) = 16 + (32 + n * fieldBits mode) := by
  obtain rfl | rfl | rfl := base_cases hmode <;> simp only [coursingBits, fieldBits, coursingK, reduceIte, Nat.reduceEqDiff] <;> omega

/-- A payload without a base: ZMAP, then the words (R86). -/
theorem coursingPack_plain (hmode : mode ∈ [1, 2, 3]) :
    coursingPack mode d = BitVec.ofNat 512 (packFields ((16, zmap d) :: fieldsOf mode d 0 (nzWords d))) := by
  obtain rfl | rfl | rfl := plain_cases hmode <;> simp [coursingPack, fieldsOf, fieldBits, zmap]

/-- A payload with a base: ZMAP, the first nonzero word, then the differences of the others (R86). -/
theorem coursingPack_base (hmode : mode ∈ [4, 5, 6]) : coursingPack mode d = BitVec.ofNat 512 (packFields ((16, zmap d) ::
    (32, (lineWord d ((nzWords d).headD 0)).toNat) :: fieldsOf mode d (lineWord d ((nzWords d).headD 0)) ((nzWords d).drop 1))) := by
  obtain rfl | rfl | rfl := base_cases hmode <;> rfl

theorem coursingDecode_plain (hmode : mode ∈ [1, 2, 3]) (p : BitVec 512) :
    coursingDecode mode p = lineOfWords (coursingWords mode p 0 ((List.range 16).filter fun j => p.getLsbD j) 16) := by
  obtain rfl | rfl | rfl := plain_cases hmode <;> rfl

theorem coursingDecode_base (hmode : mode ∈ [4, 5, 6]) (p : BitVec 512) :
    coursingDecode mode p = lineOfWords ((((List.range 16).filter fun j => p.getLsbD j).headD 0, p.extractLsb' 16 32) ::
      coursingWords mode p (p.extractLsb' 16 32) (((List.range 16).filter fun j => p.getLsbD j).drop 1) 48) := by
  obtain rfl | rfl | rfl := base_cases hmode <;> rfl

/-- Every word fits 32 signed bits. -/
theorem fitsSigned_32 (x : BitVec 32) : fitsSigned x 32 := by
  have hlo := BitVec.le_toInt x
  have hhi := BitVec.toInt_lt (x := x)
  unfold fitsSigned
  rw [Bool.and_eq_true, decide_eq_true_eq, decide_eq_true_eq]
  omega

theorem fits_of_eligible_plain (hmode : mode ∈ [1, 2, 3]) (hel : coursingEligible mode d) :
    ∀ j ∈ nzWords d, fitsSigned (lineWord d j - 0) (fieldBits mode) := by
  simp only [sub_zero]
  obtain rfl | rfl | rfl := plain_cases hmode
  · exact fun j _ => fitsSigned_32 _
  · exact List.all_eq_true.mp hel
  · exact List.all_eq_true.mp hel

theorem fits_of_eligible_base (hmode : mode ∈ [4, 5, 6]) (hel : coursingEligible mode d) :
    ∀ j ∈ (nzWords d).drop 1, fitsSigned (lineWord d j - lineWord d ((nzWords d).headD 0)) (fieldBits mode) := by
  obtain rfl | rfl | rfl := base_cases hmode <;> exact List.all_eq_true.mp hel

theorem decode_pack_plain (hmode : mode ∈ [1, 2, 3]) (hel : coursingEligible mode d) : coursingDecode mode (coursingPack mode d) = d := by
  have hbits : (((16, zmap d) :: fieldsOf mode d 0 (nzWords d)).map Prod.fst).sum ≤ 512 := by
    have h := coursingBits_le (List.mem_append_left [4, 5, 6, 7] hmode) hel
    rwa [coursingBits_plain hmode, ← fieldsOf_bits 0] at h
  have hp := (congrArg BitVec.toNat (coursingPack_plain (d := d) hmode)).trans (toNat_ofNat_packFields hbits)
  have hzmap := filter_getLsbD_of_zmap d (by rw [hp, packFields_mod])
  have hwords : (coursingPack mode d).toNat / 2 ^ 16 = packFields (fieldsOf mode d 0 (nzWords d)) := by rw [hp, packFields_div]
  have hfielded : fielded mode := List.mem_append_left [4, 5, 6] hmode
  rw [coursingDecode_plain hmode, hzmap, coursingWords_of_packFields hfielded (fun _ => rfl) (fits_of_eligible_plain hmode hel) hwords,
    lineOfWords_nzWords]

theorem decode_pack_base (hmode : mode ∈ [4, 5, 6]) (hn : nzWords d ≠ []) (hel : coursingEligible mode d) :
    coursingDecode mode (coursingPack mode d) = d := by
  obtain ⟨j, js, hws⟩ := List.exists_cons_of_ne_nil hn
  have hhead : (nzWords d).headD 0 = j := by rw [hws]; rfl
  have hdrop : (nzWords d).drop 1 = js := by rw [hws]; rfl
  have hbits : (((16, zmap d) :: (32, (lineWord d j).toNat) :: fieldsOf mode d (lineWord d j) js).map Prod.fst).sum ≤ 512 := by
    have h := coursingBits_le (List.mem_append_left [7] (List.mem_append_right [1, 2, 3] hmode)) hel
    rwa [hws, List.length_cons, coursingBits_base hmode, ← fieldsOf_bits (lineWord d j)] at h
  have hfit := fits_of_eligible_base hmode hel
  have hpack := coursingPack_base (d := d) hmode
  rw [hhead, hdrop] at hfit hpack
  have hp := (congrArg BitVec.toNat hpack).trans (toNat_ofNat_packFields hbits)
  have hzmap := filter_getLsbD_of_zmap d (by rw [hp, packFields_mod])
  have hbase : (coursingPack mode d).toNat / 2 ^ 16 = packFields ((32, (lineWord d j).toNat) :: fieldsOf mode d (lineWord d j) js) := by
    rw [hp, packFields_div]
  have hf : (coursingPack mode d).extractLsb' 16 32 = lineWord d j := (extractLsb'_of_packFields hbase).trans (BitVec.setWidth_eq _)
  have hwords : (coursingPack mode d).toNat / 2 ^ 48 = packFields (fieldsOf mode d (lineWord d j) js) := by
    rw [show 48 = 16 + 32 from rfl, pow_add, ← Nat.div_div_eq_div_mul, hbase, packFields_div]
  have hfielded : fielded mode := List.mem_append_right [1, 2, 3] hmode
  have hplain : mode ≤ 3 → lineWord d j = 0 := by
    have := base_cases hmode
    omega
  rw [coursingDecode_base hmode, hzmap, hf, hhead, hdrop, coursingWords_of_packFields hfielded hplain hfit hwords,
    ← List.map_cons (f := fun j => (j, lineWord d j)), ← hws, lineOfWords_nzWords]

/-- Decoding inverts the packing in every eligible mode of a line that is not all zero (R87). -/
theorem decode_pack (hmode : mode ∈ [1, 2, 3, 4, 5, 6, 7]) (hn : nzWords d ≠ []) (hel : coursingEligible mode d) :
    coursingDecode mode (coursingPack mode d) = d := by
  rcases List.mem_append.mp (show mode ∈ [1, 2, 3] ++ ([4, 5, 6] ++ [7]) from hmode) with hplain | hrest
  · exact decode_pack_plain hplain hel
  rcases List.mem_append.mp hrest with hbase | hraw
  · exact decode_pack_base hbase hn hel
  · obtain rfl := List.mem_singleton.mp hraw
    rfl

/-- A line without nonzero words is all zero. -/
theorem eq_zero_of_nzWords (hn : nzWords d = []) : d = 0 := by
  have h := lineOfWords_nzWords d
  rw [hn] at h
  exact h.symm

end RoundTrip

/-- Settles O47: a line of zeros has no payload; for every other the search of R85 ends in an eligible mode that precedes the others
(`coursingMode_spec`), and each eligible mode is read back field by field (`decode_pack`). -/
theorem encodedLinesDecodeToThemselves : Obligations.EncodedLinesDecodeToThemselves := by
  unfold Obligations.EncodedLinesDecodeToThemselves
  intro d
  by_cases hn : nzWords d = []
  · obtain rfl := eq_zero_of_nzWords hn
    decide +kernel
  · obtain ⟨hmem, hel, hmin⟩ := coursingMode_spec hn
    have hlen : (nzWords d).length ≠ 0 := by simpa using hn
    exact ⟨decode_pack hmem hn hel, coursingSectors_le hmem hel, fun h => absurd h hlen,
      fun _ => ⟨hel, fun k h1 h7 hk => hmin k (by simp only [List.mem_cons, List.not_mem_nil, or_false]; omega) hk⟩⟩

end Sys2Proof.Coursing
end

section
/-!
PROOFS. `Obligations.StreamsAndImagesMoveBytes`: the bits of memories, the movement of one element, the line writes that wait, then the course of a
request, of a port and of an image.
-/

namespace Sys2Proof.Streams

open Sys2Proof Sys2Proof.Machine Sys2Proof.Claims

section Bits

/-- Bit i of a memory. -/
def memBit (m : Mem) (i : Nat) : Bool := (m.get (i / 8)).getLsbD (i % 8)

/-- A bit of a number of bytes is a bit of its byte (R4). -/
theorem testBit_leNat (bs : List Byte) (i : Nat) : (leNat bs).testBit i = (bs.getD (i / 8) 0).getLsbD (i % 8) := by
  induction bs generalizing i with
  | nil => simp [leNat]
  | cons b bs ih =>
    rw [leNat, Nat.add_comm, show 256 = 2 ^ 8 from rfl, Nat.testBit_two_pow_mul_add _ b.isLt]
    split
    · next h => rw [Nat.div_eq_of_lt h, Nat.mod_eq_of_lt h, List.getD_cons_zero, BitVec.testBit_toNat]
    · next h =>
      obtain ⟨j, rfl⟩ := Nat.exists_eq_add_of_le' (Nat.le_of_not_lt h)
      rw [Nat.add_sub_cancel, ih, Nat.add_div_right j (by decide), Nat.add_mod_right, List.getD_cons_succ]

/-- A bit of a read of n bytes. -/
theorem testBit_leNat_read (m : Mem) (a n i : Nat) : (leNat (m.read a n)).testBit i = (decide (i < 8 * n) && memBit m (8 * a + i)) := by
  have hbyte : (m.read a n).getD (i / 8) 0 = if i / 8 < n then m.get (a + i / 8) else 0 := by
    by_cases h : i / 8 < n <;> simp [Mem.read, List.getD_eq_getElem?_getD, h]
  rw [testBit_leNat, hbyte, memBit, show (8 * a + i) / 8 = a + i / 8 by omega, show (8 * a + i) % 8 = i % 8 by omega]
  split
  · next h => rw [decide_eq_true (by omega), Bool.true_and]
  · next h => rw [decide_eq_false (by omega), Bool.false_and]; exact BitVec.getLsbD_zero

/-- The bits of a read of bits. -/
theorem testBit_getBits (m : Mem) (k w i : Nat) : (m.getBits k w).testBit i = (decide (i < w) && memBit m (k + i)) := by
  rw [Mem.getBits, Nat.testBit_mod_two_pow, Nat.testBit_div_two_pow, testBit_leNat_read]
  by_cases h : i < w
  · rw [decide_eq_true h, decide_eq_true (by omega), show 8 * (k / 8) + (i + k % 8) = k + i by omega, Bool.true_and]
  · rw [decide_eq_false h, Bool.false_and, Bool.false_and]

/-- A byte outside the bits replaced is as before. -/
theorem get_putBits_out (m : Mem) (k w v b : Nat) (h : 8 * b + 8 ≤ k ∨ k + w ≤ 8 * b) : (m.putBits k w v).get b = m.get b := by
  unfold Mem.putBits
  apply Mem.get_write_out
  rw [leBytes_length]
  omega

/-- The bits of w bits of a number replaced from bit k on. -/
theorem testBit_replaced (old k w v i : Nat) : (old / 2 ^ (k + w) * 2 ^ (k + w) + v % 2 ^ w * 2 ^ k + old % 2 ^ k).testBit i =
    if k ≤ i ∧ i < k + w then v.testBit (i - k) else old.testBit i := by
  have hshape : old / 2 ^ (k + w) * 2 ^ (k + w) + v % 2 ^ w * 2 ^ k + old % 2 ^ k =
      2 ^ k * (2 ^ w * (old / 2 ^ (k + w)) + v % 2 ^ w) + old % 2 ^ k := by
    rw [pow_add]; ring
  rw [hshape, Nat.testBit_two_pow_mul_add _ (Nat.mod_lt _ (Nat.two_pow_pos k))]
  split
  · next hlow => rw [if_neg (by omega), Nat.testBit_mod_two_pow, decide_eq_true hlow, Bool.true_and]
  · next hlow =>
    rw [Nat.testBit_two_pow_mul_add _ (Nat.mod_lt _ (Nat.two_pow_pos w))]
    split
    · next hmid => rw [if_pos (by omega), Nat.testBit_mod_two_pow, decide_eq_true hmid, Bool.true_and]
    · next hmid => rw [if_neg (by omega), Nat.testBit_div_two_pow, show i - k - w + (k + w) = i by omega]

/-- The number in the bytes of a write of bits, where they held `old`. -/
theorem leNat_read_putBits {m : Mem} {k w n old : Nat} (v : Nat) (hn : n = (k % 8 + w + 7) / 8) (hold : old = leNat (m.read (k / 8) n)) :
    leNat ((m.putBits k w v).read (k / 8) n) =
      (old / 2 ^ (k % 8 + w) * 2 ^ (k % 8 + w) + v % 2 ^ w * 2 ^ (k % 8) + old % 2 ^ (k % 8)) % 2 ^ (8 * n) := by
  subst hold hn
  have hread := fun x => Mem.read_write m (k / 8) (leBytes ((k % 8 + w + 7) / 8) x)
  simp only [leBytes_length] at hread
  rw [Mem.putBits, hread, leNat_leBytes, show 256 = 2 ^ 8 from rfl, ← pow_mul]

/-- The bits of a memory after a write of bits. -/
theorem memBit_putBits (m : Mem) (k w v i : Nat) : memBit (m.putBits k w v) i = if k ≤ i ∧ i < k + w then v.testBit (i - k) else memBit m i := by
  obtain ⟨n, hn⟩ : ∃ n, n = (k % 8 + w + 7) / 8 := ⟨_, rfl⟩
  by_cases hout : i < 8 * (k / 8) ∨ 8 * (k / 8) + 8 * n ≤ i
  · rw [if_neg (by omega), memBit, memBit, get_putBits_out]
    omega
  · obtain ⟨j, rfl⟩ := Nat.exists_eq_add_of_le (Nat.le_of_not_lt fun h => hout (.inl h))
    have hbit := testBit_leNat_read (m.putBits k w v) (k / 8) n j
    rw [leNat_read_putBits v hn rfl, Nat.testBit_mod_two_pow, testBit_replaced, testBit_leNat_read, decide_eq_true (by omega), Bool.true_and,
      Bool.true_and, Bool.true_and] at hbit
    rw [← hbit, show 8 * (k / 8) + j - k = j - k % 8 by omega]
    exact if_congr (by omega) rfl rfl

/-- Bits written read back. -/
theorem getBits_putBits (m : Mem) (k w v : Nat) : (m.putBits k w v).getBits k w = v % 2 ^ w := by
  apply Nat.eq_of_testBit_eq
  intro i
  rw [testBit_getBits, memBit_putBits, Nat.testBit_mod_two_pow]
  by_cases h : i < w
  · rw [if_pos (by omega), Nat.add_sub_cancel_left]
  · simp [h]

/-- Bits written, and zeros written above them, read back as one number. -/
theorem getBits_putBits_padded (m : Mem) (k w v r : Nat) : ((m.putBits k w v).putBits (k + w) r 0).getBits k (w + r) = v % 2 ^ w := by
  apply Nat.eq_of_testBit_eq
  intro i
  rw [testBit_getBits, memBit_putBits, memBit_putBits, Nat.testBit_mod_two_pow, Nat.zero_testBit]
  by_cases h : i < w
  · rw [if_neg (by omega), if_pos (by omega), Nat.add_sub_cancel_left, decide_eq_true h, decide_eq_true (by omega)]
  · by_cases hr : i < w + r
    · rw [if_pos (by omega)]; simp [h]
    · simp [h, hr]

end Bits

section Moves

variable {a : FCmd} {v1 v2 : Via} {x : Xf} {p : Nat}

theorem get_lt (x : Xf) (v : Via) (at_ : Nat × Nat) (w : Nat) : (x.get v at_ w).2 < 2 ^ w := by
  unfold Xf.get
  dsimp only
  split <;> exact Nat.mod_lt _ (Nat.two_pow_pos w)

theorem rowBit_eq (a : FCmd) (e p : Nat) : a.rowBit e p = windowBit a (pitchFor a e) e (p / a.v.ext 0) (p % a.v.ext 0) := rfl

/-- Bits written to the window stand there, and else it is as before. -/
theorem windowHas_winBits (x : Xf) (k e v : Nat) : windowHas (x.winBits k e v).s x.s k e (v % 2 ^ e) :=
  ⟨getBits_putBits _ _ _ _, fun b h => get_putBits_out _ _ _ _ b h⟩

/-- So do bits with zeros above them. -/
theorem windowHas_winBits_padded (x : Xf) (k e v r : Nat) : windowHas ((x.winBits k e v).winBits (k + e) r 0).s x.s k (e + r) (v % 2 ^ e) :=
  ⟨getBits_putBits_padded _ _ _ _ _, fun b h =>
    (get_putBits_out _ _ _ _ b (by omega)).trans (get_putBits_out _ _ _ _ b (by omega))⟩

/-- FLD pads the last byte of a row with zeros (R114). -/
theorem move_fld {S : Bool} {w : BitVec 4} {y z : BitVec 5} (h : a.e.w = .fld S w y z) : Xf.move a v1 v2 x p =
    let e := a.v.width v1.acc.o
    let g := x.get v1 (a.v.place v1.acc.o (a.v.tuple p)) e
    let k := a.rowBit e p
    if p % a.v.ext 0 + 1 = a.v.ext 0 ∧ (k + e) % 8 ≠ 0 then (g.1.winBits k e g.2).winBits (k + e) (8 - (k + e) % 8) 0
    else g.1.winBits k e g.2 := by
  unfold Xf.move
  rw [h]

/-- Where an element does not end its row within a byte, FLD writes its bits alone (R114). -/
theorem windowHas_move_fld {S : Bool} {w : BitVec 4} {y z : BitVec 5} {e k : Nat} (h : a.e.w = .fld S w y z) (he : a.v.width v1.acc.o = e)
    (hk : windowBit a (pitchFor a e) e (p / a.v.ext 0) (p % a.v.ext 0) = k) (hin : p % a.v.ext 0 + 1 ≠ a.v.ext 0 ∨ (k + e) % 8 = 0) :
    windowHas (Xf.move a v1 v2 x p).s (x.get v1 (a.v.place v1.acc.o (a.v.tuple p)) e).1.s k e (x.get v1 (a.v.place v1.acc.o (a.v.tuple p)) e).2 := by
  subst he hk
  rw [move_fld h]
  dsimp only
  rw [rowBit_eq, if_neg (by omega)]
  have hhas := windowHas_winBits (x.get v1 (a.v.place v1.acc.o (a.v.tuple p)) (a.v.width v1.acc.o)).1
    (windowBit a (pitchFor a (a.v.width v1.acc.o)) (a.v.width v1.acc.o) (p / a.v.ext 0) (p % a.v.ext 0)) (a.v.width v1.acc.o)
    (x.get v1 (a.v.place v1.acc.o (a.v.tuple p)) (a.v.width v1.acc.o)).2
  rwa [Nat.mod_eq_of_lt (get_lt ..)] at hhas

/-- Where it does, zeros follow up to the end of the byte (R114). -/
theorem windowHas_move_fld_padded {S : Bool} {w : BitVec 4} {y z : BitVec 5} {e k : Nat} (h : a.e.w = .fld S w y z) (he : a.v.width v1.acc.o = e)
    (hk : windowBit a (pitchFor a e) e (p / a.v.ext 0) (p % a.v.ext 0) = k) (hlast : p % a.v.ext 0 + 1 = a.v.ext 0) (hin : (k + e) % 8 ≠ 0) :
    windowHas (Xf.move a v1 v2 x p).s (x.get v1 (a.v.place v1.acc.o (a.v.tuple p)) e).1.s k (e + (8 - (k + e) % 8))
      (x.get v1 (a.v.place v1.acc.o (a.v.tuple p)) e).2 := by
  subst he hk
  rw [move_fld h]
  dsimp only
  rw [rowBit_eq, if_pos ⟨hlast, hin⟩]
  have hhas := windowHas_winBits_padded (x.get v1 (a.v.place v1.acc.o (a.v.tuple p)) (a.v.width v1.acc.o)).1
    (windowBit a (pitchFor a (a.v.width v1.acc.o)) (a.v.width v1.acc.o) (p / a.v.ext 0) (p % a.v.ext 0)) (a.v.width v1.acc.o)
    (x.get v1 (a.v.place v1.acc.o (a.v.tuple p)) (a.v.width v1.acc.o)).2
    (8 - (windowBit a (pitchFor a (a.v.width v1.acc.o)) (a.v.width v1.acc.o) (p / a.v.ext 0) (p % a.v.ext 0) + a.v.width v1.acc.o) % 8)
  rwa [Nat.mod_eq_of_lt (get_lt ..)] at hhas

/-- FGTH writes its rows at whole chunks of 64 bytes (R115). -/
theorem move_fgth {S : Bool} {w : BitVec 4} {y z : BitVec 5} {rows : BitVec 6} {t : Nat → Nat} (h : a.e.w = .fgth S w y z rows)
    (ht : a.tupleAt p = some t) : Xf.move a v1 v2 x p =
    let e := a.v.width v1.acc.o
    let g := x.get v1 (a.v.place v1.acc.o t) e
    g.1.winBits (windowBit a (((a.v.ext 0 * e + 7) / 8 + 63) / 64 * 64) e (p / a.v.ext 0) (p % a.v.ext 0)) e g.2 := by
  unfold Xf.move
  rw [h, ht]
  rfl

theorem windowHas_move_fgth {S : Bool} {w : BitVec 4} {y z : BitVec 5} {rows : BitVec 6} {t : Nat → Nat} {e : Nat} (h : a.e.w = .fgth S w y z rows)
    (ht : a.tupleAt p = some t) (he : a.v.width v1.acc.o = e) :
    windowHas (Xf.move a v1 v2 x p).s (x.get v1 (a.v.place v1.acc.o t) e).1.s
      (windowBit a (((a.v.ext 0 * e + 7) / 8 + 63) / 64 * 64) e (p / a.v.ext 0) (p % a.v.ext 0)) e (x.get v1 (a.v.place v1.acc.o t) e).2 := by
  subst he
  rw [move_fgth h ht]
  dsimp only
  have hhas := windowHas_winBits (x.get v1 (a.v.place v1.acc.o t) (a.v.width v1.acc.o)).1
    (windowBit a (((a.v.ext 0 * a.v.width v1.acc.o + 7) / 8 + 63) / 64 * 64) (a.v.width v1.acc.o) (p / a.v.ext 0) (p % a.v.ext 0)) (a.v.width v1.acc.o)
    (x.get v1 (a.v.place v1.acc.o t) (a.v.width v1.acc.o)).2
  rwa [Nat.mod_eq_of_lt (get_lt ..)] at hhas

theorem slotHas_intoSlot (x : Xf) (n k e v : Nat) : slotHas (intoSlot x n k e v).s x.s n k e (v % 2 ^ e) := by
  have hdata : ((intoSlot x n k e v).s.slot (intoSlot x n k e v).s.core n).data = (x.s.slot x.s.core n).data.putBits k e v := by
    have hslot : (intoSlot x n k e v).s.slot (intoSlot x n k e v).s.core n =
        { x.s.slot x.s.core n with data := (x.s.slot x.s.core n).data.putBits k e v } :=
      congrArg (Option.getD · Slot.reset) (alGet_alSet_same _ _ _)
    rw [hslot]
  unfold slotHas
  rw [hdata]
  exact ⟨getBits_putBits _ _ _ _, fun b h => get_putBits_out _ _ _ _ b h⟩

theorem modSlot_putBits (x : Xf) (n k e v : Nat) : (x.modSlot n fun y => y.putBits k e v) = intoSlot x n k e v := by
  unfold Xf.modSlot Slot.putBits intoSlot
  rfl

theorem side_eq (arr : Arr) (e r c : Nat) : 8 * arr.side e r c = sideBit (arr.dims e).2 r c := by rw [Arr.side, sideBit]

/-- An element, and with a layout of MX its scale, into a slot (R111, R112). -/
theorem toSlot_of_tuple {n r c : Nat} {arr : Arr} {t : Nat → Nat} (ht : a.tupleAt p = some t) : x.toSlot a v1 n arr r c p =
    let o := v1.acc.o
    let e := a.v.width o
    let g := x.get v1 (a.v.place o t) e
    let u := intoSlot g.1 n (arr.bit e r c) e g.2
    let h := u.get v1 ((o.locate t).1, 8 * o.scaleOff (o.locate t).1 (o.locate t).2) 8
    if o.layout = 3 then intoSlot h.1 n (sideBit (arr.dims e).2 r c) 8 h.2 else u := by
  -- What the reads give is of no account here, and costly to evaluate.
  obtain ⟨get, hget⟩ : ∃ get, Xf.get = get := ⟨_, rfl⟩
  unfold Xf.toSlot
  rw [ht, hget]
  dsimp only
  simp only [modSlot_putBits, side_eq]

/-- Padding into a slot (R112). -/
theorem toSlot_of_padding {n r c : Nat} {arr : Arr} (ht : a.tupleAt p = none) : x.toSlot a v1 n arr r c p =
    let e := a.v.width v1.acc.o
    let u := intoSlot x n (arr.bit e r c) e (shapeOf a.v.shape).pad
    if v1.acc.o.layout = 3 then intoSlot u n (sideBit (arr.dims e).2 r c) 8 0x7F else u := by
  unfold Xf.toSlot
  rw [ht]
  dsimp only
  simp only [modSlot_putBits, side_eq]

/-- An element in a slot whose layout is not of MX (R111, R112). -/
theorem slotHas_toSlot {n r c : Nat} {arr : Arr} {t : Nat → Nat} (ht : a.tupleAt p = some t) (hl : v1.acc.o.layout ≠ 3) :
    slotHas (x.toSlot a v1 n arr r c p).s (x.get v1 (a.v.place v1.acc.o t) (a.v.width v1.acc.o)).1.s n (arr.bit (a.v.width v1.acc.o) r c)
      (a.v.width v1.acc.o) (x.get v1 (a.v.place v1.acc.o t) (a.v.width v1.acc.o)).2 := by
  rw [toSlot_of_tuple ht]
  dsimp only
  rw [if_neg hl]
  have hhas := slotHas_intoSlot (x.get v1 (a.v.place v1.acc.o t) (a.v.width v1.acc.o)).1 n (arr.bit (a.v.width v1.acc.o) r c) (a.v.width v1.acc.o)
    (x.get v1 (a.v.place v1.acc.o t) (a.v.width v1.acc.o)).2
  rwa [Nat.mod_eq_of_lt (get_lt ..)] at hhas

theorem slotHas_toSlot_padding {n r c : Nat} {arr : Arr} (ht : a.tupleAt p = none) (hl : v1.acc.o.layout ≠ 3) :
    slotHas (x.toSlot a v1 n arr r c p).s x.s n (arr.bit (a.v.width v1.acc.o) r c) (a.v.width v1.acc.o)
      ((shapeOf a.v.shape).pad % 2 ^ a.v.width v1.acc.o) := by
  rw [toSlot_of_padding ht]
  dsimp only
  rw [if_neg hl]
  exact slotHas_intoSlot ..

theorem tupleAt_of_fill {S : Bool} {m : BitVec 7} {w : BitVec 4} {k : BitVec 2} (h : a.e.w = .fill S m w k) : a.tupleAt p = some (a.v.tuple p) := by
  rw [FCmd.tupleAt, h]

theorem move_fill {S : Bool} {m : BitVec 7} {w : BitVec 4} {k : BitVec 2} (h : a.e.w = .fill S m w k) :
    Xf.move a v1 v2 x p = x.toSlot a v1 m.toNat (arrOfRole k) (p / a.v.ext 0) (p % a.v.ext 0) p := by
  unfold Xf.move
  rw [h]

theorem move_fillc {S : Bool} {m : BitVec 7} {w : BitVec 4} (h : a.e.w = .fillc S m w) :
    Xf.move a v1 v2 x p = x.toSlot a v1 m.toNat .a (p / a.v.ext 0) (p % a.v.ext 0) p := by
  unfold Xf.move
  rw [h]

theorem move_fst {S : Bool} {w : BitVec 4} {y z : BitVec 5} (h : a.e.w = .fst S w y z) : Xf.move a v1 v2 x p =
    x.put v1 (a.v.place v1.acc.o (a.v.tuple p)) (a.v.width v1.acc.o) (x.s.t.win.getBits (a.rowBit (a.v.width v1.acc.o) p) (a.v.width v1.acc.o)) := by
  unfold Xf.move
  rw [h]

theorem move_fsts {S : Bool} {m : BitVec 7} {w : BitVec 4} (h : a.e.w = .fsts S m w) :
    Xf.move a v1 v2 x p = x.ofSlot a v1 m.toNat (p / a.v.ext 0) (p % a.v.ext 0) p := by
  unfold Xf.move
  rw [h]

theorem move_fcopy {S : Bool} {w w2 : BitVec 4} (h : a.e.w = .fcopy S w w2) : Xf.move a v1 v2 x p =
    let g := x.get v2 (a.v2.place v2.acc.o (a.v2.tuple p)) (a.v.width v1.acc.o)
    if g.1.err.isSome then g.1 else g.1.put v1 (a.v.place v1.acc.o (a.v.tuple p)) (a.v.width v1.acc.o) g.2 := by
  unfold Xf.move
  rw [h]

/-- An element, and with MX data its scale, from a slot (R113). -/
theorem ofSlot_eq (n r c : Nat) : x.ofSlot a v1 n r c p =
    let o := v1.acc.o
    let d := x.s.slot x.s.core n
    let u := x.put v1 (a.v.place o (a.v.tuple p)) (a.v.width o) (d.data.getBits (d.arr.bit (a.v.width o) r c) (a.v.width o))
    if d.mx then u.put v1 ((o.locate (a.v.tuple p)).1, 8 * o.scaleOff (o.locate (a.v.tuple p)).1 (o.locate (a.v.tuple p)).2) 8
      (d.data.getBits (sideBit (d.arr.dims (a.v.width o)).2 r c) 8) else u := by
  obtain ⟨locate, hlocate⟩ : ∃ locate, Obj.locate = locate := ⟨_, rfl⟩
  unfold Xf.ofSlot
  rw [hlocate]
  simp only [side_eq]

/-- A read leaves the line writes that wait as they are. -/
theorem line_buf (x : Xf) (v : Via) (sh ln : Nat) : (x.line v sh ln).1.buf = x.buf := by
  unfold Xf.line
  dsimp only
  split
  · rfl
  · split <;> rfl

theorem get_buf (x : Xf) (v : Via) (at_ : Nat × Nat) (w : Nat) : (x.get v at_ w).1.buf = x.buf := by
  unfold Xf.get
  dsimp only
  split
  · exact line_buf ..
  · exact (line_buf ..).trans (line_buf ..)

@[simp] theorem intoSlot_buf (x : Xf) (n k e v : Nat) : (intoSlot x n k e v).buf = x.buf := by
  rw [intoSlot]

@[simp] theorem winBits_buf (x : Xf) (k e v : Nat) : (x.winBits k e v).buf = x.buf := by
  rw [Xf.winBits]

theorem toSlot_buf (n r c : Nat) (arr : Arr) : (x.toSlot a v1 n arr r c p).buf = x.buf := by
  cases ht : a.tupleAt p with
  | none =>
    rw [toSlot_of_padding ht]
    dsimp only
    split <;> simp only [intoSlot_buf]
  | some t =>
    rw [toSlot_of_tuple ht]
    dsimp only
    split <;> simp only [intoSlot_buf, get_buf]

/-- The words that write no object add no line write. -/
theorem move_buf (h : fetWrites a.e.w = false) : (Xf.move a v1 v2 x p).buf = x.buf := by
  unfold Xf.move
  dsimp only
  split
  · exact toSlot_buf ..
  · exact toSlot_buf ..
  · next hw => rw [hw] at h; cases h
  · split <;> simp only [winBits_buf, get_buf]
  · next hw => rw [hw] at h; cases h
  · simp only [winBits_buf, get_buf]
  · next hw => rw [hw] at h; cases h
  · rfl

end Moves

section Lines

variable {x : Xf} {v : Via} {sh bit w val : Nat}

theorem get_within (hw : bit % 512 + w ≤ 512) : x.get v (sh, bit) w =
    ((x.line v sh (bit / 512)).1, (x.line v sh (bit / 512)).2.toNat / 2 ^ (bit % 512) % 2 ^ w) := by
  unfold Xf.get
  dsimp only
  rw [if_pos hw]

theorem line_of_cached {ln : Nat} {d : Nat × BitVec 512} (h : (x.cache.find? fun p => p.1 == lkey v.acc.oid sh ln) = some d) :
    x.line v sh ln = (x, d.2) := by
  unfold Xf.line
  dsimp only
  rw [h]

theorem overlay_of_absent {buf : List LBuf} {key : Nat} (h : ∀ b ∈ buf, b.key ≠ key) (d : BitVec 512) : overlay buf key d = d := by
  have hnone : (buf.filter fun b => b.key == key) = [] := List.filter_eq_nil_iff.mpr fun b hb => by simpa using h b hb
  rw [overlay, hnone, List.foldl_nil]

/-- A line that no line write waits for is read as it stands. -/
theorem line_of_read {ln : Nat} {s1 : State} {d : BitVec 512} (h : (x.cache.find? fun p => p.1 == lkey v.acc.oid sh ln) = none)
    (hread : (if v.l1 then x.s.readLineL1 x.s.core x.s.t.ctx v.acc.oid v.acc.o sh (64 * ln) v.noalloc
      else x.s.readLine x.s.t.ctx v.acc.oid v.acc.o sh (64 * ln) v.noalloc) = (s1, .ok d))
    (hbuf : ∀ b ∈ x.buf, b.key ≠ lkey v.acc.oid sh ln) (hports : ∀ b ∈ x.s.portBufs, b.key ≠ lkey v.acc.oid sh ln) :
    x.line v sh ln = ({ x with s := s1, cache := (lkey v.acc.oid sh ln, d) :: x.cache }, d) := by
  unfold Xf.line
  dsimp only
  rw [h]
  dsimp only
  rw [hread]
  dsimp only
  rw [overlay_of_absent hports, overlay_of_absent hbuf]

theorem put_within (hw : bit % 512 + w ≤ 512) : x.put v (sh, bit) w val = x.putLine (lkey v.acc.oid sh (bit / 512))
    (BitVec.ofNat 512 (val % 2 ^ w * 2 ^ (bit % 512))) (BitVec.ofNat 512 ((2 ^ w - 1) * 2 ^ (bit % 512))) := by
  unfold Xf.put
  dsimp only
  rw [if_pos hw]

/-- The line write of a line has the bits of the last of the merged data that the mask selects, and its mask covers them (R99). -/
theorem bufPut_joins (buf : List LBuf) (key pos : Nat) (d m : BitVec 512) : ∃ b ∈ bufPut buf key pos d m, b.key = key ∧
    (∀ i, m.getLsbD i = true → b.data.getLsbD i = d.getLsbD i ∧ b.mask.getLsbD i = true) := by
  unfold bufPut
  split
  · next h =>
    obtain ⟨b, hb, hkey⟩ := List.any_eq_true.mp h
    have hkey : b.key = key := by simpa using hkey
    refine ⟨_, List.mem_map_of_mem hb, ?_, fun i hi => ?_⟩
    · rw [if_pos hkey]; exact hkey
    · rw [if_pos hkey]
      constructor
      · rw [mergeBits, BitVec.getLsbD_or, BitVec.getLsbD_and, BitVec.getLsbD_and, BitVec.getLsbD_not, hi]
        simp
      · rw [BitVec.getLsbD_or, hi, Bool.or_true]
  · exact ⟨_, List.mem_append_right _ (List.mem_singleton_self _), rfl, fun i hi => ⟨rfl, hi⟩⟩

theorem mem_of_mem_bufPut {buf : List LBuf} {key pos : Nat} {d m : BitVec 512} {b : LBuf} (hb : b ∈ bufPut buf key pos d m) (hkey : b.key ≠ key) :
    b ∈ buf := by
  unfold bufPut at hb
  split at hb
  · obtain ⟨c, hc, rfl⟩ := List.mem_map.mp hb
    split at hkey
    · next h => exact absurd h hkey
    · next h => rwa [if_neg h]
  · rcases List.mem_append.mp hb with hb | hb
    · exact hb
    · obtain rfl := List.mem_singleton.mp hb
      exact absurd rfl hkey

/-- The bits of w bits of a line from bit k on. -/
theorem getLsbD_placed {k i : Nat} (u : Nat) (hw : k + w ≤ 512) (hi : i < w) :
    (BitVec.ofNat 512 (u % 2 ^ w * 2 ^ k)).getLsbD (k + i) = u.testBit i := by
  rw [BitVec.getLsbD_ofNat, decide_eq_true (by omega), Bool.true_and, Nat.testBit_mul_two_pow, decide_eq_true (by omega), Bool.true_and,
    Nat.add_sub_cancel_left, Nat.testBit_mod_two_pow, decide_eq_true hi, Bool.true_and]

theorem getLsbD_placed_mask {k i : Nat} (hw : k + w ≤ 512) (hi : i < w) : (BitVec.ofNat 512 ((2 ^ w - 1) * 2 ^ k)).getLsbD (k + i) = true := by
  rw [← Nat.mod_eq_of_lt (Nat.sub_lt (Nat.two_pow_pos w) Nat.one_pos), getLsbD_placed _ hw hi, Nat.testBit_two_pow_sub_one, decide_eq_true hi]

/-- Bits put stand in the line write of their line, and its mask covers them; another line's stays (R99). -/
theorem put_joins (hw : bit % 512 + w ≤ 512) :
    (∃ b ∈ (x.put v (sh, bit) w val).buf, b.key = lkey v.acc.oid sh (bit / 512) ∧ b.data.toNat / 2 ^ (bit % 512) % 2 ^ w = val % 2 ^ w ∧
      ∀ i < w, b.mask.getLsbD (bit % 512 + i) = true) ∧
    ∀ b ∈ (x.put v (sh, bit) w val).buf, b.key ≠ lkey v.acc.oid sh (bit / 512) → b ∈ x.buf := by
  rw [put_within hw]
  refine ⟨?_, fun b hb hkey => mem_of_mem_bufPut hb hkey⟩
  obtain ⟨b, hb, hkey, hbits⟩ := bufPut_joins x.buf (lkey v.acc.oid sh (bit / 512)) x.pos
    (BitVec.ofNat 512 (val % 2 ^ w * 2 ^ (bit % 512))) (BitVec.ofNat 512 ((2 ^ w - 1) * 2 ^ (bit % 512)))
  refine ⟨b, hb, hkey, Nat.eq_of_testBit_eq fun i => ?_, fun i hi => (hbits _ (getLsbD_placed_mask hw hi)).2⟩
  rw [Nat.testBit_mod_two_pow, Nat.testBit_mod_two_pow, Nat.testBit_div_two_pow]
  by_cases hi : i < w
  · rw [Nat.add_comm i, BitVec.testBit_toNat, (hbits _ (getLsbD_placed_mask hw hi)).1, getLsbD_placed _ hw hi]
  · simp [hi]

end Lines
section Request

variable {s : State} {n : Nat} {a : FCmd} {r : FReq} {rs : List FReq} {v1 v2 : Via}

/-- Nothing of the partition waits at its fetch-issue weir (R105). -/
theorem transferWaits_of_granted (h : ∀ x ∈ s.transfers, x.cls = 1 → x.part ≠ s.t.part) : s.transferWaits = false := by
  unfold State.transferWaits
  rw [List.any_eq_false]
  intro x hx hw
  rw [Bool.and_eq_true, beq_iff_eq, beq_iff_eq] at hw
  exact h x hx hw.1 hw.2

/-- The oldest request of a command completes. -/
theorem exec_complete (h : mayComplete s n a r rs) : exec (.fetchRequestComplete n) s = .next (s.complete a none) := by
  obtain ⟨hcmd, hout, hgrant⟩ := h
  have hlines : (s.t.f.cmd n).filter FCmd.awaitsLines = none := by
    rw [hcmd, Option.filter_some, if_neg]
    simp [FCmd.awaitsLines, hout]
  have hexec : exec (.fetchRequestComplete n) s = execFetchRequestComplete n s := rfl
  rw [hexec, execFetchRequestComplete, hlines]
  dsimp only
  rw [State.atRequest, hcmd]
  dsimp only
  rw [hout]
  dsimp only
  rw [transferWaits_of_granted hgrant, if_neg Bool.false_ne_true]

/-- A request whose elements have moved without an error is closed (R107, R124). -/
theorem complete_of_moved {s1 : State} {a1 : FCmd} (hout : a.outst = r :: rs) (hbad : r.bad = false) (hmove : s.moveReq a r none = (s1, a1, none)) :
    s.complete a none = roomFor s (s1.closeReq a1 r rs) := by
  unfold State.complete
  rw [hout]
  dsimp only
  rw [hbad, if_neg Bool.false_ne_true, hmove]
  rfl

theorem movedAll_eq (s : State) (a : FCmd) (r : FReq) (v1 v2 : Via) :
    movedAll s a r v1 v2 = ((List.range r.count).map (r.first + ·)).foldl (Xf.move a v1 v2) (Xf.start (s.withChunk a.chunk) a.buf r.first) := by
  unfold movedAll
  cases a.chunk <;> rfl

theorem chunkOf_of_other (h : ∀ S w y z, a.e.w ≠ .fst S w y z) (u : State) (e next : Nat) : chunkOf a u e next = none := by
  unfold chunkOf
  dsimp only
  split
  · next hw => exact absurd hw (h _ _ _ _)
  · rfl

theorem chunkAfter_of_other (h : ∀ S w y z, a.e.w ≠ .fst S w y z) (u : State) (e next : Nat) : a.chunkAfter u e next = none := by
  unfold FCmd.chunkAfter
  split
  · next hw => exact absurd hw (h _ _ _ _)
  · rfl

theorem chunkAfter_eq (a : FCmd) (u : State) (e next : Nat) : a.chunkAfter u e next = chunkOf a u e next := by
  by_cases h : ∃ S w y z, a.e.w = .fst S w y z
  · obtain ⟨S, w, y, z, h⟩ := h
    unfold FCmd.chunkAfter chunkOf
    rw [h]
    rfl
  · have hno : ∀ S w y z, a.e.w ≠ .fst S w y z := fun S w y z hw => h ⟨S, w, y, z, hw⟩
    rw [chunkAfter_of_other hno, chunkOf_of_other hno]

/-- The elements of a request of a word other than FPRE, and the lines that no later element writes (R99). -/
theorem moveReq_of_moved {s1 : State} (hpre : ∀ S w k, a.e.w ≠ .fpre S w k) (h1 : s.viaOf r.oid a.v (viaL1 a.e.w) = some v1)
    (h2 : s.viaOf r.oid2 a.v2 (viaL1 a.e.w) = some v2) {x : Xf} (hx : movedAll s a r v1 v2 = x) (herr : x.err = none)
    (hsend : State.sendLines r.oid v1.acc.o a.v.noalloc (x.buf.filter fun b => !a.linePending v1.acc.o v2.acc.o (r.first + r.count) b.key)
      (if fetWrites a.e.w then x.s.winOf s else x.s) = (s1, none)) :
    s.moveReq a r none = (s1, { a with
      buf := x.buf.filter fun b => a.linePending v1.acc.o v2.acc.o (r.first + r.count) b.key
      chunk := chunkOf a x.s (a.v.width v1.acc.o) (r.first + r.count) }, none) := by
  unfold State.moveReq
  split
  · next S w k hw => exact absurd hw (hpre S w k)
  · simp only [h1, h2, Option.isSome_none, Bool.false_and, Bool.false_eq_true, if_false, ← movedAll_eq, hx, herr, chunkAfter_eq, Option.map_none,
      Option.orElse_eq_orElse, Option.orElse_none, hsend]

/-- The lines of a request of FPRE (R119). -/
theorem moveReq_of_prefetched {s1 : State} {S : Bool} {w : BitVec 4} {k : BitVec 2} (hw : a.e.w = .fpre S w k)
    (h1 : s.viaOf r.oid a.v (viaL1 a.e.w) = some v1) (h2 : s.viaOf r.oid2 a.v2 (viaL1 a.e.w) = some v2)
    (hlines : s.preLines r.oid v1.acc.o (k == 2) ((List.range r.count).flatMap fun i =>
      lkeys a.oid (a.v.place v1.acc.o (a.v.tuple (r.first + i))) (a.v.width v1.acc.o)).eraseDups = (s1, none)) :
    s.moveReq a r none = (s1, a, none) := by
  have hplaces : ∀ p, a.places v1.acc.o v2.acc.o p = [(a.oid, a.v.place v1.acc.o (a.v.tuple p), a.v.width v1.acc.o)] := fun p => by
    have htuple : a.tupleAt p = some (a.v.tuple p) := by rw [FCmd.tupleAt, hw]
    rw [FCmd.places, htuple, hw]
  unfold State.moveReq
  split
  · next S' w' k' hw' =>
    cases hw.symm.trans hw'
    simp only [h1, h2, hplaces, List.flatMap_map, List.flatMap_singleton, Option.isSome_none, Bool.false_eq_true, if_false, hlines, Option.map_none,
      Option.orElse_eq_orElse, Option.orElse_none]
  · next hno => exact absurd hw (hno S w k)

theorem movedAll_buf (h : fetWrites a.e.w = false) : (movedAll s a r v1 v2).buf = a.buf := by
  rw [movedAll_eq]
  generalize (List.range r.count).map (r.first + ·) = ps
  have hfold : ∀ x : Xf, (ps.foldl (Xf.move a v1 v2) x).buf = x.buf := by
    induction ps with
    | nil => exact fun _ => rfl
    | cons p ps ih => exact fun x => (ih _).trans (move_buf h)
  exact hfold _

/-- A request of a word that writes no object, once it completes (R107). -/
theorem complete_of_reads (hm : mayComplete s n a r rs) (hbad : r.bad = false) (h1 : s.viaOf r.oid a.v (viaL1 a.e.w) = some v1)
    (h2 : s.viaOf r.oid2 a.v2 (viaL1 a.e.w) = some v2) (hpre : ∀ S w k, a.e.w ≠ .fpre S w k) (herr : (movedAll s a r v1 v2).err = none)
    (hreads : fetWrites a.e.w = false) (hbuf : a.buf = []) (hchunk : a.chunk = none) :
    exec (.fetchRequestComplete n) s = .next (roomFor s ((movedAll s a r v1 v2).s.closeReq a r rs)) := by
  have hxbuf : (movedAll s a r v1 v2).buf = [] := (movedAll_buf hreads).trans hbuf
  have hmove := moveReq_of_moved (s1 := (movedAll s a r v1 v2).s) hpre h1 h2 rfl herr (by
    rw [hxbuf, hreads, if_neg Bool.false_ne_true]; rfl)
  have hsame : { a with buf := [], chunk := none } = a := by rw [← hbuf, ← hchunk]
  have hno : ∀ S w y z, a.e.w ≠ .fst S w y z := fun S w y z hw => by rw [hw] at hreads; cases hreads
  rw [hxbuf, chunkOf_of_other hno, List.filter_nil, hsame] at hmove
  rw [exec_complete hm, complete_of_moved hm.2.1 hbad hmove]

/-- A request of a word that writes an object, once it completes: the lines that no later element writes are sent (R99, R107). -/
theorem complete_of_writes {s1 : State} (hm : mayComplete s n a r rs) (hbad : r.bad = false) (h1 : s.viaOf r.oid a.v (viaL1 a.e.w) = some v1)
    (h2 : s.viaOf r.oid2 a.v2 (viaL1 a.e.w) = some v2) (hpre : ∀ S w k, a.e.w ≠ .fpre S w k) (herr : (movedAll s a r v1 v2).err = none)
    (hwrites : fetWrites a.e.w = true)
    (hsend : State.sendLines r.oid v1.acc.o a.v.noalloc
      ((movedAll s a r v1 v2).buf.filter fun b => !a.linePending v1.acc.o v2.acc.o (r.first + r.count) b.key)
      ((movedAll s a r v1 v2).s.winOf s) = (s1, none)) :
    exec (.fetchRequestComplete n) s = .next (roomFor s (s1.closeReq { a with
      buf := (movedAll s a r v1 v2).buf.filter fun b => a.linePending v1.acc.o v2.acc.o (r.first + r.count) b.key
      chunk := chunkOf a (movedAll s a r v1 v2).s (a.v.width v1.acc.o) (r.first + r.count) } r rs)) := by
  have hmove := moveReq_of_moved hpre h1 h2 rfl herr (by rw [hwrites, if_pos rfl]; exact hsend)
  rw [exec_complete hm, complete_of_moved hm.2.1 hbad hmove]

/-- A request of FPRE, once it completes (R119). -/
theorem complete_of_prefetched {s1 : State} {S : Bool} {w : BitVec 4} {k : BitVec 2} (hm : mayComplete s n a r rs) (hbad : r.bad = false)
    (h1 : s.viaOf r.oid a.v (viaL1 a.e.w) = some v1) (h2 : s.viaOf r.oid2 a.v2 (viaL1 a.e.w) = some v2) (hw : a.e.w = .fpre S w k)
    (hlines : s.preLines r.oid v1.acc.o (k == 2) ((List.range r.count).flatMap fun i =>
      lkeys a.oid (a.v.place v1.acc.o (a.v.tuple (r.first + i))) (a.v.width v1.acc.o)).eraseDups = (s1, none)) :
    exec (.fetchRequestComplete n) s = .next (roomFor s (s1.closeReq a r rs)) := by
  rw [exec_complete hm, complete_of_moved hm.2.1 hbad (moveReq_of_prefetched hw h1 h2 hlines)]

end Request

section Prefetch

variable {s : State} {oid : BitVec 48} {o : Obj} {pin : Bool} {k : Nat} (ks : List Nat)

/-- A line without an error is prefetched, then those after it (R119). -/
theorem preLines_cons (h : s.lineFault oid o (keyShard k) (keyOff k) = none) :
    s.preLines oid o pin (k :: ks) = (s.prefetchLine s.t.ctx oid o pin (keyShard k) (keyOff k)).preLines oid o pin ks := by
  rw [State.preLines]
  dsimp only
  rw [h]
  rfl

theorem prefetchLine_elsewhere {sh off ctx : Nat} (he : s.elsewhere o sh = true) :
    s.prefetchLine ctx oid o pin sh off = s.askEp ctx (s.nearest o sh) := by
  rw [State.prefetchLine, if_pos he]

theorem prefetchLine_unframed {sh off ctx : Nat} (he : s.elsewhere o sh = false) (hf : s.frameOf oid sh (off / 65536) = none) :
    s.prefetchLine ctx oid o pin sh off = s := by
  rw [State.prefetchLine, if_neg (by rw [he]; exact Bool.false_ne_true), hf]

theorem prefetchLine_framed {sh off ctx : Nat} {f : BitVec 32} (he : s.elsewhere o sh = false) (hf : s.frameOf oid sh (off / 65536) = some f) :
    s.prefetchLine ctx oid o pin sh off = if pin then s.l2pin ctx (physAddr f off) else (s.l2fill ctx (physAddr f off) false false).1 := by
  rw [State.prefetchLine, if_neg (by rw [he]; exact Bool.false_ne_true), hf]

end Prefetch

section Ports

variable {s : State} {q : BitVec 2} {p : Port} {acc : Acc}

/-- A port's resolved element joins its read-ahead, waits on for its reply, or is lost (R117, R127, R128). -/
theorem portFetch_elementRead (s : State) (q : Nat) (p : Port) (acc : Acc) : elementRead s q p acc (s.portFetch q p acc) := by
  unfold elementRead State.portFetch
  refine ⟨fun s1 d h => ?_, fun s1 d b h => ⟨fun u hu => ?_, fun hu hd => ?_, fun hu hd => ?_⟩⟩ <;> rw [h] <;> dsimp only
  · rfl
  · rw [hu]
  · rw [hu]
    dsimp only
    rw [if_pos hd]
    rfl
  · rw [hu]
    dsimp only
    rw [hd, if_neg Bool.false_ne_true]
    rfl

/-- What a read of a port's element gives (R117). -/
theorem portRead_eq (s : State) (p : Port) (acc : Acc) : s.portRead p acc = ((portElement s p acc (p.count % p.perPass)).1.s,
    BitVec.ofNat 2048 (portElement s p acc (p.count % p.perPass)).2, (portElement s p acc (p.count % p.perPass)).1.err) := by
  obtain ⟨get, hget⟩ : ∃ get, Xf.get = get := ⟨_, rfl⟩
  unfold State.portRead portElement
  rw [hget]
  rfl

theorem wholeOf_eq (p : Port) (n : Nat) : p.wholeOf n = passElems p n := by
  rw [Port.wholeOf, passElems]

/-- The elements of the next request of an outbound port are written (R117). -/
theorem portWrite_elementWritten (s : State) (q : Nat) (p : Port) (acc : Acc) (x : PElem) : elementWritten s q p acc x (s.portWrite q p acc x) := by
  obtain ⟨put, hput⟩ : ∃ put, Xf.put = put := ⟨_, rfl⟩
  obtain ⟨⟨first, n⟩, hr⟩ : ∃ r, p.request acc = r := ⟨_, rfl⟩
  unfold elementWritten State.portWrite
  simp only [wholeOf_eq, hput, hr]
  intro s1 hsend
  simp only [hsend]

/-- A running task's inbound binding that may read ahead: none of the conditions holds under which it rests (R117). -/
def readsAhead (s : State) (p : Port) : Prop :=
  s.t.st = .running ∧ p.bound = true ∧ p.out = false ∧ p.dead = false ∧ p.halted = false ∧ p.ended = false ∧ p.mason = none ∧ p.perPass ≠ 0 ∧
    p.fifo.length < 8 ∧ s.transferWaits = false

/-- An outbound port that may write: none of the conditions holds under which it rests (R117). -/
def writesOut (s : State) (p : Port) : Prop :=
  p.out = true ∧ p.dead = false ∧ p.halted = false ∧ p.mason = none ∧ s.transferWaits = false

theorem readAhead_unguarded (h : readsAhead s p) : ¬ (s.t.st ≠ .running ∨ !p.bound ∨ p.out ∨ p.dead ∨ p.halted ∨ p.ended ∨ p.mason.isSome ∨
    p.perPass = 0 ∨ 8 ≤ p.fifo.length ∨ s.transferWaits) := by
  obtain ⟨hst, hbound, hout, hdead, hhalt, hend, hmason, hpass, hfifo, hgrant⟩ := h
  simp [hst, hbound, hout, hdead, hhalt, hend, hmason, hpass, hfifo, hgrant]

theorem streamWrite_unguarded (h : writesOut s p) : ¬ (!p.out ∨ p.dead ∨ p.halted ∨ p.mason.isSome ∨ s.transferWaits) := by
  obtain ⟨hout, hdead, hhalt, hmason, hgrant⟩ := h
  simp [hout, hdead, hhalt, hmason, hgrant]

/-- An element that is resolved is read (R55, R117). -/
theorem exec_readAhead_resolved (h : readsAhead s (s.port q.toNat)) (hres : (s.port q.toNat).res = true)
    (hacc : s.portAcc (s.port q.toNat) = some acc) : exec (.streamReadAhead q) s = .next (s.portFetch q.toNat (s.port q.toNat) acc) := by
  have hexec : exec (.streamReadAhead q) s = execStreamReadAhead q s := rfl
  rw [hexec, execStreamReadAhead]
  dsimp only
  rw [if_neg (readAhead_unguarded h), if_pos hres, hacc]

/-- The next element is asked for once its checks pass (R88, R102, R105, R117). -/
theorem exec_readAhead_checked (h : readsAhead s (s.port q.toNat)) (hres : (s.port q.toNat).res = false) (hstall : s.fetStalled = false)
    (hwait : s.portMustWait q.toNat (s.port q.toNat) = false) (hfail : (s.port q.toNat).fail = none)
    (hcheck : s.portChecked (s.port q.toNat) (whoOf (.fbind false 0 0 false false)) = .ok acc) :
    exec (.streamReadAhead q) s = .next (s.portIssue q.toNat (s.port q.toNat) acc) := by
  have hexec : exec (.streamReadAhead q) s = execStreamReadAhead q s := rfl
  rw [hexec, execStreamReadAhead]
  dsimp only
  rw [if_neg (readAhead_unguarded h), hres, if_neg Bool.false_ne_true, hstall, hwait, if_neg (by simp), hfail, hcheck]

/-- The machine once the next element of an inbound binding is charged and its pages are walked to (R102, R105). -/
def askedFor (s : State) (p : Port) (acc : Acc) : State :=
  let r := p.range (p.count % p.perPass)
  let next := if r.1 + r.2 < p.total then p.pageKeys acc.oid acc.o (r.1 + r.2) 1 else if p.wrap then p.pageKeys acc.oid acc.o 0 1 else []
  (s.ask 1 s.core s.t.ctx 1).walkPages (p.pageKeys acc.oid acc.o r.1 r.2) next

theorem portIssue_eq (s : State) (q : Nat) (p : Port) (acc : Acc) : s.portIssue q p acc =
    if !p.v.noalloc && (s.runsMiss acc true (p.lineRuns acc.oid acc.o)) then
      ((askedFor s p acc).reserveRuns acc true (p.lineRuns acc.oid acc.o)).setPort q
        { p with asked := some s.ticks, res := true, runs := p.lineRuns acc.oid acc.o }
    else (askedFor s p acc).portFetch q p acc := rfl

/-- The next request of a resolved head is written (R55, R117). -/
theorem exec_streamWrite_resolved {x : PElem} {rest : List PElem} (h : writesOut s (s.port q.toNat)) (hres : (s.port q.toNat).res = true)
    (hfifo : (s.port q.toNat).fifo = x :: rest) (hacc : s.portAcc (s.port q.toNat) = some acc) :
    exec (.streamWrite q) s = .next (s.portWrite q.toNat (s.port q.toNat) acc x).settleFunb := by
  have hexec : exec (.streamWrite q) s = execStreamWrite q s := rfl
  rw [hexec, execStreamWrite]
  dsimp only
  rw [if_neg (streamWrite_unguarded h), if_pos hres, hfifo, hacc]

/-- The next request of a head is charged, translated and written once its checks pass and its pages have frames (R102, R105, R117, R301). -/
theorem exec_streamWrite_checked {s1 : State} {x : PElem} {rest : List PElem} (h : writesOut s (s.port q.toNat)) (hres : (s.port q.toNat).res = false)
    (hstall : s.fetStalled = false) (hwait : s.portMustWait q.toNat (s.port q.toNat) = false) (hfail : (s.port q.toNat).fail = none)
    (hfifo : (s.port q.toNat).fifo = x :: rest) (hcheck : s.portChecked (s.port q.toNat) (whoOf (.fbind false 0 0 false true)) = .ok acc)
    (hprep : s.prepAll acc (State.portPages (s.port q.toNat) acc) = .ready s1) :
    let p := s.port q.toNat
    let r := p.request acc
    let next := if r.1 + r.2 < p.total then p.pageKeys acc.oid acc.o (r.1 + r.2) 1 else []
    exec (.streamWrite q) s =
      .next (((s1.charge (r.2 * p.width)).walkPages (p.pageKeys acc.oid acc.o r.1 1) next).portWrite q.toNat p acc x).settleFunb := by
  have hexec : exec (.streamWrite q) s = execStreamWrite q s := rfl
  dsimp only
  rw [hexec, execStreamWrite]
  dsimp only
  rw [if_neg (streamWrite_unguarded h), hres, if_neg Bool.false_ne_true, hstall, if_neg Bool.false_ne_true, hwait, hfifo, if_neg (by simp),
    hfail, hcheck]
  dsimp only
  rw [hprep]

/-- Lines that are due are sent once nothing accepted is left to write (R118). -/
theorem exec_streamWrite_due (h : writesOut s (s.port q.toNat)) (hres : (s.port q.toNat).res = false) (hstall : s.fetStalled = false)
    (hfifo : (s.port q.toNat).fifo = []) (hdue : s.portDue q.toNat (s.port q.toNat) = true) :
    exec (.streamWrite q) s = .next (s.flushPort q.toNat).settleFunb := by
  have hexec : exec (.streamWrite q) s = execStreamWrite q s := rfl
  rw [hexec, execStreamWrite]
  dsimp only
  rw [if_neg (streamWrite_unguarded h), hres, if_neg Bool.false_ne_true, hstall, if_neg Bool.false_ne_true, hfifo, if_pos (by simp), if_pos hdue]

/-- Lines that others await are put into their lines (R237). -/
theorem exec_streamWrite_awaited (h : writesOut s (s.port q.toNat)) (hres : (s.port q.toNat).res = false) (hstall : s.fetStalled = false)
    (hfifo : (s.port q.toNat).fifo = []) (hdue : s.portDue q.toNat (s.port q.toNat) = false)
    (hawait : s.portAwaited q.toNat (s.port q.toNat) = true) :
    exec (.streamWrite q) s = .next (s.landPort q.toNat) := by
  have hexec : exec (.streamWrite q) s = execStreamWrite q s := rfl
  rw [hexec, execStreamWrite]
  dsimp only
  rw [if_neg (streamWrite_unguarded h), hres, if_neg Bool.false_ne_true, hstall, if_neg Bool.false_ne_true, hfifo, if_pos (by simp), hdue,
    if_neg Bool.false_ne_true, if_pos hawait]

end Ports

section Image

variable {s : State} {acc : Acc}

/-- A task whose image copy may go on (R272). -/
def copiesImage (s : State) : Prop :=
  s.t.st = .running ∧ s.t.image = true ∧ s.t.imageHalt = false ∧ s.t.starts = [] ∧ s.t.x.hmode = false ∧ s.transferWaits = false

theorem imageCopy_unguarded (h : copiesImage s) : ¬ (s.t.st ≠ .running ∨ !s.t.image ∨ s.t.imageHalt ∨ !s.t.starts.isEmpty ∨ s.t.x.hmode ∨
    s.transferWaits) := by
  obtain ⟨hst, himage, hhalt, hstarts, hmode, hgrant⟩ := h
  simp [hst, himage, hhalt, hstarts, hmode, hgrant]

/-- The length of an image (R267). -/
def imageLen (s : State) : Nat := (s.t.tr.extractLsb' 32 32).toNat

/-- What a read of the next bytes of an image comes to (R73, R272). -/
def imageRead (s u : State) (acc : Acc) : Res :=
  let run := imageRun acc.o s.t.imagePos (imageLen s)
  match u.readObj u.core u.t.ctx acc.oid acc.o run.1 run.2.1 run.2.2 false true with
  | (s1, .ok bs) => .next ((s1.setSpad s.t.imagePos bs).imageOn.imageDone run.2.2 (imageLen s))
  | (s1, .error e) => u.orNoReply (.access .imageCopy acc.h acc.oid [run] 0 0) (e, run.1)
      (.next (u.unlessFull
        (((s1.unpendRuns acc.oid [run]).imageTrap (u.fetchTrap imageWho acc (e, run.1)) false).imageOn.imageDone run.2.2 (imageLen s))))

/-- A request that its tier has answered is read (R55, R272). -/
theorem imageStep_of_asked {t : Word} (h : s.progress = .asked t) : s.imageStep acc (imageLen s) = imageRead s s acc := by
  unfold State.imageStep State.onceRead
  simp only [h]
  rfl

theorem progress_ask (s : State) (cls unit ctx n : Nat) : (s.ask cls unit ctx n).progress = s.progress := by
  unfold State.ask
  split <;> rfl

/-- The transfers of a request at the fetch-issue weir, one for each 512 bytes (R105). -/
theorem charge_eq (s : State) (bits : Nat) : s.charge bits = s.ask 1 s.core s.t.ctx (max 1 ((bits + 4095) / 4096)) := by
  rw [State.charge, cdiv, Nat.add_sub_assoc (by decide)]

/-- A request that is new is charged; its lines are reserved where they are missing, and else it is read (R88, R105, R272). -/
theorem imageStep_of_plain (h : s.progress = .plain) : s.imageStep acc (imageLen s) =
    let run := imageRun acc.o s.t.imagePos (imageLen s)
    let u := s.ask 1 s.core s.t.ctx (max 1 ((8 * run.2.2 + 4095) / 4096))
    if u.runsMiss acc true [run] then .next ((u.reserveRuns acc true [run]).block (.access .imageCopy acc.h acc.oid [run] 0 0) (.asked u.ticks))
    else imageRead s u acc := by
  unfold State.imageStep State.onceRead
  simp only [h, charge_eq, progress_ask]
  rfl

theorem exec_imageCopy_resolved (h : copiesImage s) {z : List (Nat × Nat × Nat) × Word × Word} (hres : s.resolved = some (acc, z)) :
    exec .imageCopy s = s.imageStep acc (imageLen s) := by
  have hexec : exec .imageCopy s = execImageCopy s := rfl
  rw [hexec, execImageCopy, Task.imageOf]
  dsimp only
  rw [if_neg (imageCopy_unguarded h), hres]
  rfl

theorem exec_imageCopy_checked (h : copiesImage s) (hres : s.resolved = none) (hstall : s.fetStalled = false) (hplain : s.progress = .plain)
    (hcheck : s.dataChecked s.t.ctx ((s.t.tr.extractLsb' 64 24).setWidth 64) rREAD imageWho = .ok acc)
    (hbounds : boundsChecked acc (fun _ => 0) (fun j => if j = 0 then imageLen s else 1) imageWho [0, 1, 2, 3] = none) (htier : acc.o.res ≠ 3)
    (hshard : s.shardStalls acc.o (imageRun acc.o s.t.imagePos (imageLen s)).1 rREAD = false) :
    exec .imageCopy s = s.imageStep acc (imageLen s) := by
  have hexec : exec .imageCopy s = execImageCopy s := rfl
  unfold imageLen at hbounds hshard
  rw [hexec, execImageCopy, Task.imageOf]
  dsimp only
  rw [if_neg (imageCopy_unguarded h), hres]
  dsimp only
  rw [hstall, if_neg Bool.false_ne_true, hplain]
  dsimp only
  rw [hcheck, Chk.bind, hbounds]
  dsimp only
  rw [if_neg htier]
  dsimp only
  rw [hshard, if_neg Bool.false_ne_true]
  rfl

/-- The bytes of an image go into the window (R272). -/
theorem imageRead_ok {u s1 : State} {bs : List Byte} (hread : u.readObj u.core u.t.ctx acc.oid acc.o (imageRun acc.o s.t.imagePos (imageLen s)).1
    (imageRun acc.o s.t.imagePos (imageLen s)).2.1 (imageRun acc.o s.t.imagePos (imageLen s)).2.2 false true = (s1, .ok bs)) :
    imageRead s u acc =
      let t := s1.setSpad s.t.imagePos bs
      let k := (imageRun acc.o s.t.imagePos (imageLen s)).2.2
      .next { t with t := { t.t with
        imagePos := t.t.imagePos + k, image := decide (t.t.imagePos + k < imageLen s), c := { t.t.c with wait := none } } } := by
  unfold imageRead
  dsimp only
  rw [hread]
  rfl

/-- A place that may still reply is waited for (R73). -/
theorem imageRead_silent {u s1 : State} {e : Nat} {t : Word} (hread : u.readObj u.core u.t.ctx acc.oid acc.o
    (imageRun acc.o s.t.imagePos (imageLen s)).1 (imageRun acc.o s.t.imagePos (imageLen s)).2.1
    (imageRun acc.o s.t.imagePos (imageLen s)).2.2 false true = (s1, .error e)) (ht : u.unanswered u.progress e = some t) :
    imageRead s u acc = .next (u.block (.access .imageCopy acc.h acc.oid [imageRun acc.o s.t.imagePos (imageLen s)] 0 0) (.asked t)) := by
  unfold imageRead State.orNoReply
  dsimp only
  rw [hread]
  dsimp only
  rw [ht]

end Image

/-- Settles O46: a request by the course of its completion (`complete_of_reads`, `complete_of_writes`, `complete_of_prefetched`), an element by the
equation of its word (`move_fld` and those after it), a line write by `put_joins`, a port by `portFetch_elementRead` and `portWrite_elementWritten`,
and an image by `imageRead`. -/
theorem streamsAndImagesMoveBytes : Obligations.StreamsAndImagesMoveBytes := by
  unfold Obligations.StreamsAndImagesMoveBytes
  refine ⟨fun n s a r rs v1 v2 hm hbad h1 h2 => ?_, fun s oid o pin k ks => ?_, fun a v1 v2 x p S w w2 y z rows m k => ?_,
    fun x v sh bit w val hw => ?_, fun q s p acc hp hgrant hdead hhalt hmason => ?_, fun s acc hst himage hhalt hstarts hmode hgrant => ?_⟩
  · exact ⟨fun hpre herr => ⟨complete_of_reads hm hbad h1 h2 hpre herr, fun hw _ hsend => complete_of_writes hm hbad h1 h2 hpre herr hw hsend⟩,
      fun _ _ _ hw _ hlines => complete_of_prefetched hm hbad h1 h2 hw hlines⟩
  · refine ⟨rfl, fun hf he => ?_, fun hf he hfr => ?_, fun f hf he hfr => ?_⟩
    · rw [preLines_cons ks hf, prefetchLine_elsewhere he]
    · rw [preLines_cons ks hf, prefetchLine_unframed he hfr]
    · rw [preLines_cons ks hf, prefetchLine_framed he hfr]
  · refine ⟨fun hw => windowHas_move_fld hw rfl rfl, fun hw => windowHas_move_fld_padded hw rfl rfl, fun hw => move_fst hw,
      fun hw t ht => windowHas_move_fgth hw ht rfl, fun hw hl => ?_, fun hw hl => ?_,
      fun hw hl => ⟨fun t ht => ?_, fun ht => ?_⟩, fun hw hl => ⟨fun t ht => ?_, fun ht => ?_⟩, fun d hw hd => ?_, fun hw herr => ?_⟩
    · rw [move_fill hw]
      exact slotHas_toSlot (tupleAt_of_fill hw) hl
    · rw [move_fill hw, toSlot_of_tuple (tupleAt_of_fill hw)]
      exact if_pos hl
    · rw [move_fillc hw]
      exact slotHas_toSlot ht hl
    · rw [move_fillc hw]
      exact slotHas_toSlot_padding ht hl
    · rw [move_fillc hw, toSlot_of_tuple ht]
      exact if_pos hl
    · rw [move_fillc hw, toSlot_of_padding ht]
      exact if_pos hl
    · subst hd
      rw [move_fsts hw, ofSlot_eq]
      exact ⟨fun hmx => if_neg (ne_true_of_eq_false hmx), fun hmx => if_pos hmx⟩
    · rw [move_fcopy hw]
      exact if_neg (by rw [herr]; exact Bool.false_ne_true)
  · refine ⟨fun d hd => ?_, fun s1 d hd hread hbuf hports => ?_, fun _ => put_joins hw⟩
    · rw [get_within hw, line_of_cached hd]
    · rw [get_within hw, line_of_read hd hread hbuf hports]
  · subst hp
    have hwaits := transferWaits_of_granted hgrant
    refine ⟨fun hbound hout hend hpass hst hfifo => ?_, portRead_eq .., fun hout => ?_, fun x => portWrite_elementWritten _ _ _ _ x, ?_⟩
    · have hreads : readsAhead s (s.port q.toNat) := ⟨hst, hbound, hout, hdead, hhalt, hend, hmason, hpass, hfifo, hwaits⟩
      refine ⟨fun hres hacc => ⟨_, exec_readAhead_resolved hreads hres hacc, portFetch_elementRead _ _ _ _⟩,
        fun hres hstall hwait hfail hcheck => ⟨fun hmiss => ?_, fun hhit => ?_⟩⟩
      · rw [exec_readAhead_checked hreads hres hstall hwait hfail hcheck, portIssue_eq, if_pos (by simpa using hmiss)]
        rfl
      · rw [exec_readAhead_checked hreads hres hstall hwait hfail hcheck, portIssue_eq, if_neg (by simpa using hhit)]
        exact ⟨_, rfl, portFetch_elementRead _ _ _ _⟩
    · have hwrites : writesOut s (s.port q.toNat) := ⟨hout, hdead, hhalt, hmason, hwaits⟩
      refine ⟨fun x rest hres hfifo hacc => exec_streamWrite_resolved hwrites hres hfifo hacc,
        fun s1 x rest hres hstall hwait hfail hfifo hcheck hprep => ?_, fun hres hstall hfifo hdue => exec_streamWrite_due hwrites hres hstall hfifo hdue,
        fun hres hstall hfifo hdue hawait => exec_streamWrite_awaited hwrites hres hstall hfifo hdue hawait⟩
      rw [exec_streamWrite_checked hwrites hres hstall hwait hfail hfifo hcheck hprep, charge_eq]
    · rw [Port.request, wholeOf_eq]
  · have hcopies : copiesImage s := ⟨hst, himage, hhalt, hstarts, hmode, transferWaits_of_granted hgrant⟩
    refine ⟨fun hres hstall hplain hcheck hbounds htier hshard => ?_, fun z t hres hasked => ?_⟩
    · have hexec := (exec_imageCopy_checked hcopies hres hstall hplain hcheck hbounds htier hshard).trans (imageStep_of_plain hplain)
      exact ⟨fun hmiss => hexec.trans (if_pos hmiss), fun hmiss =>
        have hread := hexec.trans (if_neg (ne_true_of_eq_false hmiss))
        ⟨fun _ _ h => hread.trans (imageRead_ok h), fun _ _ _ h ht => hread.trans (imageRead_silent h ht)⟩⟩
    · have hread := (exec_imageCopy_resolved hcopies hres).trans (imageStep_of_asked hasked)
      exact ⟨fun _ _ h => hread.trans (imageRead_ok h), fun _ _ _ h ht => hread.trans (imageRead_silent h ht)⟩

end Sys2Proof.Streams
end
